-- ==== Sys2Proof/Word.lean ====
section
/-! DEFINITION. Word.lean: the plain words of the module and the operand types of its commands.
Unit names are `Fin` types, so that no command names a unit that does not exist (R3, R17, R34). Addresses, lengths and
identifiers are natural numbers; exponents and exact sums are integers. -/

namespace Sys2Proof

abbrev Byte := BitVec 8
abbrev Bytes := List Byte

/-- Logical core number (R34). -/
abbrev Core := Fin 256
/-- Queue of a core (R163). -/
abbrev QIx := Fin 4
abbrev Die := Fin 4
/-- Cluster index 8 × die + cluster (R36). -/
abbrev Clu := Fin 32
/-- Walien port W0–W5 (R295). -/
abbrev WPort := Fin 6
/-- Host port H0, H1 (R411). -/
abbrev HPort := Fin 2
abbrev Part := Fin 8
abbrev RingIx := Fin 16
/-- PCI function number of a port: 0 and partition + 1 (R413). -/
abbrev Fn := Fin 9

/-- The principals of the dictionary (R491). -/
inductive Principal where
  | mgmt | hostA | hostB | part (p : Part) | meter
deriving DecidableEq, Repr

/-- Where a Kentis command comes from: a ring of a partition, or the management station for a partition (R437). -/
inductive CmdSrc where
  | ring (p : Part) (r : RingIx)
  | mgmt (p : Part)
deriving DecidableEq, Repr

/-- The three engines of a core. -/
inductive EngUnit where
  | me | se | de
deriving DecidableEq, Repr

/-- Who had issued a request to a host that timed out or failed (R431). -/
inductive HostReq where
  | de (c : Core)
  | cmd (src : CmdSrc)
deriving DecidableEq, Repr

/-- A fabric message with the routing fields of its flits (R302) and its header (R316). `LENGTH` is the length of
`data`, except in a `READ_REQ`, whose requested length is `len`. -/
structure FabMsg where
  op : Nat
  src : Nat
  dst : Nat
  spart : Nat
  dpart : Nat
  vc : Nat
  sseq : Nat
  tag : Nat
  status : Nat
  addr : Nat
  len : Nat
  dirs : Nat
  data : Bytes
deriving DecidableEq, Repr

/-- A flit (R301, R302). `intact` is the verdict of FEC, CRC-32C and, on an encrypted port, the tag check; of one that is not
intact `tagBad` says that it was the tag check that failed (R337). -/
structure Flit where
  type : Nat
  vc : Nat
  dl : Nat
  dst : Nat
  src : Nat
  spart : Nat
  dpart : Nat
  sseq : Nat
  lseq : Nat
  lack : Nat
  crVc : Nat
  crDl : Nat
  crN : Nat
  len : Nat
  first : Bool
  last : Bool
  dirs : Nat
  keyId : Nat
  payload : Bytes
  intact : Bool
  tagBad : Bool := false
deriving DecidableEq, Repr

/-- The header of a sealed Sirrik datagram (R480), the verdict on its tag (R484), and of the header of its operation `RID`, `LENGTH` and
the reserved bits (R487). -/
structure SirrikHdr where
  ver : Nat := 1
  type : Nat := 0x20
  frag : Nat := 0
  nfrag : Nat := 1
  session : Nat
  seq : Nat
  sealOk : Bool
  rid : Nat
  len : Nat
  reserved : Nat := 0
deriving DecidableEq, Repr

/-- What a start-up step finds (R287, R288, R509): whether stored training results pass their checks, the
sub-channels that fell back to full training, those that failed it, and whether each image slot verifies. -/
structure StartReport where
  checksPass : Bool
  slow : List Nat
  failed : List Nat
  image0 : Bool
  image1 : Bool
deriving DecidableEq, Repr

/-- What training and the exchange of IDs found at a Walien port (R297, R333, R335). -/
structure LinkReport where
  peerId : Nat
  peerValid : Bool
  peerPort : Nat
  peerExternal : Bool
  lanes : Nat
deriving DecidableEq, Repr

/-- `n mod 2^w` as a natural number. -/
def wrap (w n : Nat) : Nat := n % 2 ^ w

/-- Bits [hi:lo] of a number whose bit 0 is the least significant (R12). -/
def bits (x hi lo : Nat) : Nat := (x / 2 ^ lo) % 2 ^ (hi + 1 - lo)

/-- Bit `i` of a number. -/
def bit (x i : Nat) : Bool := x.testBit i

/-- Two's-complement reading of a `w`-bit field (R13). -/
def signed (w n : Nat) : Int :=
  if n % 2 ^ w < 2 ^ (w - 1) then (n % 2 ^ w : Nat) else (n % 2 ^ w : Nat) - (2 ^ w : Nat)

/-- Two's-complement writing of an integer into `w` bits (R13). -/
def unsigned (w : Nat) (x : Int) : Nat := (x % (2 ^ w : Nat)).toNat

/-- Saturating addition of a count in a field of `w` bits. -/
def satAdd (w a b : Nat) : Nat := min (a + b) (2 ^ w - 1)

end Sys2Proof
end

