-- ==== Sys2Proof/Syntax.lean ====
section
/-! DEFINITION. Syntax.lean: the commands of the module, one constructor for each row of spec/opcode_table.json, in the
table's order. A command is one whole, indivisible step (spec/95_what_each_step_holds.md). The operands name the unit the
step happens at and carry what comes from outside: a written value, a payload, a verdict on a signature or a tag
(log 11), the granules that read as uncorrectable (log 16), a sensor reading. -/

namespace Sys2Proof

inductive Instr where
  /-- `POWER_ON` (R601). -/
  | powerOn (mv : Nat)
  /-- `PRES_N_HIGH` (R601). -/
  | presNHigh
  /-- `INPUT_UNDERVOLTAGE` (R601). -/
  | inputUndervoltage
  /-- `INPUT_OVERVOLTAGE` (R599). -/
  | inputOvervoltage (mv : Nat)
  /-- `WAKE_N` (R602). -/
  | wakeN
  /-- `START_UP_STEP` (R607). -/
  | startUpStep (rep : StartReport)
  /-- `MODULE_READY` (R607). -/
  | moduleReady (ms : Nat)
  /-- `PWR_MODE_WRITE` (R26). -/
  | pwrModeWrite (pr : Principal) (v : Nat)
  /-- `MODE_CHANGE_STEP` (R26). -/
  | modeChangeStep
  /-- `DEFERRED_MODE_CHANGE` (R28). -/
  | deferredModeChange
  /-- `FAB_MODULE_ID_WRITE` (R42). -/
  | fabModuleIdWrite (pr : Principal) (v : Nat)
  /-- `FAB_TORUS_DIMS_WRITE` (R44). -/
  | fabTorusDimsWrite (pr : Principal) (v : Nat)
  /-- `FRESH_OUT` (R95). -/
  | freshOut (c : Core) (q : QIx) (ue : List Nat)
  /-- `FRESH_HOLD` (R95). -/
  | freshHold (c : Core) (q : QIx) (ue : List Nat)
  /-- `ADD_HOLD` (R95). -/
  | addHold (c : Core) (q : QIx) (ue : List Nat)
  /-- `ADD_OUT` (R95). -/
  | addOut (c : Core) (q : QIx) (ue : List Nat)
  /-- `ME_OP_START` (R95). -/
  | meOpStart (c : Core) (ue : List Nat)
  /-- `ARRAY_PASS_END` (R96). -/
  | arrayPassEnd (c : Core)
  /-- `ME_OP_COMPLETE` (R105). -/
  | meOpComplete (c : Core)
  /-- `ACC_SUMMARY` (R109). -/
  | accSummary (c : Core) (q : QIx)
  /-- `ACC_AGREE` (R110). -/
  | accAgree (c : Core) (q : QIx) (ue : List Nat)
  /-- `ACC_APPLY` (R111). -/
  | accApply (c : Core) (q : QIx) (ue : List Nat)
  /-- `ACC_FREE` (R97). -/
  | accFree (c : Core) (q : QIx)
  /-- `ACC_READ` (R122). -/
  | accRead (c : Core) (q : QIx)
  /-- `BANK_TRANSFER_ARRIVE` (R114). -/
  | bankTransferArrive (i : Nat)
  /-- `BANK_TRANSFER_ADD` (R113). -/
  | bankTransferAdd (c : Core)
  /-- `SOP` (R128). -/
  | sop (c : Core) (q : QIx) (ue : List Nat)
  /-- `MERGE` (R143). -/
  | merge (c : Core) (q : QIx) (ue : List Nat)
  /-- `WEIGHT_UPDATE` (R153). -/
  | weightUpdate (c : Core) (q : QIx) (ue : List Nat)
  /-- `TILE_TOKEN_TAKE` (R145). -/
  | tileTokenTake (c : Core) (ue : List Nat)
  /-- `SE_OP_COMPLETE` (R159). -/
  | seOpComplete (c : Core)
  /-- `NOP` (R168). -/
  | nop (c : Core) (q : QIx)
  /-- `END` (R188). -/
  | endQ (c : Core) (q : QIx)
  /-- `LOOP` (R179). -/
  | loop (c : Core) (q : QIx)
  /-- `LBRK` (R186). -/
  | lbrk (c : Core) (q : QIx)
  /-- `BR` (R185). -/
  | br (c : Core) (q : QIx)
  /-- `LIDX` (R187). -/
  | lidx (c : Core) (q : QIx)
  /-- `LCW` (R171). -/
  | lcw (c : Core) (q : QIx)
  /-- `LCR` (R171). -/
  | lcr (c : Core) (q : QIx)
  /-- `MOVI` (R168). -/
  | movi (c : Core) (q : QIx)
  /-- `ADD` (R168). -/
  | add (c : Core) (q : QIx)
  /-- `SUB` (R168). -/
  | sub (c : Core) (q : QIx)
  /-- `MUL` (R168). -/
  | mul (c : Core) (q : QIx)
  /-- `AND` (R168). -/
  | and (c : Core) (q : QIx)
  /-- `OR` (R168). -/
  | or (c : Core) (q : QIx)
  /-- `XOR` (R168). -/
  | xor (c : Core) (q : QIx)
  /-- `SHL` (R168). -/
  | shl (c : Core) (q : QIx)
  /-- `SHR` (R168). -/
  | shr (c : Core) (q : QIx)
  /-- `SAR` (R168). -/
  | sar (c : Core) (q : QIx)
  /-- `MIN` (R168). -/
  | min (c : Core) (q : QIx)
  /-- `MAX` (R168). -/
  | max (c : Core) (q : QIx)
  /-- `SLT` (R168). -/
  | slt (c : Core) (q : QIx)
  /-- `SLTU` (R168). -/
  | sltu (c : Core) (q : QIx)
  /-- `SEQ` (R168). -/
  | seq (c : Core) (q : QIx)
  /-- `LD` (R168). -/
  | ld (c : Core) (q : QIx) (ue : List Nat)
  /-- `ST` (R168). -/
  | st (c : Core) (q : QIx)
  /-- `GETID` (R172). -/
  | getid (c : Core) (q : QIx)
  /-- `INSTRUCTION_FETCH` (R164). -/
  | instructionFetch (c : Core) (q : QIx) (addr n : Nat) (ue : List Nat)
  /-- `QUEUE_ENDED` (R192). -/
  | queueEnded (c : Core) (q : QIx)
  /-- `WAIT_RESUME` (R220). -/
  | waitResume (c : Core) (q : QIx)
  /-- `SIG` (R209). -/
  | sig (c : Core) (q : QIx)
  /-- `WAITACQ` (R209). -/
  | waitacq (c : Core) (q : QIx)
  /-- `DEC` (R209). -/
  | dec (c : Core) (q : QIx)
  /-- `FSET` (R212). -/
  | fset (c : Core) (q : QIx)
  /-- `FCLR` (R212). -/
  | fclr (c : Core) (q : QIx)
  /-- `FWAIT` (R212). -/
  | fwait (c : Core) (q : QIx)
  /-- `BAR` (R214). -/
  | bar (c : Core) (q : QIx)
  /-- `BARNB` (R214). -/
  | barnb (c : Core) (q : QIx)
  /-- `SYNC_OP_ARRIVE` (R206). -/
  | syncOpArrive (i : Nat)
  /-- `BOUND_SIGNAL` (R221). -/
  | boundSignal (i : Nat)
  /-- `REMOTE_REFUSAL` (R203). -/
  | remoteRefusal (i : Nat)
  /-- `DEADLOCK_CHECK` (R555). -/
  | deadlockCheck (c : Core) (q : QIx)
  /-- `XFER` (R235). -/
  | xfer (c : Core) (q : QIx) (ue : List Nat)
  /-- `GATHER` (R235). -/
  | gather (c : Core) (q : QIx) (ue : List Nat)
  /-- `SCATTER` (R235). -/
  | scatter (c : Core) (q : QIx) (ue : List Nat)
  /-- `SCATTER_ADD` (R245). -/
  | scatterAdd (c : Core) (q : QIx) (ue : List Nat)
  /-- `BANK` (R255). -/
  | bank (c : Core) (q : QIx)
  /-- `SHADOW_START` (R230). -/
  | shadowStart (c : Core) (ue : List Nat)
  /-- `STATUS_WORD_WRITE` (R249). -/
  | statusWordWrite (c : Core)
  /-- `BOUND_COMPLETION` (R251). -/
  | boundCompletion (c : Core) (i : Nat)
  /-- `DMA_TRANSFER_FAULT` (R254). -/
  | dmaTransferFault (c : Core)
  /-- `PATROL_SCRUB` (R274). -/
  | patrolScrub (d : Die) (ch line : Nat) (found : Fin 3)
  /-- `PATROL_PERIOD_END` (R275). -/
  | patrolPeriodEnd (d : Die) (ch : Nat)
  /-- `MEM_SPARE_REQUEST` (R276). -/
  | memSpareRequest (pr : Principal) (v : Nat)
  /-- `SPARING_COPY_START` (R276). -/
  | sparingCopyStart (d : Die)
  /-- `SPARING_COPY_END` (R280). -/
  | sparingCopyEnd (d : Die) (bad : List Nat)
  /-- `UNIT_CLEAR_START` (R294). -/
  | unitClearStart (d : Die)
  /-- `UNIT_CLEAR_END` (R293). -/
  | unitClearEnd (d : Die)
  /-- `LINK_UP` (R297). -/
  | linkUp (w : WPort) (rep : LinkReport)
  /-- `LINK_SECURING` (R334). -/
  | linkSecuring (w : WPort) (ok : Bool) (reason : Nat)
  /-- `SECURING_RETRY` (R334). -/
  | securingRetry (w : WPort)
  /-- `REKEY` (R336). -/
  | rekey (w : WPort)
  /-- `LANE_BAD` (R299). -/
  | laneBad (w : WPort) (lane : Fin 8)
  /-- `LANE_PAIR_TEST` (R300). -/
  | lanePairTest (w : WPort) (passed : Nat)
  /-- `FLIT_SEND` (R308). -/
  | flitSend (w : WPort)
  /-- `VC0_TOKEN_REFILL` (R309). -/
  | vc0TokenRefill (w : WPort)
  /-- `MSG_FLIT_RECEIVE` (R304). -/
  | msgFlitReceive (w : WPort) (f : Flit)
  /-- `IDLE_FLIT_RECEIVE` (R303). -/
  | idleFlitReceive (w : WPort) (f : Flit)
  /-- `RETRY_FLIT_RECEIVE` (R304). -/
  | retryFlitReceive (w : WPort) (f : Flit)
  /-- `LINKCTL_FLIT_RECEIVE` (R297). -/
  | linkctlFlitReceive (w : WPort) (f : Flit)
  /-- `REPLAY_TIMEOUT` (R304). -/
  | replayTimeout (w : WPort)
  /-- `PORT_RETRAIN_END` (R305). -/
  | portRetrainEnd (w : WPort) (ok : Bool)
  /-- `FAILED_PORT_RETRY` (R305). -/
  | failedPortRetry (w : WPort)
  /-- `WRITE` (R325). -/
  | fabWrite (m : FabMsg)
  /-- `READ_REQ` (R325). -/
  | readReq (m : FabMsg)
  /-- `READ_RESP` (R329). -/
  | readResp (m : FabMsg)
  /-- `SYNC` (R317). -/
  | sync (m : FabMsg)
  /-- `ACK` (R325). -/
  | ack (m : FabMsg)
  /-- `HOLD` (R328). -/
  | hold (m : FabMsg)
  /-- `OPEN_REQ` (R321). -/
  | openReq (m : FabMsg)
  /-- `OPEN_QUEUE_SERVE` (R323). -/
  | openQueueServe
  /-- `OPEN_REPLY` (R322). -/
  | openReply (m : FabMsg)
  /-- `OPEN_RETRY` (R322). -/
  | openRetry (p : Part) (peer : Nat)
  /-- `CLOSE` (R330). -/
  | close (m : FabMsg)
  /-- `CLOSE_REPLY` (R330). -/
  | closeReply (m : FabMsg)
  /-- `LINK_STATE` (R314). -/
  | linkState (w : WPort) (m : FabMsg)
  /-- `SESSION_RESEND_TIMEOUT` (R327). -/
  | sessionResendTimeout (p : Part) (cls peer : Nat)
  /-- `FAB_PORT_EXTERNAL_WRITE` (R333). -/
  | fabPortExternalWrite (pr : Principal) (v : Nat)
  /-- `ROUND_TRIGGER` (R345). -/
  | roundTrigger (p : Part) (h : Nat)
  /-- `XCH_ROLL` (R348). -/
  | xchRoll (m : FabMsg)
  /-- `XCH_AGREE` (R362). -/
  | xchAgree (m : FabMsg)
  /-- `XCH_WX` (R361). -/
  | xchWx (m : FabMsg)
  /-- `XCH_BFX` (R366). -/
  | xchBfx (m : FabMsg)
  /-- `XCH_PROBE` (R369). -/
  | xchProbe (m : FabMsg)
  /-- `XCH_PIECE` (R371). -/
  | xchPiece (m : FabMsg)
  /-- `XCH_COUNT` (R380). -/
  | xchCount (m : FabMsg)
  /-- `XCH_QUOTA` (R380). -/
  | xchQuota (m : FabMsg)
  /-- `XCH_TOKEN` (R380). -/
  | xchToken (m : FabMsg)
  /-- `XCH_RETURN` (R381). -/
  | xchReturn (m : FabMsg)
  /-- `XCH_ABORT` (R350). -/
  | xchAbort (m : FabMsg)
  /-- `XCH_HOLD_TIMEOUT` (R384). -/
  | xchHoldTimeout (p : Part) (i : Nat)
  /-- `EXPORT` (R354). -/
  | exportBank (i : Nat)
  /-- `ROUND_END` (R349). -/
  | roundEnd (p : Part) (h : Nat)
  /-- `ROUND_TIMEOUT` (R349). -/
  | roundTimeout (p : Part) (h : Nat)
  /-- `LAYOUT_DRAINED` (R374). -/
  | layoutDrained (p : Part) (g : Nat)
  /-- `STASH` (R392). -/
  | stash (p : Part) (h : Nat)
  /-- `STASH_COPY_END` (R392). -/
  | stashCopyEnd (p : Part) (h j : Nat)
  /-- `BACKWARD_START` (R392). -/
  | backwardStart (p : Part) (h : Nat)
  /-- `SLOT_DUE` (R392). -/
  | slotDue (p : Part) (h : Nat)
  /-- `SLOT_RESTORE_END` (R394). -/
  | slotRestoreEnd (p : Part) (h j : Nat) (remote : Option Bytes)
  /-- `CHECKPOINT_END` (R401). -/
  | checkpointEnd (p : Part) (lost : Option (Fin 6))
  /-- `RESTORE_END` (R403). -/
  | restoreEnd (p : Part) (images : List (List (Option Bytes)))
  /-- `LAYER_WATCH` (R405). -/
  | layerWatch (p : Part)
  /-- `TENSOR_WATCH_SCAN` (R407). -/
  | tensorWatchScan (p : Part)
  /-- `TENSOR_SCAN_END` (R407). -/
  | tensorScanEnd (p : Part) (t : Nat)
  /-- `SCALE_LOCAL_PHASE` (R409). -/
  | scaleLocalPhase (p : Part)
  /-- `SCALE_APPLY_PHASE` (R409). -/
  | scaleApplyPhase (p : Part)
  /-- `RING_ENABLE` (R418). -/
  | ringEnable (p : Part) (r : RingIx) (tee : Bool)
  /-- `RING_DISABLE` (R418). -/
  | ringDisable (p : Part) (r : RingIx) (tee : Bool)
  /-- `RING_CONTROL_WRITE` (R418). -/
  | ringControlWrite (p : Part) (r : RingIx) (off : Nat) (data : Bytes) (tee : Bool)
  /-- `SLOT_WRITE` (R419). -/
  | slotWrite (p : Part) (r : RingIx) (off : Nat) (data : Bytes) (tee : Bool)
  /-- `COMPLETION_RECORD` (R425). -/
  | completionRecord (p : Part) (r : RingIx)
  /-- `MSIX_PERIOD_END` (R427). -/
  | msixPeriodEnd (h : HPort) (f : Fn) (v : Fin 32)
  /-- `BAR2_WRITE` (R429). -/
  | bar2Write (p : Part) (off : Nat) (data : Bytes) (tee : Bool)
  /-- `BAR2_RESIZE` (R428). -/
  | bar2Resize (p : Part) (log2 : Nat)
  /-- `CONFIG_REQUEST` (R432). -/
  | configRequest (h : HPort) (f : Nat)
  /-- `PCI_LINK_UP` (R412). -/
  | pciLinkUp (h : HPort) (rate width : Nat) (flit : Bool)
  /-- `PERST` (R608). -/
  | perst (h : HPort)
  /-- `FLR` (R433). -/
  | flr (p : Part)
  /-- `LINK_DOWN` (R433). -/
  | linkDown (h : HPort)
  /-- `HOST_COMPLETION_TIMEOUT` (R431). -/
  | hostCompletionTimeout (who : HostReq)
  /-- `NEGOTIATE_ALGORITHMS` (R527). -/
  | negotiateAlgorithms (h : HPort) (f : Fn) (supported : Bool)
  /-- `GET_MEASUREMENTS` (R528). -/
  | getMeasurements (h : HPort) (f : Fn) (ix : Nat)
  /-- `KEY_EXCHANGE` (R530). -/
  | keyExchange (h : HPort) (f : Fn) (mutAuth anchored : Bool)
  /-- `IDE_KM` (R435). -/
  | ideKm (h : HPort) (f : Fn) (session : Nat)
  /-- `LOCK_INTERFACE` (R532). -/
  | lockInterface (p : Part) (session : Nat)
  /-- `START_INTERFACE` (R435). -/
  | startInterface (p : Part) (session : Nat)
  /-- `STOP_INTERFACE` (R535). -/
  | stopInterface (p : Part) (session : Nat)
  /-- `IDE_INTEGRITY_FAILURE` (R534). -/
  | ideIntegrityFailure (p : Part)
  /-- `IDENTIFY` (R442). -/
  | identify (src : CmdSrc)
  /-- `CTX_CREATE` (R448). -/
  | ctxCreate (src : CmdSrc)
  /-- `CTX_DESTROY` (R453). -/
  | ctxDestroy (src : CmdSrc)
  /-- `CTX_RELEASE_COMPLETE` (R453). -/
  | ctxReleaseComplete (src : CmdSrc)
  /-- `CTX_SUSPEND` (R451). -/
  | ctxSuspend (src : CmdSrc)
  /-- `CTX_SAVE_COMPLETE` (R451). -/
  | ctxSaveComplete (src : CmdSrc)
  /-- `CTX_RESUME` (R452). -/
  | ctxResume (src : CmdSrc)
  /-- `HOSTMAP_ADD` (R457). -/
  | hostmapAdd (src : CmdSrc)
  /-- `HOSTMAP_REMOVE` (R457). -/
  | hostmapRemove (src : CmdSrc)
  /-- `PROG_LOAD` (R460). -/
  | progLoad (src : CmdSrc) (ue : List Nat)
  /-- `QUEUE_START` (R454). -/
  | queueStart (src : CmdSrc)
  /-- `QUEUE_RESUME` (R454). -/
  | queueResume (src : CmdSrc)
  /-- `QUEUE_STOP` (R456). -/
  | queueStop (src : CmdSrc)
  /-- `QUEUE_STOP_DRAINED` (R442). -/
  | queueStopDrained (src : CmdSrc)
  /-- `COPY` (R458). -/
  | copy (src : CmdSrc) (ue : List Nat)
  /-- `FILL` (R458). -/
  | fill (src : CmdSrc)
  /-- `SYNC_ALLOC` (R461). -/
  | syncAlloc (src : CmdSrc)
  /-- `SYNC_FREE` (R461). -/
  | syncFree (src : CmdSrc)
  /-- `SYNC_SET` (R462). -/
  | syncSet (src : CmdSrc)
  /-- `SYNC_READ` (R462). -/
  | syncRead (src : CmdSrc)
  /-- `COLL_GROUP_DEFINE` (R463). -/
  | collGroupDefine (src : CmdSrc)
  /-- `COLL_GROUP_REMOVE` (R463). -/
  | collGroupRemove (src : CmdSrc)
  /-- `COLL_START` (R466). -/
  | collStart (src : CmdSrc)
  /-- `COLL_CANCEL` (R464). -/
  | collCancel (src : CmdSrc)
  /-- `EPOCH_ADVANCE` (R373). -/
  | epochAdvance (src : CmdSrc)
  /-- `SHARD_REGISTER` (R467). -/
  | shardRegister (src : CmdSrc)
  /-- `SHARD_REMOVE` (R467). -/
  | shardRemove (src : CmdSrc)
  /-- `SHARD_READ` (R467). -/
  | shardRead (src : CmdSrc)
  /-- `OFFLOAD_ARM` (R391). -/
  | offloadArm (src : CmdSrc) (lent : Bool)
  /-- `OFFLOAD_DISARM` (R396). -/
  | offloadDisarm (src : CmdSrc)
  /-- `LEND` (R468). -/
  | lend (src : CmdSrc)
  /-- `REVOKE` (R390). -/
  | revoke (src : CmdSrc)
  /-- `CKPT_BEGIN` (R399). -/
  | ckptBegin (src : CmdSrc) (found : List (Option (List Bytes)))
  /-- `CKPT_RESTORE` (R403). -/
  | ckptRestore (src : CmdSrc)
  /-- `WATCH_DEFINE` (R409). -/
  | watchDefine (src : CmdSrc)
  /-- `WATCH_REMOVE` (R442). -/
  | watchRemove (src : CmdSrc)
  /-- `WATCH_READ` (R470). -/
  | watchRead (src : CmdSrc)
  /-- `FENCE` (R471). -/
  | fence (src : CmdSrc)
  /-- `DUMP_FETCH` (R472). -/
  | dumpFetch (src : CmdSrc)
  /-- `RECOVERY_POLICY` (R473). -/
  | recoveryPolicy (src : CmdSrc)
  /-- `SHUTDOWN_PREPARE` (R474). -/
  | shutdownPrepare (src : CmdSrc)
  /-- `SHUTDOWN_PREPARE_TIMEOUT` (R474). -/
  | shutdownPrepareTimeout (src : CmdSrc)
  /-- `SHUTDOWN_CANCEL` (R474). -/
  | shutdownCancel (src : CmdSrc)
  /-- `PART_CMD` (R502). -/
  | partCmd (p : Part) (slot : Bytes)
  /-- `DISCOVER` (R482). -/
  | discover (peer : Nat)
  /-- `DISCOVER_REPLY_SEND` (R482). -/
  | discoverReplySend
  /-- `OPEN1` (R483). -/
  | open1 (peer : Nat)
  /-- `OPEN3` (R483). -/
  | open3 (session : Nat) (sealOk chainOk sigOk : Bool)
  /-- `OPEN3_TIMEOUT` (R483). -/
  | open3Timeout (session : Nat)
  /-- `READ` (R487). -/
  | sirrikRead (hd : SirrikHdr) (index sub : Nat)
  /-- `SIRRIK_WRITE` (R487). -/
  | sirrikWrite (hd : SirrikHdr) (index sub : Nat) (data : Bytes) (sigOk : Bool)
  /-- `READ_SEG` (R487). -/
  | readSeg (hd : SirrikHdr) (index sub off len : Nat)
  /-- `WRITE_SEG` (R487). -/
  | writeSeg (hd : SirrikHdr) (index sub off : Nat) (data : Bytes) (sigOk : Bool)
  /-- `SIRRIK_CLOSE` (R485). -/
  | sirrikClose (hd : SirrikHdr)
  /-- `SESSION_IDLE_TIMEOUT` (R485). -/
  | sessionIdleTimeout (session : Nat)
  /-- `FRAGMENT_TIMEOUT` (R480). -/
  | fragmentTimeout (session seq : Nat)
  /-- `AUTH_LOCKOUT_END` (R486). -/
  | authLockoutEnd
  /-- `MGMT_CONFIG_APPLY` (R478). -/
  | mgmtConfigApply
  /-- `REGISTER_WRITE` (R490). -/
  | registerWrite (pr : Principal) (index sub : Nat) (data : Bytes)
  /-- `WINDOW_WRITE` (R505). -/
  | windowWrite (h : HPort) (f : Fn) (off : Nat) (data : Bytes) (tee : Bool)
  /-- `SEGMENT_SELECT` (R506). -/
  | segmentSelect (h : HPort) (f : Fn) (v : Nat) (tee : Bool)
  /-- `IMAGE_COMMIT` (R510). -/
  | imageCommit (sigOk : Bool)
  /-- `IMAGE_STAGE_CLEAR` (R498). -/
  | imageStageClear
  /-- `MGMT_SITE_KEY_WRITE` (R511). -/
  | mgmtSiteKeyWrite (sub : Nat) (key : Bytes)
  /-- `PART_PEERS_WRITE` (R501). -/
  | partPeersWrite (p : Part) (sub v : Nat)
  /-- `PART_CREATE` (R518). -/
  | partCreate (rec : Bytes)
  /-- `PART_DESTROY` (R519). -/
  | partDestroy (v : Nat)
  /-- `SEC_TO_OPEN` (R537). -/
  | secToOpen
  /-- `SEC_TO_ATTESTED` (R536). -/
  | secToAttested
  /-- `SEC_TO_LOCKED` (R536). -/
  | secToLocked
  /-- `SEC_SITE_CERT_WRITE` (R526). -/
  | secSiteCertWrite (off : Nat) (data : Bytes)
  /-- `PART_DEBUG_WRITE` (R541). -/
  | partDebugWrite (pr : Principal) (p : Part) (v : Nat)
  /-- `DBG_TOKEN` (R545). -/
  | dbgToken (token : Bytes) (sigOk : Bool)
  /-- `HANG_DETECTED` (R551). -/
  | hangDetected (c : Core) (u : EngUnit)
  /-- `STALL_DETECTED` (R552). -/
  | stallDetected (x : Nat)
  /-- `ENGINE_RESET_DONE` (R560). -/
  | engineResetDone (c : Core) (u : EngUnit)
  /-- `SUSPECT_CLEARED` (R562). -/
  | suspectCleared (c : Core) (u : EngUnit)
  /-- `JAY_COMPARE` (R570): what errors of the runs add to the CRC of the exact bits, 0 where a run had none (log 68). -/
  | jayCompare (c : Core) (origin checker third fourth : Nat)
  /-- `STRIKE_EXPIRY` (R571). -/
  | strikeExpiry (k : Clu) (slot : Fin 9)
  /-- `MARGIN_RETURN` (R573). -/
  | marginReturn (k : Clu)
  /-- `FIELD_TEST_START` (R575). -/
  | fieldTestStart
  /-- `FIELD_TEST_END` (R576). -/
  | fieldTestEnd (pass : Bool)
  /-- `MIGRATION` (R577). -/
  | migration (c : Core)
  /-- `OBS_SELECT` (R581). -/
  | obsSelect (v : Nat)
  /-- `PART_OBS_SELECT` (R581). -/
  | partObsSelect (pr : Principal) (p : Part) (v : Nat)
  /-- `SELF_TEST_SLICE_END` (R588, R590): the slice's `RESULT`, `DETAIL` and running time, and the places that R591 acts on. -/
  | selfTestSliceEnd (result detail ms : Nat) (faults : List Nat)
  /-- `BIST_FULL_NEXT` (R589). -/
  | bistFullNext (v : Nat)
  /-- `BIST_SKIP_NEXT` (R589). -/
  | bistSkipNext (v : Nat)
  /-- `REP_FUSE_BURN` (R593). -/
  | repFuseBurn (v : Nat)
  /-- `FUSE_BURN_END` (R593). -/
  | fuseBurnEnd
  /-- `REP_UNRETIRE` (R595). -/
  | repUnretire (v : Nat)
  /-- `WAKE` (R609). -/
  | wake (pr : Principal)
  /-- `ENTER_RETENTION` (R605). -/
  | enterRetention (pr : Principal)
  /-- `ENTER_STANDBY` (R614). -/
  | enterStandby (pr : Principal)
  /-- `ENTER_OFF` (R614). -/
  | enterOff (pr : Principal)
  /-- `PWR_SHUTDOWN_REQ` (R614). -/
  | pwrShutdownReq (pr : Principal) (v : Nat)
  /-- `SHUTDOWN_NOTICE_EXPIRY` (R614). -/
  | shutdownNoticeExpiry
  /-- `CLUSTER_CLOCK_GATE` (R603). -/
  | clusterClockGate (k : Clu)
  /-- `THROTTLE_STEP_DOWN` (R610). -/
  | throttleStepDown (k : Clu) (temp : Nat)
  /-- `THROTTLE_STEP_UP` (R610). -/
  | throttleStepUp (k : Clu) (temp : Nat)
  /-- `POWER_CAP_STEP` (R611). -/
  | powerCapStep (watts : Nat)
  /-- `PEAK_LIMIT` (R612). -/
  | peakLimit (watts : Nat)
  /-- `PEAK_RELEASE` (R612). -/
  | peakRelease (avg : Nat)
  /-- `THERMAL_TRIP` (R613). -/
  | thermalTrip (k : Clu) (temp : Nat)
  /-- `METER_POWER_UP` (R620). -/
  | meterPowerUp (answer : Option Bool)
  /-- `METER_SAMPLE` (R617). -/
  | meterSample (mv ma uWh20 : Nat)
  /-- `METER_READING` (R620). -/
  | meterReading (pMax : Nat) (selfTestFail signed : Bool)
  /-- `METER_NV_WRITE` (R619). -/
  | meterNvWrite
  /-- `METER_HOLDUP_SAVE` (R619). -/
  | meterHoldupSave
  /-- `SERIAL_CHECK_RETRY` (R623). -/
  | serialCheckRetry (answer : Option Bool)
  /-- `METER_RECORD_REQUEST` (R627). -/
  | meterRecordRequest
  /-- `METER_RECORD_ARRIVE` (R630). -/
  | meterRecordArrive
  /-- `CABLE_PLUG` (R641). -/
  | cablePlug (w : WPort) (watts : Nat)
  /-- `CABLE_PULL` (R641). -/
  | cablePull (w : WPort)
  /-- `ON_BOARD_LINK_LANE_FAILURE` (R23). -/
  | onBoardLinkLaneFailure (link : Fin 10) (lanes : Nat)
  /-- `SESSION_REOPEN` (R319). -/
  | sessionReopen (p : Part) (peer : Nat)
  /-- `GET_CERTIFICATE` (R526). -/
  | getCertificate (h : HPort) (f : Fn) (slot : Nat)
  /-- `CHALLENGE` (R527). -/
  | challenge (h : HPort) (f : Fn) (slot : Nat)
  /-- `DEBUG_HEADER_INSTRUCTION` (R546). -/
  | debugHeaderInstruction (ins : Nat)
  /-- `COPY_COMPLETE` (R442). -/
  | copyComplete (src : CmdSrc)
  /-- `IMAGE_COMMIT_END` (R510). -/
  | imageCommitEnd
deriving DecidableEq, Repr

end Sys2Proof
end

