-- ==== Sys2Proof/Decode.lean ====
section
/-! DEFINITION. Decode.lean: the command a word spells. The table gives no command any bits (spec/opcode_table.json), so
no word spells one: commands enter through the queue. The 256-bit instruction words of a queue are read from its
instruction buffer by the commands of ch05 (Machine/Operands.lean, Machine/Queues.lean). -/

namespace Sys2Proof

/-- No row of the table gives bits. -/
def decodeTableWord (_nbits _w : Nat) : Option Instr := none

end Sys2Proof
end

