-- ==== Sys2Proof/Config.lean ====
section
/-! DEFINITION. Config.lean: what an implementation fixes and what the spec leaves open, as constants without a body.
Nothing in Lean can evaluate them, so a claim that uses one holds for every value it may have (log 13, log 15). -/

namespace Sys2Proof.Config

/-- A byte whose contents the spec leaves undefined (R9, R258, R292, R349); applied to the state's counter (log 14). -/
opaque freeByte : Nat → Byte

/-- A number that the spec leaves open or has the module draw at random (R483, R544, R579, log 13). -/
opaque freeNat : Nat → Nat

/-- A choice that the spec leaves to timing (R579, log 21). -/
opaque freeBool : Nat → Bool

/-- `IDENT_SERIAL`, byte by byte, written at manufacture (R497, log 15). -/
opaque serialByte : Nat → Byte
/-- `IDENT_MAC` (R497, log 15). -/
opaque macRaw : Nat
/-- `IDENT_PCI_VENDOR` (R497, log 15). -/
opaque vendorRaw : Nat
/-- `JAY_SEED` at manufacture (R582, log 15). -/
opaque jaySeed : Nat
/-- `SEC_DEVICE_CERT` (R524, log 15). -/
opaque deviceCert : Bytes
/-- The Vangok service anchor in ROM (R509, log 15). -/
opaque serviceAnchor : Bytes
/-- The meter's certificate chain, serial, calibration and ROM version (R624, R625, log 15). -/
opaque meterCert : Bytes
opaque meterSerial : Nat
opaque meterCalId : Nat
opaque meterFw : Nat
/-- SHA3-512 of the ROM image (R528, log 12). -/
opaque romDigest : Bytes
/-- SHA3-512, left uninterpreted (log 12). -/
opaque sha3 : Bytes → Bytes
/-- A signature of 4,627 bytes by the device key, left uninterpreted (R525, log 12). -/
opaque sign : Bytes → Bytes
/-- A signature of 4,627 bytes by the meter's own key (R525, R625), left uninterpreted (log 12). -/
opaque meterSign : Bytes → Bytes

/-- Byte `i` of the ciphertext and tag of AES-256-GCM under a key, a nonce and additional data, left uninterpreted (log 12). -/
opaque gcmByte : Nat → Nat → Bytes → Bytes → Nat → Byte

/-- Payload of a link control flit by the kind of what it carries and its fields (R297, R299, R334, log 101). -/
opaque linkCtl : Nat → Nat → Bytes

/-- HKDF with SHA3-512 over a shared secret (by its draw) and a salt, for a direction: key and nonce base (R483). -/
opaque hkdf : Nat → Bytes → Nat → Nat

/-- Where in a partition's memory Kentis carves its ring windows and the images of its objects (R205, R416, log 96). -/
opaque carveAt : Nat → Nat

/-- `RESULT` of IDENTIFY: the spec gives its fields no layout (log 24). -/
opaque identifyRaw : Nat

def identMac : Nat := macRaw % 2 ^ 48
def identVendor : Nat := vendorRaw % 2 ^ 16
def identSerial : Bytes := (List.range 16).map serialByte

end Sys2Proof.Config
end

