-- ==== Sys2Proof/Machine/Table.lean ====
section
/-! DEFINITION. Machine/Table.lean: sparse tables and sparse memory in one canonical form: keys strictly rising, and no
entry equal to what an unlisted key reads as, so that equal contents are equal data. -/

namespace Sys2Proof.Machine

/-- A sparse map from numbers; an unlisted key reads as a default that each use names. -/
abbrev Table (α : Type) := List (Nat × α)

namespace Tbl

variable {α : Type}

/-- The entry at `k`, or `d` where none is listed. -/
def get (d : α) : Table α → Nat → α
  | [], _ => d
  | (i, a) :: t, k => if k = i then a else get d t k

/-- Put `a` at `k`, which must not be the default. -/
def put : Table α → Nat → α → Table α
  | [], k, a => [(k, a)]
  | (i, b) :: t, k, a =>
    if k = i then (k, a) :: t else if k < i then (k, a) :: (i, b) :: t else (i, b) :: put t k a

/-- Remove the entry at `k`. -/
def del : Table α → Nat → Table α
  | [], _ => []
  | (i, b) :: t, k => if k = i then del t k else (i, b) :: del t k

/-- Write `a` at `k`; a default value removes the entry. -/
def set [DecidableEq α] (d : α) (t : Table α) (k : Nat) (a : α) : Table α :=
  if a = d then del t k else put t k a

/-- Change the entry at `k`. -/
def upd [DecidableEq α] (d : α) (t : Table α) (k : Nat) (f : α → α) : Table α :=
  set d t k (f (get d t k))

/-- Apply `f` to every listed entry; one that becomes the default is no longer listed. -/
def mapAll [DecidableEq α] (d : α) (f : Nat → α → α) : Table α → Table α
  | [] => []
  | (i, a) :: t => if f i a = d then del (mapAll d f t) i else (i, f i a) :: mapAll d f t

/-- Keys strictly rising from above `lo`, no entry equal to `d`. -/
def wfFrom [DecidableEq α] (d : α) : Option Nat → Table α → Bool
  | _, [] => true
  | lo, (i, a) :: t => (lo.all (· < i)) && !(decide (a = d)) && wfFrom d (some i) t

/-- The canonical form. -/
def wf [DecidableEq α] (d : α) (t : Table α) : Bool := wfFrom d none t

end Tbl

end Sys2Proof.Machine
end

