-- ==== Sys2Proof/Machine/State.lean ====
section
/-! DEFINITION. Machine/State.lean: everything the spec gives the module, as plain data, and the state right after
reset: the module as manufactured, in P4 with the input absent (log 3). Registers for which the spec gives no reset
value are zero (log 4). Tables are sparse and canonical (Machine/Table.lean). -/

namespace Sys2Proof.Machine

/-- Bytes by address: strictly rising, no listed zero; an unlisted byte reads as zero (log 1). -/
abbrev Memory := List Host.Cell

/-! ### Matrix engine (ch03) -/

/-- Accumulator entry (R94). -/
structure Acc where
  sum : Int := 0
  maxexp : Option Int := none
  win : Int := 0
  inexact : Nat := 0
  ovf : Bool := false
  nonfinite : Bool := false
  replayed : Bool := false
deriving DecidableEq, Repr

/-- Bank states (R96). -/
inductive BankSt where
  | free | busy | opened | agreed
deriving DecidableEq, Repr

/-- A listed operation: the record as it ran, addresses substituted, and its window top (R99). -/
structure ChainOp where
  rcd : Nat
  t : Int
  /-- The operand bytes that it read: the hold rule asks that they stay (R100). -/
  data : Bytes := []
deriving DecidableEq, Repr

/-- Accumulator bank (R94, R99, R113, R114). -/
structure Bank where
  st : BankSt := .free
  accs : List Acc := []
  terms : Nat := 0
  h : Nat := 0
  win : Int := 0
  chain : List ChainOp := []
  agree : Option Nat := none
  ended : Option Nat := none
  /-- Queue, pc and sequence number of the most recent `ACC_APPLY`. -/
  lastApply : Option (Nat × Nat × Nat) := none
  gotTransfer : Bool := false
deriving DecidableEq, Repr

/-- Phase of an accepted ME operation. -/
inductive MePhase where
  /-- Held: its bank is BUSY, or an earlier operation is held (R95, R174). -/
  | held
  /-- An array pass or replay runs (R96). -/
  | running
  /-- Its pass is over, and its sums wait in the BUSY bank for the output stage, which another operation holds (R96, R106). -/
  | passed
  /-- Its sums are in the output stage (R96). -/
  | output
  /-- Output and statistics written, token held for a tile-queue slot (R106). -/
  | tokenHeld
  /-- Output written, completion withheld for a silent-error check (R568). -/
  | checking
deriving DecidableEq, Repr

/-- An operation the ME has accepted, with what R557 retains of it. -/
structure MeOp where
  qid : Nat
  ctx : Nat
  pc : Nat
  seq : Nat
  ins : Nat
  regs : List Nat
  rcd : Nat
  t : Int
  phase : MePhase
  /-- The finished elements in the output stage, half by half. -/
  tile : List Acc := []
  /-- The bias values and column scales, as they were read when the pass began (log 112). -/
  biases : Bytes := []
  scales : Bytes := []
  sampled : Bool := false
  /-- Cluster of the checker's slot (R569). -/
  checker : Nat := 0
  token : Nat := 0
deriving DecidableEq, Repr

/-- A tile-queue slot: the token, whose it is, and whether an SE has taken it (R105, R147). -/
structure TileTok where
  token : Nat
  ctx : Nat
  taken : Bool
deriving DecidableEq, Repr

/-- What a bank transfer carries (R112), and the transfer it belongs to. -/
structure BankXfer where
  srcCore : Nat
  qid : Nat
  ctx : Nat
  pc : Nat
  seq : Nat
  dstCore : Nat
  dstBank : Nat
  dstHalf : Nat
  isExport : Bool
  accs : List Acc
  terms : Nat
  agree : Nat
deriving DecidableEq, Repr

structure MeEng where
  banks : Table Bank := []
  ops : List MeOp := []
  /-- The tile queue, oldest first: eight slots, and behind them restored tokens that the ME holds for a slot (R106, R150). -/
  tokens : List TileTok := []
  xfers : List BankXfer := []
  progress : Nat := 0
deriving DecidableEq, Repr

/-! ### Stream engine (ch04) -/

/-- Counts of an operation statistics record (R74). -/
structure Stats where
  nonfinite : Nat := 0
  inexact : Nat := 0
  sat : Nat := 0
  replay : Nat := 0
  maxexp : Option Int := none
  amaxexp : Option Int := none
deriving DecidableEq, Repr

inductive SePhase where
  /-- Waits at issue for a token (R145). -/
  | token
  /-- Behind an operation of its queue that waits for a token (R175). -/
  | queued
  /-- Its outputs are written; completion is outstanding. -/
  | ran
deriving DecidableEq, Repr

structure SeOp where
  qid : Nat
  ctx : Nat
  pc : Nat
  seq : Nat
  ins : Nat
  regs : List Nat
  rcd : Nat
  phase : SePhase
  token : Option Nat := none
  /-- The token's slot in the tile queue is still the operation's (R147, R150). -/
  slot : Bool := false
  /-- Turn in which its wait for a token began, among the waits of all SEs (R148, R149). -/
  turn : Nat := 0
  stats : Stats := {}
deriving DecidableEq, Repr

structure SeEng where
  ops : List SeOp := []
  progress : Nat := 0
deriving DecidableEq, Repr

/-! ### DMA engine (ch07) -/

/-- A transfer in a register set, or one that awaits bound completion (R229, R249, R251). -/
structure DeXfer where
  qid : Nat
  ctx : Nat
  pc : Nat
  seq : Nat
  ins : Nat
  regs : List Nat
  causal : Nat
  descAddr : Nat
  desc : Nat
  shape : Nat
  started : Bool := false
  /-- Cause of a fault met during the transfer; 0 for none (R254). -/
  cause : Nat := 0
  written : Nat := 0
  clamps : Nat := 0
  sat : Bool := false
  nonfinite : Bool := false
  /-- Messages to other modules not yet acknowledged. -/
  remote : Nat := 0
  /-- Reads from other modules not yet answered, as (tag, address), and the bytes that have arrived. -/
  reads : List (Nat × Nat) := []
  got : List (Nat × Bytes) := []
  /-- A bank transfer that its receiver has not yet added or refused (R255). -/
  bankWait : Bool := false
  /-- Ranges written, as (address, length). -/
  ranges : List (Nat × Nat) := []
deriving DecidableEq, Repr

structure DeEng where
  active : Option DeXfer := none
  shadow : Option DeXfer := none
  waiting : List DeXfer := []
  progress : Nat := 0
deriving DecidableEq, Repr

/-! ### Queues (ch05) -/

/-- Queue states, in the order that codes them 0 to 7 (R191, R455). -/
inductive QSt where
  | idle | running | waiting | ending | ended | stopped | suspended | faulted
deriving DecidableEq, Repr

/-- A loop level: body, remaining count, iteration index, register increments (R179, R180). -/
structure LoopLevel where
  start : Nat
  stop : Nat
  left : Nat
  index : Nat
  incs : List (Nat × Nat)
deriving DecidableEq, Repr

/-- The 64-byte queue fault record (R197), all zero when clear. -/
structure FaultRec where
  pc : Nat := 0
  seq : Nat := 0
  lastSeq : Nat := 0
  iter : List Nat := []
  detail : Nat := 0
  ctx : Nat := 0
  lcore : Nat := 0
  queue : Nat := 0
  depth : Nat := 0
  eng : Nat := 0
  unit : Nat := 0
  cause : Nat := 0
deriving DecidableEq, Repr

/-- A synchronisation operation as its instruction issued it (R168, R209 to R215). -/
structure SyncOp where
  opc : Nat
  obj : Nat
  n : Nat := 0
  idx : Nat := 0
  gen : Nat := 0
  waitOnly : Bool := false
  qid : Nat
  ctx : Nat
  part : Nat
  pc : Nat
  seq : Nat
  causal : Nat
  /-- Some (module, partition): the operation came over the fabric. -/
  remote : Option (Nat × Nat) := none
deriving DecidableEq, Repr

/-- An issued wait of a queue (R191, R199, R219). -/
structure PendWait where
  op : SyncOp
  /-- The operation has reached its object. -/
  arrived : Bool := false
deriving DecidableEq, Repr

structure Queue where
  st : QSt := .idle
  ctx : Option Nat := none
  pc : Nat := 0
  sregs : Table (BitVec 64) := []
  lcs : Table (BitVec 32) := []
  /-- Innermost level first. -/
  loops : List LoopLevel := []
  seq : Nat := 0
  buffer : List (Nat × Nat) := []
  fault : FaultRec := {}
  wait : Option PendWait := none
  /-- Notice of satisfaction on its way, with `CAUSAL` (R220). -/
  notice : Option Nat := none
  /-- State to return to on `CTX_RESUME` (R191). -/
  saved : QSt := .idle
  causal : Nat := 0
  frozen : Bool := false
  /-- Stopped for another queue's fault: the state that it was in, and the microsecond of the stop (R196, log 93). -/
  cut : Option (QSt × Nat) := none
  /-- Ranges written since the last synchronisation point the queue passed (R9). -/
  dirty : List (Nat × Nat) := []
deriving DecidableEq, Repr

/-! ### Synchronisation objects (ch06) -/

/-- Who waits at an object: a queue, or a service of the hub (R346, R386). -/
inductive Client where
  | queue (q : Nat)
  | coll (p h : Nat)
  | stash (p h : Nat)
  | back (p h : Nat)
  | layer (p : Nat)
  | tensor (p : Nat)
  | scaleLocal (p : Nat)
  | scaleApply (p : Nat)
deriving DecidableEq, Repr

structure Waiter where
  who : Client
  n : Nat
  gen : Nat
deriving DecidableEq, Repr

/-- Object kinds (R204). -/
inductive ObjKind where
  | free | counter | flag | barrier
deriving DecidableEq, Repr

/-- The object's state (R204), with what stands behind `WAITERS` and a barrier's producer table (R223). -/
structure SyncObj where
  kind : ObjKind := .free
  count : Nat := 0
  gen : Nat := 0
  partic : Nat := 0
  bmCur : Nat := 0
  bmNext : Nat := 0
  causal : Nat := 0
  prodDecl : Bool := false
  prodExt : Bool := false
  prodCore : Nat := 0
  prodQ : Nat := 0
  /-- Barrier: declared queue of each participant. -/
  prodTab : Table Nat := []
  ctx : Nat := 0
  part : Nat := 0
  lastErr : Nat := 0
  frozen : Bool := false
  waiters : List Waiter := []
deriving DecidableEq, Repr

/-- A bound signal raised and not yet taken (R221), and the transfer or service it counts as. -/
structure BoundSig where
  obj : Nat
  /-- 1 counter add, 2 flag set. -/
  kind : Nat
  n : Nat
  /-- Queue that counts as its producer. -/
  qid : Nat
  ctx : Nat
  part : Nat
  pc : Nat
  seq : Nat
  causal : Nat
  /-- 0 a DE transfer, 1 a Kentis COPY or FILL, 2 a hub service. -/
  origin : Nat
  /-- The command that raised it, for origin 1. -/
  cmd : Nat := 0
deriving DecidableEq, Repr

/-- A refusal of a remote operation on its way back (R203). -/
structure Refusal203 where
  qid : Nat
  /-- Context that sent the operation. -/
  ctx : Nat
  pc : Nat
  seq : Nat
  obj : Nat
  cause : Nat
deriving DecidableEq, Repr

structure SyncSt where
  objs : Table SyncObj := []
  flight : List SyncOp := []
  bound : List BoundSig := []
  refusals : List Refusal203 := []
  /-- Trigger waits of hub services that their counter has satisfied. -/
  granted : List Client := []
  /-- Pulses sent to the event lines of the hub, oldest first (R253). -/
  pulses : List Nat := []
deriving DecidableEq, Repr

/-! ### Module memory (ch08) -/

inductive UnitSt where
  | free | clearing | owned
deriving DecidableEq, Repr

/-- A 16 GiB unit (R292, R389): owner, next state of a clear, lending. -/
structure MemUnit where
  st : UnitSt := .free
  part : Nat := 0
  /-- After the clear: true to OWNED, false to FREE. -/
  toOwned : Bool := false
  /-- Lent: borrower module, borrower partition, use. -/
  lent : Option (Nat × Nat × Nat) := none
  /-- A revocation waits for this clear (R390). -/
  revoking : Bool := false
deriving DecidableEq, Repr

/-- A sub-channel (R275, R285). -/
structure SubCh where
  st : Nat := 0
  event : Nat := 0
  ueLines : List Nat := []
  ce : Nat := 0
  newUe : Bool := false
  fillPtr : Nat := 40632320
deriving DecidableEq, Repr

/-- A sparing event (R278, R279). -/
structure Sparing where
  f : Nat
  survivors : List Nat
  base : List Nat
  live : Nat
  complete : Bool
  ptr : Nat
deriving DecidableEq, Repr

structure DieMem where
  subch : Table SubCh := []
  events : List Sparing := []
  poison : List Nat := []
  degraded : Bool := false
  clearQ : List Nat := []
  /-- The unit being cleared and whether at a quarter of the bandwidth (R294). -/
  clearing : Option (Nat × Bool) := none
deriving DecidableEq, Repr

structure MemSt where
  cells : Memory := []
  /-- Host memory of H0, and of H1 from 2^64 (R431, log 20). -/
  host : Memory := []
  /-- Granules that read as uncorrectable: a 256-byte line of module memory, an 8-byte word on a die (R271, R273). -/
  bad : List Nat := []
  units : Table MemUnit := []
  dies : Table DieMem := []
  scrubPeriodH : Nat := 24
  ceThreshold : Nat := 256
  trainLast : Nat := 0
  trainStored : Bool := false
deriving DecidableEq, Repr

/-! ### Walien fabric (ch09) -/

/-- Port states, coded 0 to 6 (R339). -/
inductive PortSt where
  | down | training | securing | waitId | up | miswired | failed
deriving DecidableEq, Repr

/-- What an end of a link sends in link control (R297, R299, R300, R334, R336). -/
inductive LinkCtl where
  | identity (id : Nat) (valid : Bool) (port : Nat) (external : Bool)
  | width (pairsOff lseq : Nat)
  | chain | encapsKey | ciphertext | signature
deriving DecidableEq, Repr

/-- Key and nonce base of one direction of an encrypted link (R334). -/
structure LinkKey where
  key : Nat := 0
  base : Nat := 0
deriving DecidableEq, Repr

structure Port where
  st : PortSt := .down
  lanes : Nat := 0
  /-- Encryption is in force, with the keys of either direction (R334 to R336). -/
  encrypted : Bool := false
  txKey : LinkKey := {}
  rxKey : LinkKey := {}
  pairsOff : Nat := 0
  peerId : Nat := 0
  peerPort : Nat := 0
  peerValid : Bool := false
  peerExt : Bool := false
  /-- Times of the drops of each pair, and pairs dropped until the next start (R300). -/
  drops : List (Nat × Nat) := []
  pairsDead : Nat := 0
  retry : List Flit := []
  /-- Flits of `retry` to send again (R304). -/
  replay : List Flit := []
  nextLseq : Nat := 0
  expLseq : Nat := 0
  /-- How often each flit of `retry` was replayed, by `LSEQ` (R305). -/
  tries : Table Nat := []
  /-- Link control that waits to be sent. -/
  ctl : List LinkCtl := []
  /-- A RETRY flit is due, and flits are discarded until the expected one (R304). -/
  retryDue : Bool := false
  /-- Flits to send, each with the slot that it holds: 0 for local injection, 1 + 2 × port + DL for a receive buffer. -/
  txq : List (Nat × Flit) := []
  /-- Slots of the receive buffers in use, and credits to return, by 2 × VC + DL (R306). -/
  rxUsed : Table Nat := []
  owed : Table Nat := []
  credits : Table Nat := []
  vc0Tokens : Nat := 64
  deficit1 : Nat := 0
  deficit2 : Nat := 0
  /-- Whose turn it is among dateline classes (by VC) and inputs (R308). -/
  dlTurn : Nat := 0
  inTurn : Nat := 0
  keyId : Nat := 0
  /-- Flit slots of either direction since the key took effect (R335). -/
  slots : Nat := 0
  rxSlots : Nat := 0
  /-- Tag failures in a row of the flit that is expected (R337). -/
  tagFails : Nat := 0
  /-- A failed securing exchange waits for its retry (R334). -/
  secWait : Bool := false
  retraining : Bool := false
  /-- The port retrains because its marking changed, and traffic routes around it (R333). -/
  rerouted : Bool := false
  /-- An optical module of too high a power class is held in low-power mode (R640). -/
  lowPower : Bool := false
  plugged : Bool := false
deriving DecidableEq, Repr

/-- Session states (R319). -/
inductive SessSt where
  | closed | opening | opened | closing | failed
deriving DecidableEq, Repr

/-- A part of a service that a message belongs to: a checkpoint of a partition, by its `SEQ`, at target `i`; slot `j` of a policy in
a round. -/
inductive SvcRef where
  | ckpt (p seq i : Nat)
  | slot (p h round j : Nat)
deriving DecidableEq, Repr

/-- A message that awaits acknowledgement and what it belongs to. -/
structure Outstanding where
  msg : FabMsg
  /-- A DE transfer: core, queue, pc, seq. -/
  de : Option (Nat × Nat × Nat × Nat) := none
  /-- A remote signal of a queue: queue, pc, seq; and the context that sent it. -/
  sig : Option (Nat × Nat × Nat) := none
  ctx : Nat := 0
  svc : Option SvcRef := none
deriving DecidableEq, Repr

structure Session where
  st : SessSt := .closed
  rpart : Nat := 0
  txSeq : Nat := 0
  rxSeq : Nat := 0
  out : List Outstanding := []
  /-- Messages that wait for room in the session's window (R326). -/
  waitq : List Outstanding := []
  resends : Nat := 0
  /-- The resend timer is stopped by a HOLD (R328). -/
  holding : Bool := false
  /-- Arrived messages that wait for a frozen object, and those behind them (R225, R328). -/
  held : List FabMsg := []
  /-- Microsecond of the last `ACK`, and the messages whose `ACK` is still due, each with 0 or its refusal's cause, oldest
  first (R325). -/
  lastAck : Option Nat := none
  ackDue : List (FabMsg × Nat) := []
deriving DecidableEq, Repr

structure FabSt where
  moduleId : Nat := 0
  dims : Nat := 0
  vcWeights : Nat := 0x0301
  vc0Cap : Nat := 13
  external : Nat := 0
  ports : Table Port := []
  /-- Failed ports of modules, as 8 × module + port (R314). -/
  linkMap : List Nat := []
  sessions : Table Session := []
  openQ : List FabMsg := []
  openHigh : Nat := 0
  /-- NOT_READY replies seen for a pair that waits to retry, by 2048 × partition + module (R322). -/
  openRetry : Table Nat := []
  discarded : Nat := 0
  /-- Messages under reassembly, by source module, source partition, destination partition and VC. -/
  assembly : Table FabMsg := []
  /-- Messages delivered to this hub and not yet handled. -/
  rx : List FabMsg := []
  nextTag : Nat := 0
deriving DecidableEq, Repr

/-! ### Collectives (ch10) and training support (ch11) -/

structure Layout where
  epoch : Nat
  origin : Nat
  px : Nat
  py : Nat
  pz : Nat
deriving DecidableEq, Repr

/-- A collective group: the current layout and those that drain (R340, R374). -/
structure Group where
  cur : Layout
  old : List Layout := []
  /-- An EPOCH_ADVANCE that waits for the oldest layout to drain. -/
  waiting : Option Layout := none
deriving DecidableEq, Repr

/-- Where an instance stands in its round. -/
inductive InstPhase where
  | trigger | roll | agree | data | noise | count | quota | ending
deriving DecidableEq, Repr

structure Inst where
  h : Nat
  /-- Identifier of the COLL_START that armed it, and of the one that armed the `DISPATCH` of a `COMBINE`'s `PAIR`; and the round of
  the latter that a round of the `COMBINE` uses (R381, R464). -/
  uid : Nat := 0
  pairUid : Nat := 0
  pairRound : Option Nat := none
  ctx : Nat
  part : Nat
  blk : Nat
  layout : Layout
  round : Nat := 0
  phase : InstPhase := .trigger
  rb : Nat := 0
  sig : Nat := 0
  status : Nat := 0
  causeModule : Nat := 0
  /-- The member's own contribution to the current phase is there. -/
  loaded : Bool := false
  /-- Progress of each half slice in the current phase, by 2 × rank + half (log 18). -/
  prog : Table Nat := []
  /-- Per element: sums, largest exponents (−32768 for none), flags (1 overflowed or unresolved, 2 non-finite). -/
  sums : Table Int := []
  maxe : Table Int := []
  flags : Table Nat := []
  /-- Per element, clamped relative exponents of the agreement; per block, `BMAX` or probe bytes (−128 for none). -/
  dmax : Table Int := []
  /-- Noise sums and their counts of terms (R382). -/
  noise : List (Acc × Nat) := []
  /-- Combined rows of a `COMBINE`, with their counts of terms (R381). -/
  accs : Table (Acc × Nat) := []
  /-- Tiles exported in this round (R354). -/
  exported : List Nat := []
  /-- Ranks whose piece, counts, quotas or rows have arrived, in order (R371, R380). -/
  arrived : List Nat := []
  /-- Dispatch counts, quotas and offsets, by 4096 × rank + expert, and rows received (R380). -/
  counts : Table Nat := []
  quotas : Table Nat := []
  offsets : Table Nat := []
  rows : Nat := 0
  /-- Routes of the member's tokens, and owner and slot base of each expert, as the round of a `DISPATCH` read them; and the
  token of each row in a slot of its experts, by 65536 × expert + slot (R379 to R381, R383). -/
  routes : List Nat := []
  owners : List Nat := []
  bases : List Nat := []
  toks : Table Nat := []
  /-- What has arrived and is written when the data phase is over (R349): pieces of an `ALL_GATHER`, by 2 × rank + half (R371), and
  of an `ALL_TO_ALL`, by rank; rows of a `DISPATCH`, by 65536 × expert + slot. -/
  pieces : Table Bytes := []
  dropped : Nat := 0
  unresolved : Nat := 0
  stats : Stats := {}
  /-- Ranges the round has written. -/
  ranges : List (Nat × Nat) := []
  cancel : Bool := false
deriving DecidableEq, Repr

structure Shard where
  num : Nat
  base : Nat
  len : Nat
  tid : Nat
  ver : Nat
deriving DecidableEq, Repr

/-- State of a slot of an off-load policy within the round (R392). -/
inductive SlotSt where
  | none | copying | free | abandoned | restoring | done
deriving DecidableEq, Repr

structure Policy where
  h : Nat
  ctx : Nat
  blk : Nat
  round : Nat := 0
  /-- Slots whose stash was acquired, and whether the backward pass has started. -/
  stashed : Nat := 0
  backward : Bool := false
  /-- Backward slots that have fallen due, releases received, and slots whose `READY_OBJ` signal is out. -/
  due : Nat := 0
  rel : Nat := 0
  ready : Nat := 0
  slots : Table SlotSt := []
  /-- Slots whose target had gone when they were copied, or at which a message failed (R390, R395). -/
  gone : List Nat := []
deriving DecidableEq, Repr

/-- The next step of a checkpoint (R399): the header with `VALID` = 0, the chunks, the CRC table, the manifest with `VALID` = 1,
its acknowledgement; nothing more. -/
inductive CkptStage where
  | header | chunks | table | manifest | seal | done
deriving DecidableEq, Repr

/-- A running checkpoint or restore: its block, `SEQ`, the slot written at each target, the versions read before the first chunk,
by range, the CRCs of the chunks read so far, and whether a version had changed after the last (R397 to R403). -/
structure Ckpt where
  blk : Bytes
  seq : Nat
  slot : List Nat := []
  stage : CkptStage := .header
  vers : List (Nat × Nat) := []
  crcs : List Nat := []
  torn : Bool := false
  /-- Modules of the targets; and the first target that was lost (R390, R401). -/
  mods : List Nat := []
  lost : Option Nat := none
deriving DecidableEq, Repr

/-- A layer watch, tensor watch or scale table (R405 to R409). -/
structure Watch where
  kind : Nat
  blk : Bytes
  /-- Triggers taken; for a scale table, apply phases. -/
  triggers : Nat := 0
  /-- Step + 1 that a ring entry holds: layer watch by entry, tensor watch by 64 × entry + tensor, scale table at 0. -/
  steps : Table Nat := []
  /-- Scans under way, as 64 × step + tensor (R407). -/
  scanning : List Nat := []
deriving DecidableEq, Repr

/-! ### Host ports and Kentis (ch12, ch13) -/

structure Ring where
  cqBase : Nat := 0
  cqLog2 : Nat := 0
  msixVec : Nat := 0
  expected : Nat := 1
  written : Nat := 0
  consumed : Nat := 0
  badQuotes : Nat := 0
  overrun : Bool := false
  /-- Opcode and tag of the slot that overran, until its record is written (R422). -/
  overrunRec : Option (Nat × Nat) := none
  enable : Bool := false
  window : Memory := []
deriving DecidableEq, Repr

/-- An MSI-X vector (R427) with its table entry: address, data and mask, unmasked by the host before the model begins (log 22). -/
structure Vec where
  addr : Nat := 0
  data : Nat := 0
  masked : Bool := false
  pending : Bool := false
  running : Bool := false
  again : Bool := false
deriving DecidableEq, Repr

/-- A PCI function (R413, R506, R527). -/
structure Func where
  bar2Log2 : Nat := 30
  vecs : Table Vec := []
  wstatus : Nat := 0
  sstatus : Nat := 0
  slen : Nat := 0
  sindex : Nat := 0
  ssub : Nat := 0
  soffset : Nat := 0
  /-- The last NEGOTIATE_ALGORITHMS offered none of the profile's algorithms (R527, log 123). -/
  noAlgs : Bool := false
  /-- SPDM sessions: mutually authenticated to a device anchor or not (R530). -/
  spdm : List Bool := []
  /-- The selective IDE stream of the function is keyed (R411, R435). -/
  ideKeyed : Bool := false
  /-- The AER status of uncorrectable errors (R411, log 97). -/
  aer : Nat := 0
deriving DecidableEq, Repr

/-- A write of a host that has arrived and not yet been carried out (R26, R429): of bytes of BAR2, of slots, of a ring's
control entry, or of its `ENABLE`. -/
inductive HostWrite where
  | bar2 (p : Part) (off : Nat) (data : Bytes)
  | slot (p : Part) (r : RingIx) (off : Nat) (data : Bytes)
  | control (p : Part) (r : RingIx) (off : Nat) (data : Bytes)
  | ring (p : Part) (r : RingIx) (on : Bool)
deriving DecidableEq, Repr

structure PciPort where
  perst : Bool := true
  rate : Nat := 0
  width : Nat := 0
  flit : Bool := false
  /-- The port's link IDE stream is active (R411, R436). -/
  ide : Bool := false
  /-- Writes that back-pressure holds, oldest first (R26, log 90). -/
  held : List HostWrite := []
deriving DecidableEq, Repr

/-- Phases of a taken command: waiting for its turn, in effect and waiting to complete, completed. -/
inductive CmdPhase where
  | fresh | waiting | done
deriving DecidableEq, Repr

structure Cmd where
  id : Nat
  src : CmdSrc
  slot : Nat
  phase : CmdPhase := .fresh
  status : Nat := 0
  result : Nat := 0
  /-- Records are discarded after an FLR (R433). -/
  noRecord : Bool := false
  /-- The Sirrik request that submitted it, as (session, RID). -/
  reply : Option (Nat × Nat) := none
  /-- A bound signal of the command is on its way. -/
  sigOut : Bool := false
deriving DecidableEq, Repr

/-- Context states (ch13). -/
inductive CtxSt where
  | none | resident | suspending | suspended | faulted | destroying
deriving DecidableEq, Repr

/-- What CTX_SUSPEND saved (R199, R225, R451). -/
structure Saved where
  queues : Table Queue := []
  banks : Table Bank := []
  spad : Table Memory := []
  clm : Table Memory := []
  objs : Table SyncObj := []
  meOps : Table (List MeOp) := []
  seOps : Table (List SeOp) := []
  tokens : Table (List TileTok) := []
  /-- Progress counters of the engines of each core (R550). -/
  meCounts : Table Nat := []
  seCounts : Table Nat := []
  deCounts : Table Nat := []
deriving DecidableEq, Repr

structure Ctx where
  st : CtxSt := .none
  part : Nat := 0
  saveAddr : Nat := 0
  saveBytes : Nat := 0
  clmBase : Nat := 0
  clmLen : Nat := 0
  /-- Core map entries (R447). -/
  cmap : Table Nat := []
  saved : Option Saved := none
  dump : Option Bytes := none
deriving DecidableEq, Repr

structure HostMap where
  winOff : Nat
  len : Nat
  host : Nat
  rd : Bool
  wr : Bool
deriving DecidableEq, Repr

/-- Partition states (R518). -/
inductive PartSt where
  | free | clearing | ready | destroying
deriving DecidableEq, Repr

structure Partition where
  st : PartSt := .free
  rcd : Nat := 0
  clusters : Nat := 0
  syncRanges : Nat := 0
  port : Nat := 0
  debug : Bool := false
  /-- 0 CONFIG_UNLOCKED, 1 CONFIG_LOCKED, 2 RUN, 3 ERROR, 4 no host function. -/
  tdi : Nat := 0
  /-- A STOP_INTERFACE in progress (R535): 1 its contexts are being destroyed, 2 its units are being cleared. -/
  stopping : Nat := 0
  /-- A reset of the function has aborted the exchange of that STOP_INTERFACE: no response follows (R531). -/
  stopMute : Bool := false
  /-- Nibble of each module in the peer list: bit 3 names a peer, bits 2 to 0 its partition (R500). -/
  peers : Table Nat := []
  /-- Modules whose entry in the list names no peer until it is rewritten: each was the own ID as that became valid (R501). -/
  voidPeers : List Nat := []
  cmdExpected : Nat := 1
  rings : Table Ring := []
  maps : List HostMap := []
  notify : Bool := true
  hangLog2 : Nat := 0
  noReplay : Bool := false
  refusing : Bool := false
  prepared : Bool := false
  prepSuspend : Bool := false
  evSeq : Nat := 0
  evHeld : List Nat := []
  evLost : Nat := 0
  evLog : List Nat := []
  evLogLost : Nat := 0
  groups : Table (Option Group) := []
  insts : List Inst := []
  /-- Exchange messages held for an instance that has not come to them (R384). -/
  xheld : List FabMsg := []
  /-- Rounds that have ended, as (group, round modulo 2^24, signature, status): a late abort for one is ignored (R350). -/
  ended : List (Nat × Nat × Nat × Nat) := []
  /-- The last round of each `DISPATCH` instance, which a `COMBINE` pairs with (R381, R464). -/
  dispatched : List Inst := []
  shards : List Shard := []
  policies : List Policy := []
  ckpt : Option Ckpt := none
  restores : List Ckpt := []
  ckptSeq : Nat := 0
  watches : List Watch := []
  traceBase : Nat := 0
  traceBytes : Nat := 0
  traceMask : Nat := 0
  traceWritten : Nat := 0
  traceLost : Nat := 0
  obsSelect : Nat := 0
  obsData : Bytes := []
  work : Table Nat := []
  causal : Nat := 0
deriving DecidableEq, Repr

/-! ### Sirrik (ch14) -/

structure SirrikSess where
  id : Nat
  peer : Nat
  isOpen : Bool := false
  /-- Keys of the module's and of the station's direction, and H1 (R483). -/
  txKey : LinkKey := {}
  rxKey : LinkKey := {}
  h1 : Bytes := []
  high : Nat := 0
  /-- `SEQ` of the last message that the module has sent in the session (R480). -/
  sent : Nat := 0
  accepted : List Nat := []
  /-- Stored replies: RID, operation, status, data (R489). -/
  replies : List (Nat × Nat × Nat × Bytes) := []
  /-- RIDs still being carried out. -/
  inFlight : List Nat := []
  /-- Incomplete messages by `SEQ`, with a bit for each fragment that has arrived (R480). -/
  frags : List (Nat × Nat) := []
  lastUs : Nat := 0
  openedUs : Nat := 0
deriving DecidableEq, Repr

/-- A stored parameter image (R507). -/
structure Image where
  data : Bytes := []
  valid : Bool := false
  present : Bool := false
deriving DecidableEq, Repr

structure MgmtSt where
  plcaId : Nat := 255
  plcaCount : Nat := 8
  ipv6 : Bytes := List.replicate 16 0
  udpPort : Nat := 4700
  /-- Settings written that take effect 1 s after the reply (R478): index and value bytes. -/
  toApply : List (Nat × Bytes) := []
  /-- The settings that port M uses now. -/
  effPlcaId : Nat := 255
  effPlcaCount : Nat := 8
  effIpv6 : Bytes := List.replicate 16 0
  effUdpPort : Nat := 4700
  authFails : Nat := 0
  badDatagrams : Nat := 0
  rejectTimes : List Nat := []
  lockout : Bool := false
  sessions : List SirrikSess := []
  discover : List Nat := []
  stage : Bytes := []
  slot0 : Image := {}
  slot1 : Image := {}
  /-- Slot active since the last start from P4. -/
  active : Option Nat := none
  recovery : Bool := false
  imagesChecked : Bool := false
  /-- An accepted image is being written into the inactive slot (R510), and the request to answer. -/
  committing : Bool := false
  commitReply : Option (Nat × Nat) := none
  anchors : Table Bytes := []
  devAnchors : Table Bytes := []
  siteKeys : Table Bytes := []
deriving DecidableEq, Repr

/-! ### Security (ch15) -/

structure SecSt where
  state : Nat := 0
  /-- Time of a first write of 3 to SEC_STATE_REQ (R536). -/
  lockReqUs : Option Nat := none
  siteCert : Bytes := []
  unlocked : Bool := false
  challenge : Bytes := []
  token : Bytes := []
  tokenFails : Nat := 0
deriving DecidableEq, Repr

/-! ### Recovery, observation, self-test (ch16, ch17) -/

structure Recovery where
  core : Nat
  unit : EngUnit
  /-- Suspects not yet replayed, the one being replayed, those cleared, and how many were found guilty; `total` counts all. -/
  todo : List Nat
  current : Option Nat := none
  cleared : List Nat := []
  guilty : Nat := 0
  total : Nat := 0
  /-- Partitions of the suspects. -/
  parts : List Nat := []
  /-- The reset of R560 is in progress. -/
  resetting : Bool := true
  /-- Retained operations of the engine (R557). -/
  meOps : List MeOp := []
  seOps : List SeOp := []
  deOps : List DeXfer := []
  banks : Table Bank := []
  /-- Dumps taken at the freeze, and what the ended operations of the ME had written, by context. -/
  dumps : Table Bytes := []
  outs : Table (List (Nat × Byte)) := []
deriving DecidableEq, Repr

structure RelSt where
  hangWindowLog2 : Nat := 28
  hangs : Nat := 0
  deadlocks : Nat := 0
  jayLog2 : Nat := 10
  jaySeed : Nat := 0
  jaySampled : Nat := 0
  jaySkipped : Nat := 0
  jayMismatch : Nat := 0
  eligible : Table Nat := []
  jayNext : Nat := 0
  slotMap : Table Nat := []
  withdrawn : Nat := 0
  margin : Table Nat := []
  strikes : Table Nat := []
  ftPeriod : Nat := 600
  ftFailed : Nat := 0
  ftTest : Option (Nat × Nat) := none
  ftNext : Nat := 0
  /-- Slots whose retirement waits for a recovery or a migration. -/
  retirePend : List (Nat × Nat) := []
  /-- Migrations in progress: core, target slot, and whether the old slot is to be tested or retired. -/
  migrations : List (Nat × Nat × Bool) := []
  cperCount : Nat := 0
  cper : List Bytes := []
  obsSelect : Nat := 0
  obsData : Bytes := []
  recoveries : List Recovery := []
deriving DecidableEq, Repr

structure BistSt where
  budgetMs : Nat := 30000
  passes : Nat := 0
  cursor : Nat := 0
  slicesRun : Nat := 0
  attention : Bool := false
  stale : Bool := false
  fullNext : Bool := false
  skipNext : Bool := false
  lastMs : Nat := 0
  results : Table Nat := []
  /-- A running self-test: first slice, elapsed ms, slices run, and the budget, none where it is ignored (R588, R589). -/
  running : Option (Nat × Nat × Nat × Option Nat) := none
  /-- The self-test of this shutdown is over, or it has none. -/
  testOver : Bool := false
  /-- Slices of this shutdown, and those run since the last full pass. -/
  ranNow : List Nat := []
  passesSince : List Nat := []
  /-- What failed slices are to bring about at the next start, as (slice, place) (R591). -/
  faults : List (Nat × Nat) := []
  /-- Soft repairs held and fuse banks used, by die, 4 for the hub (R592 to R594). -/
  soft : Table Nat := []
  fuseUsed : Table Nat := []
  /-- The die whose bank burns, and the request to answer. -/
  burning : Option (Nat × Option (Nat × Nat)) := none
  /-- Passes in a row, at most 3, of a slot's core logic slice and of its SRAM slice, by 9 × cluster + slot (R595). -/
  corePass : Table Nat := []
  sramPass : Table Nat := []
deriving DecidableEq, Repr

/-! ### Power (ch01, ch18) -/

structure ClusterSt where
  step : Nat := 0
  temp : Nat := 0
  peak : Nat := 0
  cap : Nat := 0
deriving DecidableEq, Repr

structure PowerSt where
  /-- 0–4 for P0–P4 (R602). -/
  state : Nat := 4
  /-- Target of a transition in progress. -/
  toState : Option Nat := none
  presN : Bool := true
  /-- The input is not there, or has not returned since the module left service (R601, R602). -/
  absent : Bool := true
  mv : Nat := 0
  hotSwap : Bool := false
  overVolt : Bool := false
  /-- Next step of the start-up timeline (R607), and the state it started from. -/
  startStep : Option Nat := none
  startFrom : Nat := 4
  ready : Bool := false
  /-- Rail groups on, bit i for group i + 1 (R606). -/
  rails : Nat := 0
  modeReg : Nat := 0
  mode : Nat := 0
  /-- Mode change in progress: phase 0–4 and target (R26). -/
  modeChange : Option (Nat × Nat) := none
  modeQueued : Option Nat := none
  modeDeferred : Option Nat := none
  /-- A pending `PWR_SHUTDOWN_REQ`: target (0 for none), seconds, and the time of its write. -/
  shutTarget : Nat := 0
  shutSecs : Nat := 0
  shutFrom : Nat := 0
  capW : Nat := 0
  readyMs : Nat := 0
  lastStop : Nat := 0
  throttleEvents : Nat := 0
  peakOn : Bool := false
  clusters : Table ClusterSt := []
  /-- Images of allocated objects kept in module memory through P2 (R205). -/
  keptObjs : Table SyncObj := []
  /-- On-board links: lanes (16, 12, 8) or 0 when marked failed; unlisted is 16 (R19, R23). -/
  links : Table Nat := []
deriving DecidableEq, Repr

/-! ### Meter (ch19) -/

/-- A reading record body (R625), without its signature. -/
structure MeterRec where
  energy : Nat
  seq : Nat
  boots : Nat
  ticks : Nat
  vMin : Nat
  vMax : Nat
  pMax : Nat
  selfTestFail : Bool
  serialMismatch : Bool
  overrange : Bool
  belowImin : Bool
  start : Bool
deriving DecidableEq, Repr

/-- The meter chip, which no other part of the module reaches (R621). -/
structure MeterSt where
  powered : Bool := false
  /-- Internal accumulator in units of 2^-20 mWh (R617). -/
  acc : Nat := 0
  nvAcc : Nat := 0
  nextSeq : Nat := 0
  boots : Nat := 0
  ticks : Nat := 0
  vMin : Nat := 0
  vMax : Nat := 0
  intervalEmpty : Bool := true
  overrange : Bool := false
  belowImin : Bool := false
  serialMismatch : Bool := false
  serialKnown : Bool := false
  records : List MeterRec := []
deriving DecidableEq, Repr

/-- The hub's side of the meter: the link, the records on their way over it, and the mirror (R627 to R629). -/
structure MirrorSt where
  linkUp : Bool := false
  sending : List MeterRec := []
  records : List MeterRec := []
  latest : Option MeterRec := none
  slots : Table (Option MeterRec) := []
  gaps : Nat := 0
  hubHigh : Option Nat := none
deriving DecidableEq, Repr

/-- How port M takes its line (R477). -/
inductive PlcaRole where
  | csma
  | coordinator (opportunities : Nat)
  | follower (node : Nat)
deriving DecidableEq, Repr

/-- The algorithms of the SPDM profile (R527). -/
inductive SpdmAlg where
  | sha3x512 | mlDsa87 | mlKem1024 | aes256Gcm
deriving DecidableEq, Repr

/-- The capabilities of the SPDM profile (R527). -/
inductive SpdmCap where
  | cert | chal | measSig | keyEx | mutAuth | encrypt | mac | keyUpd
deriving DecidableEq, Repr

/-- The logic on the scan chains of the debug header (R546, R547): none below D2; at D2 all of it in P0 and P1, the hub's in
P2, the hub's auxiliary logic in P3. -/
inductive ScanChains where
  | none | full | hub | hubAux
deriving DecidableEq, Repr

/-- What the module sends to the outside (log 19). -/
inductive Out where
  /-- What port M works with from now on: its role and MAC address, the addresses it answers on and its UDP port (R477, R478). -/
  | portM (role : PlcaRole) (mac : Nat) (addresses : List Bytes) (udp : Nat)
  | reply (session rid op status : Nat) (data : Bytes)
  | write (pr : Principal) (index sub status : Nat)
  | datagram (peer type session info : Nat) (data : Bytes)
  /-- The bytes of a datagram at port M (R480, R484). -/
  | wire (peer : Nat) (data : Bytes)
  | record (p : Part) (data : Bytes)
  | msix (h : HPort) (f v : Nat)
  | function (h : HPort) (f : Nat) (present : Bool)
  | config (h : HPort) (f outcome : Nat)
  | flit (w : WPort) (f : Flit)
  | frame (w : WPort) (data : Bytes)
  | message (m : FabMsg)
  | spdm (h : HPort) (f req : Nat) (ok : Bool) (data : Bytes)
  | tdisp (p : Part) (req : Nat) (ok : Bool)
  /-- The profile that an accepted NEGOTIATE_ALGORITHMS announces (R527). -/
  | spdmProfile (h : HPort) (f : Nat) (algs : List SpdmAlg) (caps : List SpdmCap)
  /-- The memory ranges of a TDI that its device interface report lists: BAR and bytes (R532). -/
  | tdiReport (p : Part) (ranges : List (Nat × Nat))
  | led
  /-- An instruction of the debug header, with the logic on the scan chains (R546). -/
  | jtag (ins : Nat) (chains : ScanChains)
deriving DecidableEq, Repr

/-- What the dictionary last read of the parts that have lost power (R512): of the dies in P2 and P3, of the hub in P3. -/
structure Shown where
  clusters : Table ClusterSt := []
  ftTest : Option (Nat × Nat) := none
  dies : Table DieMem := []
  fab : FabSt := {}
  pci : Table PciPort := []
  /-- Host port of each partition, as `PART` shows it (R436). -/
  ports : List (Nat × Nat) := []
deriving DecidableEq, Repr

structure State where
  pending : List Instr
  free : Nat
  /-- Clusters whose clock is gated, bit k for cluster k (R603). -/
  gated : Nat
  clockUs : Nat
  outbox : List Out
  power : PowerSt
  queues : Table Queue
  mes : Table MeEng
  ses : Table SeEng
  des : Table DeEng
  /-- Tandem pairs, bit k for cores 2k and 2k + 1 (R115). -/
  tandem : Nat
  /-- Bank transfers on their way to a receiver or to the exchange unit (R112, R354). -/
  bankFlight : List BankXfer
  sync : SyncSt
  mem : MemSt
  fab : FabSt
  pci : Table PciPort
  funcs : Table Func
  msixMinUs : Nat
  badRequests : Nat
  cmds : List Cmd
  nextCmd : Nat
  ctxs : Table Ctx
  parts : Table Partition
  mgmt : MgmtSt
  sec : SecSt
  rel : RelSt
  bist : BistSt
  meter : MeterSt
  mirror : MirrorSt
  watchAlarms : Nat
  watchRate : Nat
  watchLate : Nat
  shown : Option Shown
deriving DecidableEq, Repr

/-- Why the model stops. -/
inductive Fault where
  /-- Raised by a meaning whose payload has not the shape its row gives it (WellFormed refuses such a command).
  Safe: no such command exists in the spec. -/
  | malformed (mnemonic : String)
deriving DecidableEq, Repr

/-- What the model declines. -/
inductive Refusal where
  /-- Raised by an arm of exec without a meaning. Safe. -/
  | notModelled (mnemonic : String)
deriving DecidableEq, Repr

/-- The outcome of a step of this machine. -/
abbrev Res := Host.Outcome State Fault Refusal

/-- Slot map at manufacture: slots 0 to 7 serve logical cores 0 to 7, slot 8 is the spare (R37, log 4). -/
def slotMapReset : Nat := 0x876543210

/-- The module right after reset: as manufactured, in P4, with the input absent. -/
def State.reset : State where
  pending := []
  free := 0
  gated := 0
  clockUs := 0
  outbox := []
  power := {}
  queues := []
  mes := []
  ses := []
  des := []
  tandem := 0
  bankFlight := []
  sync := {}
  mem := {}
  fab := {}
  pci := []
  funcs := []
  msixMinUs := 2
  badRequests := 0
  cmds := []
  nextCmd := 0
  ctxs := []
  parts := []
  mgmt := {}
  sec := {}
  rel := { jaySeed := Config.jaySeed }
  bist := {}
  meter := {}
  mirror := {}
  watchAlarms := 0
  watchRate := 16
  watchLate := 0
  shown := none

end Sys2Proof.Machine
end

