-- ==== Sys2Proof/Machine/Ops.lean ====
section
/-! DEFINITION. Machine/Ops.lean: bytes and field packing, named access to the parts of State, memory, the address
spaces of R260 to R263, free values, and the forms in which a meaning answers. -/

namespace Sys2Proof.Machine

/-! ### Bytes and fields (R12) -/

/-- Little-endian value of a byte string. -/
def leNat : Bytes → Nat
  | [] => 0
  | b :: bs => b.toNat + 256 * leNat bs

/-- The `n` little-endian bytes of a value. -/
def leBytes : Nat → Nat → Bytes
  | 0, _ => []
  | n + 1, v => BitVec.ofNat 8 v :: leBytes n (v / 256)

/-- A word from its fields, each as (lowest bit, width, value). -/
def pack : List (Nat × Nat × Nat) → Nat
  | [] => 0
  | (lo, w, v) :: fs => wrap w v * 2 ^ lo + pack fs

/-- Bytes `[off, off + n)` of a string, zero beyond its end. -/
def slice (bs : Bytes) (off n : Nat) : Bytes :=
  let t := (bs.drop off).take n
  t ++ List.replicate (n - t.length) 0

/-- A string with `d` written at `off`, extended with zeros if need be. -/
def splice (bs : Bytes) (off : Nat) (d : Bytes) : Bytes :=
  slice bs 0 off ++ d ++ bs.drop (off + d.length)

def pad (n : Nat) (bs : Bytes) : Bytes := slice bs 0 n

def b2n (b : Bool) : Nat := if b then 1 else 0

/-- Every `n` numbers from `a`. -/
def span (a n : Nat) : List Nat := (List.range n).map (a + ·)

/-- The list with its `i`-th entry removed. -/
def dropAt {α : Type} (l : List α) (i : Nat) : List α := l.take i ++ l.drop (i + 1)

/-- The first entry that satisfies `p` is changed by `f`. -/
def modFirst {α : Type} (p : α → Bool) (f : α → α) : List α → List α
  | [] => []
  | a :: l => if p a then f a :: l else a :: modFirst p f l

/-- The first entry that satisfies `p` is removed. -/
def dropFirst {α : Type} (p : α → Bool) : List α → List α
  | [] => []
  | a :: l => if p a then l else a :: dropFirst p l

/-- A list without repeats; the first occurrence stays. -/
def nub : List Nat → List Nat
  | [] => []
  | a :: l => a :: (nub l).filter (· ≠ a)

/-- Two ranges, each as (first, length), overlap. -/
def overlaps (a b : Nat × Nat) : Bool :=
  decide (0 < a.2) && decide (0 < b.2) && decide (a.1 < b.1 + b.2) && decide (b.1 < a.1 + a.2)

/-- Range `b` lies within range `a`. -/
def within (b a : Nat × Nat) : Bool := decide (a.1 ≤ b.1) && decide (b.1 + b.2 ≤ a.1 + a.2)

/-! ### Parts of State by name -/

/-- A partition number as an operand type. -/
def partName (p : Nat) : Part := ⟨p % 8, Nat.mod_lt p (by decide)⟩

/-- Key of a queue: 4 × core + queue. -/
def qid (c : Core) (q : QIx) : Nat := 4 * c.val + q.val

namespace State

def queue (s : State) (q : Nat) : Queue := Tbl.get {} s.queues q
def setQueue (s : State) (q : Nat) (x : Queue) : State := { s with queues := Tbl.set {} s.queues q x }
def modQueue (s : State) (q : Nat) (f : Queue → Queue) : State := s.setQueue q (f (s.queue q))

def me (s : State) (c : Nat) : MeEng := Tbl.get {} s.mes c
def setMe (s : State) (c : Nat) (x : MeEng) : State := { s with mes := Tbl.set {} s.mes c x }
def modMe (s : State) (c : Nat) (f : MeEng → MeEng) : State := s.setMe c (f (s.me c))

def se (s : State) (c : Nat) : SeEng := Tbl.get {} s.ses c
def setSe (s : State) (c : Nat) (x : SeEng) : State := { s with ses := Tbl.set {} s.ses c x }
def modSe (s : State) (c : Nat) (f : SeEng → SeEng) : State := s.setSe c (f (s.se c))

def de (s : State) (c : Nat) : DeEng := Tbl.get {} s.des c
def setDe (s : State) (c : Nat) (x : DeEng) : State := { s with des := Tbl.set {} s.des c x }
def modDe (s : State) (c : Nat) (f : DeEng → DeEng) : State := s.setDe c (f (s.de c))

def bank (s : State) (c b : Nat) : Bank := Tbl.get {} (s.me c).banks b
def setBank (s : State) (c b : Nat) (x : Bank) : State :=
  s.modMe c fun e => { e with banks := Tbl.set {} e.banks b x }

def obj (s : State) (o : Nat) : SyncObj := Tbl.get {} s.sync.objs o
def setObj (s : State) (o : Nat) (x : SyncObj) : State :=
  { s with sync := { s.sync with objs := Tbl.set {} s.sync.objs o x } }
def modObj (s : State) (o : Nat) (f : SyncObj → SyncObj) : State := s.setObj o (f (s.obj o))

def part (s : State) (p : Nat) : Partition := Tbl.get {} s.parts p
def setPart (s : State) (p : Nat) (x : Partition) : State := { s with parts := Tbl.set {} s.parts p x }
def modPart (s : State) (p : Nat) (f : Partition → Partition) : State := s.setPart p (f (s.part p))

def ring (s : State) (p r : Nat) : Ring := Tbl.get {} (s.part p).rings r
def modRing (s : State) (p r : Nat) (f : Ring → Ring) : State :=
  s.modPart p fun x => { x with rings := Tbl.upd {} x.rings r f }

def ctx (s : State) (x : Nat) : Ctx := Tbl.get {} s.ctxs x
def setCtx (s : State) (x : Nat) (c : Ctx) : State := { s with ctxs := Tbl.set {} s.ctxs x c }
def modCtx (s : State) (x : Nat) (f : Ctx → Ctx) : State := s.setCtx x (f (s.ctx x))

def port (s : State) (w : Nat) : Port := Tbl.get {} s.fab.ports w
def modPort (s : State) (w : Nat) (f : Port → Port) : State :=
  { s with fab := { s.fab with ports := Tbl.upd {} s.fab.ports w f } }

/-- Key of a session: partition, class (0 signal, 1 collective, 2 bulk), peer module (R318). -/
def sessKey (p cls peer : Nat) : Nat := p * 6144 + cls * 2048 + peer

def session (s : State) (k : Nat) : Session := Tbl.get {} s.fab.sessions k
def modSession (s : State) (k : Nat) (f : Session → Session) : State :=
  { s with fab := { s.fab with sessions := Tbl.upd {} s.fab.sessions k f } }

def die (s : State) (d : Nat) : DieMem := Tbl.get {} s.mem.dies d
def modDie (s : State) (d : Nat) (f : DieMem → DieMem) : State :=
  { s with mem := { s.mem with dies := Tbl.upd {} s.mem.dies d f } }

/-- Unit `u` of die `d` (R292), by 155 × d + u. -/
def memUnit (s : State) (u : Nat) : MemUnit := Tbl.get {} s.mem.units u
def modUnit (s : State) (u : Nat) (f : MemUnit → MemUnit) : State :=
  { s with mem := { s.mem with units := Tbl.upd {} s.mem.units u f } }

/-- Function `f` of port `h` (R413). -/
def func (s : State) (h f : Nat) : Func := Tbl.get {} s.funcs (9 * h + f)
def modFunc (s : State) (h f : Nat) (g : Func → Func) : State :=
  { s with funcs := Tbl.upd {} s.funcs (9 * h + f) g }

def pciPort (s : State) (h : Nat) : PciPort := Tbl.get {} s.pci h
def modPci (s : State) (h : Nat) (f : PciPort → PciPort) : State := { s with pci := Tbl.upd {} s.pci h f }

def cluster (s : State) (k : Nat) : ClusterSt := Tbl.get {} s.power.clusters k
def modCluster (s : State) (k : Nat) (f : ClusterSt → ClusterSt) : State :=
  { s with power := { s.power with clusters := Tbl.upd {} s.power.clusters k f } }

def out (s : State) (o : Out) : State := { s with outbox := s.outbox ++ [o] }

/-- The module is in P0 or P1: everything is powered (R602). -/
def powered (s : State) : Bool := decide (s.power.state ≤ 1)

/-- The hub's main logic is powered (P0 to P2, R606), or comes up. -/
def hubOn (s : State) : Bool := decide (s.power.state ≤ 2) || s.power.rails.testBit 2

/-- The host ports and the Walien ports carry traffic: the hub is on, and no self-test runs (R584). -/
def linksOn (s : State) : Bool := s.hubOn && s.bist.running.isNone

/-- The auxiliary logic is powered: port M, flash, the debug header (R606). -/
def auxOn (s : State) : Bool := decide (s.power.state ≤ 3) || s.power.rails.testBit 1

/-- Port M sends and receives: not while the hub logic slice has its controller on the scan chains (R584). -/
def portM (s : State) : Bool := s.auxOn && !(s.bist.running.isSome && decide (s.bist.cursor = 36))

/-- `DEBUG_LEVEL`: D2 while a vendor unlock is in force, D1 while some partition has `PART_DEBUG` = 1 (R539). -/
def debugLevel (s : State) : Nat := if s.sec.unlocked then 2 else if s.parts.any (·.2.debug) then 1 else 0

/-- Accumulator readout and live registers are open for a partition (R540). -/
def debugOpen (s : State) (p : Nat) : Bool := s.sec.unlocked || (s.part p).debug

end State

/-! ### Free values (log 13, log 14) -/

/-- `n` bytes that the spec leaves undefined, from free value `k` on. -/
def freeBytes (k n : Nat) : Bytes := (List.range n).map fun i => Config.freeByte (k + i)

/-- A number below `2^w` that the spec leaves open, and the state after it is drawn. -/
def State.freeNum (s : State) (w : Nat) : Nat × State :=
  (Config.freeNat s.free % 2 ^ w, { s with free := s.free + 1 })

/-! ### Memory (R12, log 1) -/

namespace Mem

/-- The byte at an address; an unlisted byte reads as zero. -/
def byte (m : Memory) (a : Nat) : Byte := Tbl.get 0 m a
def setByte (m : Memory) (a : Nat) (b : Byte) : Memory := Tbl.set 0 m a b
def read (m : Memory) (a n : Nat) : Bytes := (List.range n).map fun i => byte m (a + i)

def write (m : Memory) (a : Nat) : Bytes → Memory
  | [] => m
  | b :: bs => write (setByte m a b) (a + 1) bs

/-- Write single bytes at given addresses, in order. -/
def writeAt (m : Memory) : List (Nat × Byte) → Memory
  | [] => m
  | (a, b) :: l => writeAt (setByte m a b) l

/-- Zeros in `[a, a + n)`. -/
def erase (m : Memory) (a n : Nat) : Memory := m.filter fun c => decide (c.1 < a) || decide (a + n ≤ c.1)

/-- Cells of a range, by offset from its start. -/
def extract (m : Memory) (a n : Nat) : Memory :=
  (m.filter fun c => decide (a ≤ c.1) && decide (c.1 < a + n)).map fun c => (c.1 - a, c.2)

/-- A range takes the cells given by offset, zeros elsewhere. -/
def implant (m : Memory) (a n : Nat) (x : Memory) : Memory :=
  writeAt (erase m a n) ((x.filter fun c => decide (c.1 < n)).map fun c => (a + c.1, c.2))

end Mem

/-- The canonical form: addresses strictly rising, no listed zero. -/
def Memory.wf (m : Memory) : Bool := Tbl.wf 0 m

/-! ### Cores, clusters and on-die addresses (R34, R36, R261, R119) -/

def clusterOf (core : Nat) : Nat := core / 8
def dieOf (core : Nat) : Nat := core / 64

/-- Space-0x01 address of byte `off` of the scratchpad of a logical core. -/
def spadKey (core off : Nat) : Nat :=
  2 ^ 56 + (core / 64) * 2 ^ 31 + (core / 8 % 8) * 2 ^ 28 + (core % 8) * 2 ^ 24 + off

/-- Space-0x01 address of byte `off` of the shared memory of a cluster. -/
def clmKey (k off : Nat) : Nat := 2 ^ 56 + (k / 8) * 2 ^ 31 + (k % 8) * 2 ^ 28 + 8 * 2 ^ 24 + off

def spadBytes : Nat := 0x18_0000
def clmBytes : Nat := 0x80_0000
def dieBytes : Nat := 0x26C_0000_0000
def unitBytes : Nat := 0x4_0000_0000

/-- Cores 2k and 2k + 1 form a tandem core (R115). -/
def State.isTandem (s : State) (core : Nat) : Bool := s.tandem.testBit (core / 2)

/-- The core whose queues run the pair, or the core itself. -/
def State.leadOf (s : State) (core : Nat) : Nat := if s.isTandem core then core / 2 * 2 else core

/-- Bytes of the scratchpad that a core sees: 3 MiB in tandem (R119). -/
def State.spadLimit (s : State) (core : Nat) : Nat := if s.isTandem core then 2 * spadBytes else spadBytes

/-- Where byte `off` of a core's scratchpad lies: in tandem, 64-byte lines alternate between the two (R119). -/
def State.spadByte (s : State) (core off : Nat) : Nat :=
  if s.isTandem core then spadKey (core / 2 * 2 + off / 64 % 2) (off / 128 * 64 + off % 64) else spadKey core off

/-- The core's own 25-bit view of `n` bytes from `a` (R262): their addresses, or none where they lie beyond the memory. -/
def State.coreKeys (s : State) (core a n : Nat) : Option (List Nat) :=
  let off := a % 2 ^ 24
  if 2 ^ 25 ≤ a then none
  else if bit a 24 then
    if off + n ≤ clmBytes then some (span (clmKey (clusterOf core) off) n) else none
  else if off + n ≤ s.spadLimit core then some ((span off n).map (s.spadByte core)) else none

/-! ### Uncorrectable granules (R271, R273, R280) -/

/-- Size of the granule at `g`: a 32-byte codeword of module memory, an 8-byte word on a die. -/
def granule (g : Nat) : Nat := if g < 2 ^ 56 then 32 else 8

/-- Byte `k` lies in the granule that holds `g`. -/
def inGranule (g k : Nat) : Bool := decide (k / granule g = g / granule g)

/-- Byte `k` lies in the line of module memory that holds `g`. -/
def inLine (g k : Nat) : Bool := decide (k / 256 = g / 256)

/-- Lines on the poison lists. -/
def State.poisoned (s : State) : List Nat := s.mem.dies.flatMap (·.2.poison)

/-- The first of what reads as uncorrectable among the bytes read: a granule found now or known from before, or a line on a
poison list. -/
def State.meetsBad (s : State) (ue keys : List Nat) : Option Nat :=
  match (ue ++ s.mem.bad).find? fun g => keys.any (inGranule g) with
  | some g => some g
  | none => s.poisoned.find? fun g => keys.any (inLine g)

/-- The bytes at the given addresses. -/
def State.readKeys (s : State) (keys : List Nat) : Bytes := keys.map (Mem.byte s.mem.cells)

/-- Bytes of the granule that holds `g`. -/
def granuleKeys (g : Nat) : List Nat := span (g / granule g * granule g) (granule g)

/-- A write of every byte of a granule makes it good again; a narrower one, which reads the rest of it first, does not
(R269, R565, log 99). Any write takes its line off the poison list (R280). -/
def State.heal (s : State) (keys : List Nat) : State :=
  { s with mem := { s.mem with
      bad := s.mem.bad.filter fun g => !(granuleKeys g).all keys.contains
      dies := Tbl.mapAll {} (fun _ d => { d with poison := d.poison.filter fun g => !keys.any (inLine g) }) s.mem.dies } }

/-- Write bytes at given addresses. -/
def State.writeKeys (s : State) (kv : List (Nat × Byte)) : State :=
  let t := if s.mem.bad.isEmpty && s.mem.dies.all (fun d => d.2.poison.isEmpty) then s else s.heal (kv.map (·.1))
  { t with mem := { t.mem with cells := Mem.writeAt t.mem.cells kv } }

def State.writeAt (s : State) (keys : List Nat) (bs : Bytes) : State := s.writeKeys (keys.zip bs)

/-- Undefined contents at the given addresses (log 14). -/
def State.havocKeys (s : State) (keys : List Nat) : State :=
  { s.writeAt keys (freeBytes s.free keys.length) with free := s.free + keys.length }

/-- Where the record of what a queue wrote names host memory: from here on, by the key of the host address (R9, log 85). -/
def hostRange : Nat := 2 ^ 68

/-- Undefined contents of what a queue wrote, in the module and in host memory. -/
def State.havocWritten (s : State) (keys : List Nat) : State :=
  let t := s.havocKeys (keys.filter fun k => decide (k < hostRange))
  let hs := keys.filter fun k => decide (hostRange ≤ k)
  if hs.isEmpty then t
  else
    { t with
      mem := { t.mem with host := Mem.writeAt t.mem.host ((hs.map (· - hostRange)).zip (freeBytes t.free hs.length)) }
      free := t.free + hs.length }

/-- Addresses as ranges of rising runs. -/
def runs : List Nat → List (Nat × Nat)
  | [] => []
  | k :: ks =>
    match runs ks with
    | (a, n) :: rs => if a = k + 1 then (k, n + 1) :: rs else (k, 1) :: (a, n) :: rs
    | [] => [(k, 1)]

/-- Zeros in a range of module memory or of a die's memories (R293). -/
def State.clearRange (s : State) (a n : Nat) : State :=
  { s with mem := { s.mem with
      cells := Mem.erase s.mem.cells a n
      bad := s.mem.bad.filter fun g => !within (g, granule g) (a, n)
      dies := Tbl.mapAll {} (fun _ d => { d with poison := d.poison.filter fun g => !within (g, 256) (a, n) }) s.mem.dies } }

/-! ### Address spaces (R260, R261, R263) -/

/-- Where an address of the module leads. -/
inductive Place where
  | mem (a : Nat)
  | spad (core off : Nat)
  | clm (k off : Nat)
  | objects (off : Nat)
  | host (off : Nat)
  | remMem (module a : Nat)
  | remObj (module off : Nat)
deriving DecidableEq, Repr

/-- The place of a 64-bit address, or none where R260 or R261 gives an address fault. -/
def State.place (s : State) (a : Nat) : Option Place :=
  let lo := a % 2 ^ 56
  match a / 2 ^ 56 with
  | 0x00 => if lo / 2 ^ 44 = 0 ∧ lo % 2 ^ 42 < dieBytes then some (.mem a) else none
  | 0x01 =>
    if lo / 2 ^ 33 ≠ 0 then none
    else
      let unit := bits lo 27 24
      let off := lo % 2 ^ 24
      let k := bits lo 32 28
      if unit = 8 then (if off < clmBytes then some (.clm k off) else none)
      else if 8 < unit then none
      else
        let core := 8 * k + unit
        if s.isTandem core && bit core 0 then none
        else if off < s.spadLimit core then some (.spad core off) else none
  | 0x02 => if lo < 128 * 65536 then some (.objects lo) else none
  | 0x03 => if lo < 2 ^ 48 then some (.host lo) else none
  | 0x80 => if bit lo 44 ∨ dieBytes ≤ lo % 2 ^ 42 then none else some (.remMem (lo / 2 ^ 45) (lo % 2 ^ 44))
  | 0x82 =>
    if lo % 2 ^ 45 < 128 * 65536 then some (.remObj (lo / 2 ^ 45) (lo % 2 ^ 45)) else none
  | _ => none

/-! ### On-board routes (R19 to R23, log 90) -/

/-- Index of the direct link between two dies: 0–1, 0–2, 0–3, 1–2, 1–3 and 2–3 are links 0 to 5. -/
def dieLink (a b : Nat) : Nat :=
  match min a b with
  | 0 => max a b - 1
  | 1 => max a b + 1
  | _ => 5

/-- Index of a die's link to the hub. -/
def hubLink (d : Nat) : Nat := 6 + d

/-- The link is not marked failed (R23). -/
def State.linkAlive (s : State) (l : Nat) : Bool := decide (Tbl.get 16 s.power.links l ≠ 0)

/-- The links that traffic between two dies crosses: the direct one, or the two hub links where that one has failed, and
never a third die (R20); none where no way is left. -/
def State.dieRoute (s : State) (a b : Nat) : Option (List Nat) :=
  if a = b then some []
  else if s.linkAlive (dieLink a b) then some [dieLink a b]
  else if s.linkAlive (hubLink a) && s.linkAlive (hubLink b) then some [hubLink a, hubLink b]
  else none

/-- The die that holds an address of the module; none for what lies beyond the hub. -/
def State.homeDie (s : State) (a : Nat) : Option Nat :=
  match s.place a with
  | some (.mem k) => some (k / 2 ^ 42)
  | some (.spad core _) => some (dieOf core)
  | some (.clm k _) => some (k / 8)
  | some (.objects off) => some (off / 128 / 16384)
  | _ => none

/-- An access from die `d` to an address finds a way: to another die (R20), or through its hub link to a port (R22). -/
def State.finds (s : State) (d a : Nat) : Bool :=
  match s.homeDie a with
  | some e => (s.dieRoute d e).isSome
  | none => s.linkAlive (hubLink d)

/-- Traffic of a port reaches the die of an address, by its hub link alone (R22). -/
def State.hubReaches (s : State) (a : Nat) : Bool := (s.homeDie a).all fun d => s.linkAlive (hubLink d)

/-- Traffic of a port reaches all of a range, which lies on one die. -/
def State.rangeReached (s : State) (a n : Nat) : Bool := n = 0 || (s.hubReaches a && s.hubReaches (a + n - 1))

/-- A change of mode holds the writes of the hub to module memory by back-pressure, from the stop of issue to its restart
(R26). -/
def State.memHeld (s : State) : Bool := s.power.modeChange.any fun c => decide (1 ≤ c.1)

/-- The address lies in the module's own memory. -/
def State.isMem (s : State) (a : Nat) : Bool :=
  match s.place a with
  | some (.mem _) => true
  | _ => false

/-- A write that comes through the hub reaches its address: it is not held, and the die's hub link is there. -/
def State.hubWrites (s : State) (a : Nat) : Bool := !(s.memHeld && s.isMem a) && s.hubReaches a

/-- The unit that holds a module-memory address (R292). -/
def unitOf (a : Nat) : Nat := 155 * (a / 2 ^ 42) + a % 2 ^ 42 / unitBytes

/-- Lowest address of a unit. -/
def unitBase (u : Nat) : Nat := u / 155 * 2 ^ 42 + u % 155 * unitBytes

/-- Units that stand in a partition's name, in ascending address order. -/
def State.unitsOf (s : State) (p : Nat) : List Nat :=
  (s.mem.units.filter fun u => decide (u.2.st ≠ .free) && decide (u.2.part = p)).map (·.1)

/-- A module-memory address lies in an OWNED unit of the partition and is not lent out (R293, R389). -/
def State.owns (s : State) (p a : Nat) : Bool :=
  let u := s.memUnit (unitOf a)
  decide (a / 2 ^ 44 = 0) && decide (a % 2 ^ 42 < dieBytes) && decide (u.st = .owned) && decide (u.part = p) && u.lent.isNone

/-- What a range takes of module memory is in OWNED units that are not lent: elsewhere an access is an address fault (R293,
R389). -/
def State.rangeOpen (s : State) (a n : Nat) : Bool :=
  n = 0 || decide (a / 2 ^ 56 ≠ 0) || (span (unitOf a) (unitOf (a + n - 1) + 1 - unitOf a)).all fun u =>
    decide ((s.memUnit u).st = .owned) && (s.memUnit u).lent.isNone

/-- A whole range of module memory lies on one die within the partition's units. -/
def State.ownsRange (s : State) (p a n : Nat) : Bool :=
  n = 0 || (decide (a / 2 ^ 42 = (a + n - 1) / 2 ^ 42) && decide (a % 2 ^ 42 + n ≤ dieBytes) &&
    (span (unitOf a) (unitOf (a + n - 1) + 1 - unitOf a)).all fun u => s.owns p (unitBase u))

/-- Lowest address of the 16 MiB that Kentis carves from a partition's memory: 8 MiB of ring windows, and beside them the images
of its objects (R205, R416); none without memory. Its place is open (log 96). -/
def State.carved (s : State) (p : Nat) : Option Nat :=
  match s.unitsOf p with
  | [] => none
  | u :: us =>
    let n := (u :: us).length
    some (unitBase ((u :: us).getD (Config.carveAt p % n) u) + Config.carveAt p / n % 1024 * 2 ^ 24)

/-- What is carved can be written: the dies run, the unit is the partition's, and its die is there. -/
def State.carveOn (s : State) (p : Nat) : Bool :=
  match s.carved p with
  | none => false
  | some b => s.powered && s.owns p b && s.hubReaches b

/-- Kentis writes what it has carved, where that can be written: a write at offset `off` of `n` bytes makes good what it covers, and
takes every line that it meets off the poison list (R280). -/
def State.carveWrite (s : State) (p off n : Nat) (f : Nat → Memory → Memory) : State :=
  let b := (s.carved p).getD 0
  { s with mem := { s.mem with
      cells := if s.carveOn p then f b s.mem.cells else s.mem.cells
      bad := s.mem.bad.filter fun g => !(s.carveOn p && within (g, granule g) (b + off, n))
      dies :=
        if s.mem.dies.all fun d => d.2.poison.isEmpty then s.mem.dies
        else Tbl.mapAll {} (fun _ d => { d with poison := d.poison.filter fun g => !(s.carveOn p && overlaps (g, 256) (b + off, n)) }) s.mem.dies } }

/-- Kentis backs a ring's window, of which `n` bytes from `off` on are written, with the partition's memory (R416). -/
def State.backRing (s : State) (p r off n : Nat) : State :=
  s.carveWrite p (2 ^ 19 * r + off) n fun b m => Mem.implant m (b + 2 ^ 19 * r) (2 ^ 19) (s.ring p r).window

/-- Clusters of a partition. -/
def State.hasCluster (s : State) (p k : Nat) : Bool := (s.part p).clusters.testBit k

/-- The map of host windows that serves an offset of space 0x03 (R263). -/
def State.hostMap (s : State) (p off : Nat) : Option HostMap :=
  (s.part p).maps.find? fun m => decide (m.winOff ≤ off) && decide (off < m.winOff + m.len)

/-- Add to a work count of a partition that exists (R633). -/
def State.addWork (s : State) (p i n : Nat) : State :=
  if (s.part p).st = .free then s
  else s.modPart p fun P => { P with work := Tbl.upd 0 P.work i fun k => (k + n) % 2 ^ 64 }

/-- Key of a host address on a port (log 20). -/
def hostKey (h a : Nat) : Nat := h * 2 ^ 64 + a % 2 ^ 64

def State.hostWrite (s : State) (h a : Nat) (bs : Bytes) : State :=
  { s with mem := { s.mem with host := Mem.write s.mem.host (hostKey h a) bs } }

def State.hostRead (s : State) (h a n : Nat) : Bytes := Mem.read s.mem.host (hostKey h a) n

/-- Plain read and write of module memory by address. -/
def State.modRead (s : State) (a n : Nat) : Bytes := s.readKeys (span a n)
def State.modWrite (s : State) (a : Nat) (bs : Bytes) : State := s.writeAt (span a bs.length) bs

end Sys2Proof.Machine
end

