-- ==== Sys2Proof/Machine/FlitCode.lean ====
section
/-! DEFINITION. Machine/FlitCode.lean: flits as bytes: CRC-32C, the header, the 256 bytes of a plain and of a sealed flit, and what
link control carries (R301, R302, R334, R335). -/

namespace Sys2Proof.Machine

/-! ### CRC-32C (R301, R344) -/

def crcBit (c : Nat) : Nat := if c % 2 = 1 then (c / 2) ^^^ 0x82F6_3B78 else c / 2

def crcByte (c : Nat) (b : Byte) : Nat := (List.range 8).foldl (fun c _ => crcBit c) (c ^^^ b.toNat)

def crc32c (bs : Bytes) : Nat := bs.foldl crcByte 0xFFFF_FFFF ^^^ 0xFFFF_FFFF

/-! ### Layout (R301, R302) -/

/-- Pieces of at most `n` bytes, at most `k` of them. -/
def pieces (n : Nat) : Nat → Bytes → List Bytes
  | 0, _ => []
  | k + 1, bs => if bs.length ≤ n then [bs] else bs.take n :: pieces n k (bs.drop n)

/-- The 96 bits of a header. -/
def headerWord (f : Flit) : Nat :=
  pack [(92, 4, f.type), (90, 2, f.vc), (89, 1, f.dl), (78, 11, f.dst), (67, 11, f.src), (64, 3, f.spart), (61, 3, f.dpart),
    (47, 14, f.sseq), (35, 12, f.lseq), (23, 12, f.lack), (21, 2, f.crVc), (20, 1, f.crDl), (15, 5, f.crN), (7, 8, f.len),
    (6, 1, b2n f.first), (5, 1, b2n f.last), (2, 3, f.dirs), (1, 1, f.keyId)]

/-- The flit of a header and a payload. -/
def flitOf (h : Nat) (payload : Bytes) (intact : Bool) : Flit :=
  { type := bits h 95 92, vc := bits h 91 90, dl := bits h 89 89, dst := bits h 88 78, src := bits h 77 67, spart := bits h 66 64,
    dpart := bits h 63 61, sseq := bits h 60 47, lseq := bits h 46 35, lack := bits h 34 23, crVc := bits h 22 21, crDl := bits h 20 20,
    crN := bits h 19 15, len := bits h 14 7, first := bit h 6, last := bit h 5, dirs := bits h 4 2, keyId := bits h 1 1,
    payload := payload, intact := intact }

/-- Payload bytes that a flit has room for. -/
def flitRoom (encrypted : Bool) : Nat := if encrypted then 224 else 240

/-- Append the CRC over bytes 0 to 251. -/
def closeFrame (b : Bytes) : Bytes := b ++ leBytes 4 (crc32c b)

/-- The 256 bytes of a flit on a plain port. -/
def plainFrame (f : Flit) : Bytes := closeFrame (leBytes 12 (headerWord f) ++ slice f.payload 0 240)

/-- The 256 bytes of a flit that AES-256-GCM seals: the header is the additional data, and 224 bytes of ciphertext and the tag
follow it. -/
def sealedFrame (key nonce : Nat) (f : Flit) : Bytes :=
  let h := leBytes 12 (headerWord f)
  closeFrame (h ++ (List.range 240).map (Config.gcmByte key nonce h (slice f.payload 0 224)))

/-- The flit that 256 bytes of a plain port hold, with the verdict of its CRC. -/
def readFrame (bs : Bytes) : Flit :=
  flitOf (leNat (slice bs 0 12)) (slice bs 12 240) (decide (leNat (slice bs 252 4) = crc32c (slice bs 0 252)))

/-- The bytes that a port sends for a flit: on an encrypted port the nonce is the base XOR the count of slots sent before
this one under the key (R335). -/
def Port.frame (p : Port) (f : Flit) : Bytes :=
  if p.encrypted then sealedFrame p.txKey.key (p.txKey.base ^^^ p.slots) f else plainFrame f

/-! ### Link control (R297, R299, R334, R336) -/

/-- What a LINKCTL flit carries: the spec gives it no layout (log 101). -/
def LinkCtl.payload (c : LinkCtl) : Bytes :=
  match c with
  | .identity id valid port external => Config.linkCtl 0 (pack [(0, 11, id), (11, 1, b2n valid), (12, 3, port), (15, 1, b2n external)])
  | .width off lseq => Config.linkCtl 1 (pack [(0, 4, off), (4, 12, lseq)])
  | .chain => Config.linkCtl 2 0
  | .encapsKey => Config.linkCtl 3 0
  | .ciphertext => Config.linkCtl 4 0
  | .signature => Config.linkCtl 5 0

/-- The messages of the securing exchange that this end sends: the end with the lower module ID starts it. -/
def securing (starts : Bool) : List LinkCtl := [.chain, if starts then .encapsKey else .ciphertext, .signature]

end Sys2Proof.Machine
end

