-- ==== Sys2Proof/Machine/Operands.lean ====
section
/-! DEFINITION. Machine/Operands.lean: exact values, the element formats (R45, R48 to R51), rounding and conversion
(R15, R68, R71, R72, R81), the report format (R52, R53) and LMIX64 (R79). -/

namespace Sys2Proof.Machine

/-! ### Exact values -/

/-- A finite value (−1)^neg × mag × 2^exp; a zero has a sign. -/
structure Num where
  neg : Bool
  mag : Nat
  exp : Int
deriving DecidableEq, Repr

/-- An element's value; none is NaN or infinite. -/
abbrev Val := Option Num

namespace Num

def zero : Num := ⟨false, 0, 0⟩
def ofInt (m e : Int) : Num := ⟨decide (m < 0), m.natAbs, e⟩
def int (x : Num) : Int := if x.neg then -(x.mag : Int) else x.mag
def isZero (x : Num) : Bool := decide (x.mag = 0)

/-- The significand on exponent `e`, which does not lie above the value's own. -/
def on (x : Num) (e : Int) : Int := x.int * 2 ^ (x.exp - e).toNat

def add (x y : Num) : Num := let e := min x.exp y.exp; ofInt (x.on e + y.on e) e
def negate (x : Num) : Num := { x with neg := !x.neg }
def abs (x : Num) : Num := { x with neg := false }
def sub (x y : Num) : Num := add x y.negate
def mul (x y : Num) : Num := ⟨x.neg != y.neg, x.mag * y.mag, x.exp + y.exp⟩
def scale (x : Num) (k : Int) : Num := { x with exp := x.exp + k }
def lt (x y : Num) : Bool := let e := min x.exp y.exp; decide (x.on e < y.on e)
def le (x y : Num) : Bool := !lt y x
def eq (x y : Num) : Bool := le x y && le y x

/-- floor(log2 |x|) of a non-zero value. -/
def log2 (x : Num) : Int := (Nat.log2 x.mag : Int) + x.exp

end Num

/-! ### Rounding (R15) -/

/-- m / 2^k, rounded half-even. -/
def rneShift (m k : Nat) : Nat :=
  let q := m / 2 ^ k
  let r := m % 2 ^ k
  if 2 ^ k < 2 * r ∨ (2 * r = 2 ^ k ∧ q % 2 = 1) then q + 1 else q

/-- mag × 2^e, rounded half-even to a natural number. -/
def rneMag (mag : Nat) (e : Int) : Nat := if 0 ≤ e then mag * 2 ^ e.toNat else rneShift mag (-e).toNat

/-- x / 2^w, rounded half-even to an integer. -/
def rne (x : Num) (w : Int) : Int :=
  let n := rneMag x.mag (x.exp - w)
  if x.neg then -(n : Int) else n

/-- x / 2^w is an integer. -/
def onGrid (x : Num) (w : Int) : Bool := decide (w ≤ x.exp) || decide (x.mag % 2 ^ (w - x.exp).toNat = 0)

/-- floor(m / 2^k) of an integer. -/
def floorShift (m : Int) (k : Nat) : Int := m / (2 ^ k : Nat)

/-- floor(x × 2^k) of a value. -/
def Num.floorAt (x : Num) (k : Int) : Int :=
  let e := x.exp + k
  if 0 ≤ e then x.int * 2 ^ e.toNat else floorShift x.int (-e).toNat

/-! ### Element formats (R45) -/

inductive ElFmt where
  | bf16 | fp16 | e4m3 | e5m2 | int8 | e3m2 | e2m3 | e2m1 | mxint8
deriving DecidableEq, Repr

/-- Layout of a floating-point format: width, mantissa bits, bias, largest finite code without sign. -/
structure FloatFmt where
  width : Nat
  mbits : Nat
  bias : Nat
  maxCode : Nat

def ElFmt.float : ElFmt → Option FloatFmt
  | .bf16 => some ⟨16, 7, 127, 0x7F7F⟩
  | .fp16 => some ⟨16, 10, 15, 0x7BFF⟩
  | .e4m3 => some ⟨8, 3, 7, 0x7E⟩
  | .e5m2 => some ⟨8, 2, 15, 0x7B⟩
  | .e3m2 => some ⟨6, 2, 3, 0x1F⟩
  | .e2m3 => some ⟨6, 3, 1, 0x1F⟩
  | .e2m1 => some ⟨4, 1, 1, 0x7⟩
  | .int8 | .mxint8 => none

/-- Bytes of a stored element (R48); the narrow formats are stored in blocks. -/
def ElFmt.bytes : ElFmt → Nat
  | .bf16 | .fp16 => 2
  | _ => 1

/-- Bits of an element in a block of 32 (R48). -/
def ElFmt.blockBits : ElFmt → Nat
  | .e3m2 | .e2m3 => 6
  | .e2m1 => 4
  | .bf16 | .fp16 => 16
  | _ => 8

/-- Exponent of the smallest normal. -/
def FloatFmt.emin (f : FloatFmt) : Int := 1 - (f.bias : Int)

/-- Value of a floating-point code (R45); codes above the largest finite one are infinite or NaN. -/
def FloatFmt.decode (f : FloatFmt) (code : Nat) : Val :=
  let mag := code % 2 ^ (f.width - 1)
  let field := mag / 2 ^ f.mbits
  let m := mag % 2 ^ f.mbits
  if f.maxCode < mag then none
  else if field = 0 then some ⟨code.testBit (f.width - 1), m, f.emin - f.mbits⟩
  else some ⟨code.testBit (f.width - 1), m + 2 ^ f.mbits, (field : Int) - f.bias - f.mbits⟩

/-- Value of an element code (R45). -/
def ElFmt.decode (f : ElFmt) (code : Nat) : Val :=
  match f.float with
  | some g => g.decode code
  | none => some (Num.ofInt (signed 8 code) (if f = .mxint8 then -6 else 0))

/-- Canonical NaN of an output format (R67). -/
def ElFmt.nan : ElFmt → Nat
  | .bf16 => 0x7FC0
  | .fp16 => 0x7E00
  | .e4m3 | .e5m2 => 0x7F
  | _ => 0

/-- A code with a count of saturations. -/
structure Conv where
  code : Nat
  sat : Bool := false
deriving DecidableEq, Repr

/-- A code from a rounded significand on exponent `x`, saturated (R68, R71). -/
def FloatFmt.encode (f : FloatFmt) (neg : Bool) (x : Int) (n : Nat) : Conv :=
  let c := (x - f.emin).toNat * 2 ^ f.mbits + n
  let s := if neg then 2 ^ (f.width - 1) else 0
  if f.maxCode < c then ⟨s + f.maxCode, true⟩ else ⟨s + c, false⟩

/-- convert of R68 for a floating-point format. -/
def FloatFmt.convert (f : FloatFmt) (v : Num) : Conv :=
  if v.isZero then ⟨0, false⟩
  else
    let x := max v.log2 f.emin
    f.encode v.neg x (rneMag v.mag (v.exp - (x - f.mbits)))

/-- convert of R68, R71 and R72. -/
def ElFmt.convert (f : ElFmt) (v : Num) : Conv :=
  match f.float with
  | some g => g.convert v
  | none =>
    let n := rne v (if f = .mxint8 then -6 else 0)
    if n < -128 then ⟨0x80, true⟩ else if 127 < n then ⟨0x7F, true⟩ else ⟨unsigned 8 n, false⟩

/-- The stored value of a conversion. -/
def ElFmt.round (f : ElFmt) (v : Num) : Num := (f.decode (f.convert v).code).getD Num.zero

/-- Conversion of a value that may be NaN. -/
def ElFmt.convertVal (f : ElFmt) (v : Val) : Conv :=
  match v with
  | none => ⟨f.nan, false⟩
  | some x => f.convert x

/-- Largest finite value of a format. -/
def ElFmt.maxVal (f : ElFmt) : Num :=
  match f.float with
  | some g => (g.decode g.maxCode).getD Num.zero
  | none => Num.ofInt 127 (if f = .mxint8 then -6 else 0)

/-! ### Stochastic rounding (R79, R81) -/

def lmix64 (seed step tid ix : Nat) : Nat :=
  let k := seed ^^^ (step * 0x9E37_79B9_7F4A_7C15 % 2 ^ 64)
  let x := ((tid % 2 ^ 24) * 2 ^ 40 ^^^ ix % 2 ^ 40) ^^^ k
  let x := (x ^^^ x / 2 ^ 32) * 0xD6E8_FEB8_6659_FD93 % 2 ^ 64
  let x := (x ^^^ x / 2 ^ 29) * 0xA3B1_95A0_D2F4_7C61 % 2 ^ 64
  x ^^^ x / 2 ^ 32

/-- Rounding of R81 with random bits `r`. -/
def ElFmt.stochastic (f : ElFmt) (v : Num) (r : Nat) : Conv :=
  match f.float with
  | none => f.convert v
  | some g =>
    if v.isZero then ⟨0, false⟩
    else
      let x := max v.log2 g.emin
      let e := v.exp - (x - g.mbits) + 16
      let guard := if 0 ≤ e then v.mag * 2 ^ e.toNat else v.mag / 2 ^ (-e).toNat
      g.encode v.neg x ((guard + r) / 2 ^ 16)

/-! ### Report format (R52, R53) -/

/-- Strip trailing zeros, at most `n` of them. -/
def stripZeros : Nat → Int → Int → Int × Int
  | 0, m, e => (m, e)
  | n + 1, m, e => if m % 2 = 0 then stripZeros n (m / 2) (e + 1) else (m, e)

/-- The first k from `k` on at which s / 2^k, rounded, fits 64 signed bits, looking `n` times. -/
def fitReport (s : Int) : Nat → Nat → Nat
  | 0, k => k
  | n + 1, k =>
    let r := rne (Num.ofInt s 0) k
    if r < -(2 ^ 63) ∨ 2 ^ 63 - 1 < r then fitReport s n (k + 1) else k

/-- `SIG` and `EXP` of s × 2^e; none is the canonical NaN. -/
def report (v : Option (Int × Int)) : Int × Int :=
  match v with
  | none => (0, -32768)
  | some (s, e) =>
    if s = 0 then (0, 0)
    else
      let k := fitReport s (Nat.log2 s.natAbs + 1) 0
      stripZeros 64 (rne (Num.ofInt s 0) k) (e + k)

/-- The 16-byte slot (R52). -/
def reportBytes (v : Option (Int × Int)) : Bytes :=
  let r := report v
  leBytes 16 (unsigned 16 r.2 + unsigned 64 r.1 * 2 ^ 16)

/-! ### Blocks (R48, R49) -/

/-- Element `i` of a packed field of elements of `w` bits. -/
def packedAt (bs : Bytes) (w i : Nat) : Nat := leNat (slice bs (w * i / 8) 3) / 2 ^ (w * i % 8) % 2 ^ w

/-- An E8M0 scale as an exponent; 0xFF is NaN. -/
def e8m0 (code : Nat) : Option Int := if code % 256 = 255 then none else some ((code % 256 : Nat) - 127)

end Sys2Proof.Machine
end

