-- ==== Sys2Proof/Machine/FixedFn.lean ====
section
/-! DEFINITION. Machine/FixedFn.lean: the fixed-point functions of R138, exact on integers, with the lines of its
pseudocode in its order. -/

namespace Sys2Proof.Machine.Fn

def one30 : Int := 2 ^ 30
def c1 : Int := 744261118
def c2 : Int := 257941248
def c3 : Int := 59597083
def c4 : Int := 10327387
def c5 : Int := 1431680
def lg : Int := 1549082005
def d1 : Int := 3098164009
def d3 : Int := 1032721336
def d5 : Int := 619632802
def d7 : Int := 442594858
def k1 : Int := 3031741621
def k2 : Int := 2021161080
def s1 : Int := 1252698795
def s2 : Int := 178956971

/-- |x| = 2^e × m30 × 2^-30 with 2^30 ≤ m30 < 2^31, for a non-zero value of at most 31 significant bits. -/
def decompose (x : Num) : Int × Int :=
  (x.log2, (x.mag * 2 ^ (30 - Nat.log2 x.mag) : Nat))

/-- (p, n) with 2^w taken as p × 2^(n − 30). -/
def exp2Core (w : Num) : Int × Int :=
  let n := w.floorAt 0
  let f := rne (w.sub (Num.ofInt n 0)) (-30)
  let n := if f = one30 then n + 1 else n
  let f := if f = one30 then 0 else f
  let h := [c4, c3, c2, c1].foldl (fun h c => c + floorShift (h * f) 30) c5
  (one30 + floorShift (h * f) 30, n)

def rcpStep (u y : Int) : Int :=
  let r := one30 - floorShift (u * y) 31
  y + floorShift (y * r) 30

/-- 2^30 / u is about y × 2^-31. -/
def rcpCore (u : Int) : Int := rcpStep u (rcpStep u (rcpStep u (k1 - floorShift (k2 * u) 31)))

/-- The value within [−256, 256]. -/
def clamp256 (w : Num) : Num :=
  let m := Num.ofInt 256 0
  if m.lt w then m else if w.lt m.negate then m.negate else w

def exp2 (x : Num) : Num :=
  let r := exp2Core (clamp256 x)
  Num.ofInt r.1 (r.2 - 30)

/-- x × lg × 2^-30. -/
def timesLg (x : Num) : Num := x.mul (Num.ofInt lg (-30))

def expe (x : Num) : Num := exp2 (timesLg x)

/-- log2 of a positive value. -/
def log2 (x : Num) : Num :=
  let (e, m) := decompose x
  let big := decide (3 * 2 ^ 29 ≤ m)
  let m := if big then m / 2 else m
  let e := if big then e + 1 else e
  let s := ((m - one30) * one30).tdiv (m + one30)
  let z := floorShift (s * s) 30
  let t := [d5, d3, d1].foldl (fun t d => d + floorShift (t * z) 30) d7
  Num.ofInt (e * one30 + floorShift (t * s) 30) (-30)

/-- 1 / x of a non-zero value. -/
def rcp (x : Num) : Num :=
  let (e, m) := decompose x
  { Num.ofInt (rcpCore m) (-e - 31) with neg := x.neg }

def rsqrtStep (m y : Int) : Int :=
  let y2 := floorShift (y * y) 30
  let t := floorShift (m * y2) 30
  floorShift (y * (3 * one30 - t)) 31

/-- 1 / √x of a positive value. -/
def rsqrt (x : Num) : Num :=
  let (e, m) := decompose x
  let odd := decide (e % 2 ≠ 0)
  let m := if odd then 2 * m else m
  let e := if odd then e - 1 else e
  let y := s1 - floorShift (m * s2) 30
  let y := rsqrtStep m (rsqrtStep m (rsqrtStep m (rsqrtStep m y)))
  Num.ofInt y (-(e / 2) - 30)

/-- (p, n) of e^−|x| scaled by `k`, with the floor of p × 2^n. -/
def decay (x : Num) (k : Int) : Int × Int × Int :=
  let r := exp2Core (clamp256 (timesLg (x.abs.mul (Num.ofInt (-k) 0))))
  (r.1, r.2, (Num.ofInt r.1 r.2).floorAt 0)

def sigmoid (x : Num) : Num :=
  let (p, n, fl) := decay x 1
  let q := Num.ofInt (p * rcpCore (one30 + fl)) (n - 61)
  if x.int < 0 then q else (Num.ofInt 1 0).sub q

def tanh (x : Num) : Num :=
  if x.abs.lt (Num.ofInt 1 (-6)) then x
  else
    let (p, n, fl) := decay x 2
    let t := (Num.ofInt 1 0).sub (Num.ofInt (p * rcpCore (one30 + fl)) (n - 60))
    if 0 < x.int then t else t.negate

def silu (x : Num) : Num := x.mul (sigmoid x)

end Sys2Proof.Machine.Fn
end

