-- ==== Sys2Proof/Machine/DmaRec.lean ====
section
/-! DEFINITION. Machine/DmaRec.lean: the DMA descriptor and shape record, the ranges that they span, and the accesses of a
transfer that are in flight at a host (R232 to R234, R240, R431, R457). -/

namespace Sys2Proof.Machine

/-! ### Descriptor and shape (R232, R234) -/
namespace DRec
def srcAddr (d : Nat) : Nat := bits d 511 448
def dstAddr (d : Nat) : Nat := bits d 447 384
def shapeAddr (d : Nat) : Nat := bits d 383 360
def listAddr (d : Nat) : Nat := bits d 359 336
def listLen (d : Nat) : Nat := bits d 335 320
def sigObj (d : Nat) : Nat := bits d 319 304
def sigN (d : Nat) : Nat := bits d 303 288
def sigModule (d : Nat) : Nat := bits d 287 277
def sigRemote (d : Nat) : Bool := bit d 276
def sigKind (d : Nat) : Nat := bits d 275 274
def op (d : Nat) : Nat := bits d 273 270
def fmt (d : Nat) : Nat := bits d 269 266
def srcCirc (d : Nat) : Nat := bits d 265 260
def dstCirc (d : Nat) : Nat := bits d 259 254
def strict (d : Nat) : Bool := bit d 253
def dstSlice (d : Nat) : Bool := bit d 252
def cls (d : Nat) : Nat := if bit d 251 then 1 else 2
def compl (d : Nat) : Bool := bit d 250
/-- Event line of the hub that a transfer with `COMPL` = 1 pulses (R253). -/
def pulse (d : Nat) : Nat := bits d 249 242
def addT (d : Nat) : Int := signed 10 (bits d 241 232)
def dstCore (d : Nat) : Nat := bits d 231 224
def dstBank (d : Nat) : Nat := bits d 223 222
def dstHalf (d : Nat) : Nat := bits d 221 221
def srcBank (d : Nat) : Nat := bits d 220 219
def srcHalf (d : Nat) : Nat := bits d 218 218
/-- The transfer has a block list. -/
def listed (d : Nat) : Bool := decide (1 ≤ op d) && decide (op d ≤ 3)
/-- The source is the indexed tensor (R234). -/
def indexedSrc (d : Nat) : Bool := decide (op d ≤ 1)
end DRec

namespace Shape
def padValue (h : Nat) : Nat := bits h 1023 1008
def padMask (h : Nat) : Nat := bits h 1007 1004
/-- Source stride of dimension 1 to 3. -/
def s (h d : Nat) : Nat := bits h (816 + 48 * d - 1) (816 + 48 * (d - 1))
def dd (h d : Nat) : Nat := bits h (672 + 48 * d - 1) (672 + 48 * (d - 1))
def e (h d : Nat) : Nat := bits h (512 + 32 * d + 31) (512 + 32 * d)
def n (h d : Nat) : Nat := bits h (384 + 32 * d + 31) (384 + 32 * d)
def c (h d : Nat) : Int := signed 32 (bits h (256 + 32 * d + 31) (256 + 32 * d))
def srcStrides (h : Nat) : List Nat := [s h 1, s h 2, s h 3]
def dstStrides (h : Nat) : List Nat := [dd h 1, dd h 2, dd h 3]
def box (h : Nat) : List Nat := [n h 0, n h 1, n h 2, n h 3]
def extents (h : Nat) : List Nat := [e h 0, e h 1, e h 2, e h 3]
end Shape

/-- Source bytes of an element (R233). -/
def srcSize (d : Nat) : Nat :=
  match DRec.fmt d with
  | 2 | 3 | 4 | 5 => 1
  | 6 => 32
  | 7 => 4
  | _ => 2

/-- Destination bytes of an element (R233). -/
def dstSize (d : Nat) : Nat :=
  if DRec.op d = 3 then 32
  else
    match DRec.fmt d with
    | 2 | 3 | 4 | 5 => 1
    | 6 => 32
    | _ => 2

/-! ### Ranges (R240, R241) -/

/-- Bytes from a base to the last byte of the last of the positions; 0 where there is none. -/
def extentBytes (counts strides : List Nat) (es : Nat) : Nat :=
  if counts.any (· = 0) then 0
  else (counts.headD 1 - 1) * es + (((counts.drop 1).zip strides).map fun x => (x.1 - 1) * x.2).foldl (· + ·) 0 + es

/-- Positions of the dense side. -/
def denseCounts (d h : Nat) : List Nat :=
  if DRec.listed d then [Shape.n h 0, Shape.n h 1, Shape.n h 2, DRec.listLen d] else Shape.box h

/-- Span of a side before wrapping. -/
def sideSpan (d h : Nat) (src : Bool) : Nat :=
  let indexed := src == DRec.indexedSrc d
  extentBytes (if indexed then Shape.extents h else denseCounts d h) (if src then Shape.srcStrides h else Shape.dstStrides h)
    (if src then srcSize d else dstSize d)

/-- Range of a side: the whole buffer where it is circular. -/
def sideRange (d h : Nat) (src : Bool) : Nat × Nat :=
  let base := if src then DRec.srcAddr d else DRec.dstAddr d
  let circ := if src then DRec.srcCirc d else DRec.dstCirc d
  if circ = 0 then (base, sideSpan d h src) else (base / 2 ^ circ * 2 ^ circ, 2 ^ circ)

/-- Source and destination ranges of a transfer between memories. -/
def DeXfer.sides (t : DeXfer) : List (Nat × Nat) × List (Nat × Nat) :=
  if DRec.op t.desc = 4 then ([], []) else ([sideRange t.desc t.shape true], [sideRange t.desc t.shape false])

def DeXfer.part (t : DeXfer) (s : State) : Nat := (s.ctx t.ctx).part

/-! ### Accesses at the host (R431, R433, R457) -/

/-- A range meets the host windows. -/
def inWindow (r : Nat × Nat) : Bool := overlaps r (3 * 2 ^ 56, 2 ^ 48)

/-- A transfer has a host-window access in flight: it moves data there, or its writes there are not yet confirmed. -/
def DeXfer.hostInFlight (t : DeXfer) (moving : Bool) : Bool :=
  t.started && decide (t.cause = 0) && (t.sides.2.any inWindow || (moving && t.sides.1.any inWindow))

/-- A transfer of the partition has an access in flight through a range of the host windows. -/
def State.hostUse (s : State) (p : Nat) (r : Nat × Nat) : Bool :=
  let uses (moving : Bool) (t : DeXfer) : Bool :=
    decide (t.part s = p) && t.hostInFlight moving && (t.sides.2.any (overlaps r) || (moving && t.sides.1.any (overlaps r)))
  s.des.any fun e => (e.2.active.any (uses true)) || e.2.waiting.any (uses false)

end Sys2Proof.Machine
end

