-- ==== Sys2Proof/Machine/Observe.lean ====
section
/-! DEFINITION. Machine/Observe.lean: what the module reports: status codes, completion records and MSI-X (R424, R427),
partition events (R444 to R446), failure records (R578), trace records and causal counts (R579, R580). -/

namespace Sys2Proof.Machine

/-! ### Status codes (R443) -/
namespace St
def ok : Nat := 0x0000
def notReady : Nat := 0x0001
def badOpcode : Nat := 0x0002
def badField : Nat := 0x0003
def noPermission : Nat := 0x0004
def noResource : Nat := 0x0005
def busy : Nat := 0x0006
def noSuchObject : Nat := 0x0007
def badState : Nat := 0x0008
def address : Nat := 0x0009
def waitersPending : Nat := 0x000A
def ringOverrun : Nat := 0x000B
def hostError : Nat := 0x000C
def memoryError : Nat := 0x000D
def checkFailed : Nat := 0x000E
def ctxFaulted : Nat := 0x000F
def noPeer : Nat := 0x0010
def paramMismatch : Nat := 0x0020
def epochMismatch : Nat := 0x0021
def windowMismatch : Nat := 0x0022
def staleShard : Nat := 0x0023
def sessionFailed : Nat := 0x0024
def timeout : Nat := 0x0025
def aborted : Nat := 0x0026
def torn : Nat := 0x0030
def lost : Nat := 0x0031
def corrupt : Nat := 0x0032
def mismatch : Nat := 0x0033
end St

/-! ### MSI-X (R427) -/

/-- Port index of a partition's host function: 0 for H0, 1 for H1. -/
def Partition.hostPort (p : Partition) : Nat := p.port - 1

def hport (h : Nat) : HPort := if h = 0 then 0 else 1

/-- Ask a vector for a message: masked vectors become pending, a vector within its period sends again at its end. -/
def State.msix (s : State) (h f v : Nat) : State :=
  let x := Tbl.get {} (s.func h f).vecs v
  let put (y : Vec) := s.modFunc h f fun g => { g with vecs := Tbl.set {} g.vecs v y }
  if x.masked then put { x with pending := true }
  else if x.running then put { x with again := true }
  else (put { x with running := decide (s.msixMinUs ≠ 0) }).out (.msix (hport h) f v)

/-! ### Completion records (R424 to R426) -/

/-- Records that a completion ring holds. -/
def Ring.capacity (r : Ring) : Nat := 2 ^ (r.cqLog2 + 6)

/-- The ring can write a further record (R426). -/
def Ring.room (r : Ring) : Bool :=
  decide ((r.written + 2 ^ 32 - r.consumed) % 2 ^ 32 < r.capacity)

/-- A completion record without its phase (R424). -/
def recordWord (seq status opcode tag result ring : Nat) : Nat :=
  pack [(0, 32, seq), (32, 16, status), (48, 16, opcode), (64, 32, tag), (96, 128, result), (248, 4, ring)]

/-- Write the next record of a ring and count it. -/
def State.putRecord (s : State) (p r w : Nat) : State :=
  let R := s.ring p r
  let phase := (R.written / R.capacity + 1) % 2
  let bs := leBytes 32 (w + phase * 2 ^ 255)
  ((s.hostWrite (s.part p).hostPort (R.cqBase + 32 * (R.written % R.capacity)) bs).modRing p r
    fun R => { R with written := (R.written + 1) % 2 ^ 32 }).addWork p 6 32

/-! ### Partition events (R444 to R446) -/

/-- The record of an event. -/
def eventWord (seq code detail : Nat) : Nat := recordWord seq 0 0xFFFF 0 (code * 2 ^ 120 + detail) 0

/-- Ring 0 takes event records now. -/
def State.eventRoom (s : State) (p : Nat) : Bool := (s.ring p 0).enable && (s.ring p 0).room

/-- Copy an event record into the partition's event log (R446). -/
def logEvent (P : Partition) (w : Nat) : Partition :=
  let w := w % 2 ^ 255 + 2 ^ 255
  if P.evLog.length < 64 then { P with evLog := P.evLog ++ [w] }
  else { P with evLog := P.evLog.drop 1 ++ [w], evLogLost := satAdd 32 P.evLogLost 1 }

/-- One event: its `SEQ`, its place in the log, and its record in ring 0, held, or counted lost. -/
def State.postEvent (s : State) (p code detail : Nat) : State :=
  let w := eventWord ((s.part p).evSeq) code detail
  let s := s.modPart p fun P => logEvent { P with evSeq := (P.evSeq + 1) % 2 ^ 32 } w
  let P := s.part p
  if P.port = 0 then s
  else if P.evHeld.isEmpty && s.eventRoom p then
    (s.putRecord p 0 w).msix P.hostPort (p + 1) 30
  else if P.evHeld.length < 64 then s.modPart p fun P => { P with evHeld := P.evHeld ++ [w] }
  else s.modPart p fun P => { P with evLost := satAdd 32 P.evLost 1 }

/-- Report an event (R444): first the count of lost events, where there are any and room is found (R445). -/
def State.event (s : State) (p code detail : Nat) : State :=
  let P := s.part p
  if 0 < P.evLost ∧ (P.evHeld.length < 64 ∨ (P.evHeld.isEmpty && s.eventRoom p)) then
    ((s.modPart p fun P => { P with evLost := 0 }).postEvent p 0x06 P.evLost).postEvent p code detail
  else s.postEvent p code detail

/-- Write held event records while ring 0 has room, at most `n` of them (R445). -/
def State.flushEvents (s : State) (p : Nat) : Nat → State
  | 0 => s
  | n + 1 =>
    match (s.part p).evHeld with
    | [] => s
    | w :: ws =>
      if s.eventRoom p then
        (((s.modPart p fun P => { P with evHeld := ws }).putRecord p 0 w).msix (s.part p).hostPort (p + 1) 30).flushEvents p n
      else s

/-! ### Failure records (R578) -/

/-- Slot that serves a logical core (R36). -/
def State.slotMap (s : State) (k : Nat) : Nat := Tbl.get slotMapReset s.rel.slotMap k

def slotCode (m slot : Nat) : Nat := bits m (4 * slot + 3) (4 * slot)

def setSlot (m slot code : Nat) : Nat := m - slotCode m slot * 2 ^ (4 * slot) + code * 2 ^ (4 * slot)

def State.slotOf (s : State) (core : Nat) : Nat :=
  ((List.range 9).find? fun i => slotCode (s.slotMap (core / 8)) i = core % 8).getD 0

/-- The slot that is the cluster's spare, if one is free. -/
def State.spareOf (s : State) (k : Nat) : Option Nat :=
  (List.range 9).find? fun i => slotCode (s.slotMap k) i = 8

/-- Strikes of a slot that have not expired (R571). -/
def State.strikesOf (s : State) (k slot : Nat) : Nat := min 3 (Tbl.get 0 s.rel.strikes (9 * k + slot))

/-- Margin step of a cluster (R572). -/
def State.marginOf (s : State) (k : Nat) : Nat := Tbl.get 0 s.rel.margin k

/-- What a failure record says beside its event. -/
structure CperInfo where
  event : Nat
  detail : Nat := 0
  /-- True for severity 2 (corrected): service survives. -/
  survives : Bool := true
  die : Nat := 0
  cluster : Nat := 0
  slot : Nat := 0
  lcore : Nat := 0
  unit : Nat := 0
  step : Nat := 0
  strikes : Nat := 0

/-- The Vangok GUID in the byte order of a UEFI GUID. -/
def vangokGuid : Bytes :=
  [0x21, 0x9C, 0x3A, 0x5F, 0x44, 0x7B, 0x0D, 0x4E, 0x9A, 0x6E, 0x2C, 0x81, 0xD0, 0xB7, 0xF4, 0x13]

/-- The 264 bytes of a failure record: record header, section descriptor, vendor section (R578; the two headers in the
form of Appendix N of the UEFI specification, log 28). -/
def cperBytes (i : CperInfo) (seq cycles hours moduleId : Nat) : Bytes :=
  let sev := if i.survives then 2 else 0
  let header :=
    leBytes 4 0x52455043 ++ leBytes 2 0x0101 ++ leBytes 4 0xFFFF_FFFF ++ leBytes 2 1 ++ leBytes 4 sev ++ leBytes 4 0 ++
    leBytes 4 264 ++ leBytes 8 0 ++ leBytes 16 0 ++ leBytes 16 0 ++ vangokGuid ++ leBytes 16 0 ++ leBytes 8 seq ++
    leBytes 4 0 ++ leBytes 8 0 ++ leBytes 12 0
  let descriptor :=
    leBytes 4 200 ++ leBytes 4 64 ++ leBytes 2 0x0100 ++ leBytes 1 0 ++ leBytes 1 0 ++ leBytes 4 1 ++ vangokGuid ++
    leBytes 16 0 ++ leBytes 4 sev ++ leBytes 20 0
  let vendor := pack [(448, 64, i.detail), (384, 64, cycles), (352, 32, hours), (320, 32, seq), (304, 16, i.event),
    (293, 11, moduleId), (291, 2, i.die), (288, 3, i.cluster), (284, 4, i.slot), (276, 8, i.lcore), (273, 3, i.unit),
    (270, 3, i.step), (268, 2, i.strikes)]
  header ++ descriptor ++ leBytes 64 vendor

/-- Write a failure record: the newest 256 are kept, and all are counted. Its cycle count and its powered hours are free
values (log 13, log 26). -/
def State.cper (s : State) (i : CperInfo) : State :=
  let n := (s.rel.cperCount + 1) % 2 ^ 32
  let r := cperBytes i n (Config.freeNat s.free) (Config.freeNat (s.free + 1)) (s.fab.moduleId % 2 ^ 11)
  let l := s.rel.cper ++ [r]
  { s with free := s.free + 2, rel := { s.rel with cperCount := n, cper := l.drop (l.length - 256) } }

/-- A failure record about a slot of a cluster. -/
def State.cperSlot (s : State) (k slot : Nat) (i : CperInfo) : State :=
  s.cper { i with die := k / 8, cluster := k % 8, slot := slot, step := s.marginOf k, strikes := s.strikesOf k slot }

/-! ### Trace records and causal counts (R579, R580) -/

/-- What a trace record says beside its clock and its causal count. -/
structure TraceInfo where
  event : Nat
  domain : Nat
  seq : Nat := 0
  lcore : Nat := 0
  queue : Nat := 0
  ctx : Nat := 0
  detail : Nat := 0

/-- The partition traces this event. -/
def Partition.traces (P : Partition) (e : Nat) : Bool := decide (P.traceBytes ≠ 0) && P.traceMask.testBit e

/-- No record can be written: an engine would wait (log 21), or the ring's memory is no longer the partition's. -/
def State.traceDrops (s : State) (p : Nat) : Bool :=
  Config.freeBool s.free || !s.ownsRange p (s.part p).traceBase (s.part p).traceBytes

/-- Write the 32-byte record with a causal count; the record's cycle count is a free value (log 21). -/
def State.writeTrace (s : State) (p causal : Nat) (i : TraceInfo) : State :=
  let P := s.part p
  let w := pack [(192, 64, Config.freeNat s.free), (160, 32, causal), (96, 64, i.seq), (88, 8, i.event), (84, 4, i.domain),
    (76, 8, i.lcore), (74, 2, i.queue), (64, 10, i.ctx), (0, 64, i.detail)]
  (({ s with free := s.free + 1 }).modWrite (P.traceBase + 32 * (P.traceWritten % (P.traceBytes / 32))) (leBytes 32 w)).modPart p
    fun P => { P with traceWritten := (P.traceWritten + 1) % 2 ^ 64 }

def State.loseTrace (s : State) (p : Nat) : State :=
  { s with free := s.free + 1 }.modPart p fun P => { P with traceLost := (P.traceLost + 1) % 2 ^ 64 }

/-- A record of a queue: it raises the queue's causal count and may be dropped (R579, log 21). -/
def State.traceQueue (s : State) (q e domain detail : Nat) : State :=
  let Q := s.queue q
  let p := (s.ctx (Q.ctx.getD 0)).part
  if Q.ctx.isSome && (s.part p).traces e then
    if s.traceDrops p then s.loseTrace p
    else
      let n := (Q.causal + 1) % 2 ^ 32
      ((s.modQueue q fun Q => { Q with causal := n }).writeTrace p n
        { event := e, domain := domain, seq := Q.seq, lcore := q / 4, queue := q % 4, ctx := Q.ctx.getD 0, detail := detail })
  else s

/-- A record of the hub for a partition (R580). -/
def State.traceHub (s : State) (p e domain seq lcore ctx detail : Nat) : State :=
  if (s.part p).traces e then
    if s.traceDrops p then s.loseTrace p
    else
      let n := ((s.part p).causal + 1) % 2 ^ 32
      ((s.modPart p fun P => { P with causal := n }).writeTrace p n
        { event := e, domain := domain, seq := seq, lcore := lcore, ctx := ctx, detail := detail })
  else s

end Sys2Proof.Machine
end

