-- ==== Sys2Proof/Machine/Dump.lean ====
section
/-! DEFINITION. Machine/Dump.lean: the byte images that the module shows: queue fault record (R197), object state image
(R204), bank header (R122), the saved queue (R199) and the dump of a faulted context (R566, log 23). -/

namespace Sys2Proof.Machine

def QSt.code : QSt → Nat
  | .idle => 0 | .running => 1 | .waiting => 2 | .ending => 3 | .ended => 4 | .stopped => 5 | .suspended => 6 | .faulted => 7

/-- The 64-byte queue fault record. -/
def FaultRec.bytes (r : FaultRec) : Bytes :=
  let it := pack ((List.range 4).map fun i => (96 + 32 * i, 32, (r.iter[i]?).getD 0))
  leBytes 64 (it + pack [(352, 64, r.pc), (288, 64, r.seq), (224, 64, r.lastSeq), (64, 32, r.detail), (25, 10, r.ctx),
    (17, 8, r.lcore), (15, 2, r.queue), (12, 3, r.depth), (11, 1, r.eng), (8, 3, r.unit), (0, 8, r.cause)])

def ObjKind.code : ObjKind → Nat
  | .free => 0 | .counter => 1 | .flag => 2 | .barrier => 3

/-- Bits set among the first `n` of a bitmap. -/
def popCount (x n : Nat) : Nat := ((List.range n).filter fun i => x.testBit i).length

/-- `COUNT` as the image shows it: a barrier shows the bits set in `BM_CUR`. -/
def SyncObj.countField (o : SyncObj) : Nat := if o.kind = .barrier then popCount o.bmCur 256 else o.count

/-- The 128-byte object state image. -/
def SyncObj.bytes (o : SyncObj) : Bytes :=
  leBytes 32 (pack [(192, 32, o.causal), (160, 32, o.gen), (144, 9, o.partic), (128, 16, o.countField),
    (127, 1, b2n o.prodDecl), (126, 1, b2n o.prodExt), (118, 8, o.prodCore), (116, 2, o.prodQ), (106, 10, o.ctx),
    (103, 3, o.part), (92, 11, o.waiters.length), (84, 8, o.lastErr), (65, 2, o.kind.code), (64, 1, b2n o.frozen)]) ++
  leBytes 32 o.bmCur ++ leBytes 32 o.bmNext ++ leBytes 32 0

def BankSt.code : BankSt → Nat
  | .free => 0 | .busy => 1 | .opened => 2 | .agreed => 3

/-- The 64-byte header of a bank (R122). -/
def Bank.header (b : Bank) : Bytes :=
  leBytes 64 (pack [(0, 2, b.st.code), (2, 5, b.chain.length), (7, 4, b.h), (32, 32, b.terms), (64, 16, b.agree.getD 0)])

/-- A scalar register: S0 reads as zero (R170). -/
def Queue.reg (Q : Queue) (i : Nat) : BitVec 64 := if i = 0 then 0 else Tbl.get 0 Q.sregs i

def LoopLevel.bytes (l : LoopLevel) : Bytes :=
  leBytes 8 l.start ++ leBytes 8 l.stop ++ leBytes 4 l.left ++ leBytes 4 l.index ++
  pad 10 (l.incs.flatMap fun i => leBytes 1 i.1 ++ leBytes 4 i.2)

/-- A pending wait with its operands. -/
def PendWait.bytes (w : PendWait) : Bytes :=
  leBytes 1 w.op.opc ++ leBytes 2 w.op.obj ++ leBytes 4 w.op.n ++ leBytes 2 w.op.idx ++ leBytes 4 w.op.gen ++
    leBytes 1 (b2n w.op.waitOnly + 2 * b2n w.arrived)

/-- The items of R199 in the order of its table, 512 bytes (log 23). -/
def Queue.bytes (Q : Queue) : Bytes :=
  pad 512 (leBytes 8 Q.pc ++ ((List.range 31).flatMap fun i => leBytes 8 (Q.reg (i + 1)).toNat) ++
    ((List.range 4).flatMap fun i => leBytes 4 (Tbl.get 0 Q.lcs i).toNat) ++
    pad 136 (Q.loops.reverse.flatMap LoopLevel.bytes) ++ leBytes 8 Q.seq ++ leBytes 1 Q.st.code ++
    pad 31 (Q.wait.elim [] PendWait.bytes) ++ Q.fault.bytes)

/-- Queues that a context owns, by its core map (R447). -/
def Ctx.queues (c : Ctx) : List Nat :=
  c.cmap.flatMap fun e => ((List.range 4).filter fun i => e.2.testBit i).map fun i => 4 * e.1 + i

/-- Cores on which a context owns queues, both cores of a tandem pair among them. -/
def Ctx.cores (c : Ctx) : List Nat :=
  c.cmap.flatMap fun e => if e.2 % 16 = 0 then [] else if e.2.testBit 8 then [e.1, e.1 + 1] else [e.1]

/-- Banks that a context owns, as (core, bank), both halves in tandem. -/
def Ctx.banks (c : Ctx) : List (Nat × Nat) :=
  c.cmap.flatMap fun e => ((List.range 4).filter fun i => e.2.testBit (4 + i)).flatMap fun b =>
    if e.2.testBit 8 then [(e.1, b), (e.1 + 1, b)] else [(e.1, b)]

/-- Objects of a context. -/
def State.ctxObjs (s : State) (x : Nat) : List Nat :=
  (s.sync.objs.filter fun o => decide (o.2.kind ≠ .free) && decide (o.2.ctx = x)).map (·.1)

/-- A section with its header (R566). -/
def dumpSection (type id : Nat) (body : Bytes) : Bytes :=
  leBytes 16 (pack [(120, 8, type), (64, 32, body.length), (0, 64, id)]) ++ body

def State.deSection (s : State) (c : Nat) : Bytes :=
  let one (x : Option DeXfer) : Bytes :=
    match x with
    | none => leBytes 192 0
    | some t => leBytes 64 t.desc ++ leBytes 128 t.shape
  one (s.de c).active ++ one (s.de c).shadow

def State.seSection (s : State) (c : Nat) : Bytes :=
  match (s.se c).ops with
  | [] => pad 128 (leBytes 64 0 ++ leBytes 8 0 ++ leBytes 8 (s.se c).progress)
  | o :: _ => pad 128 (leBytes 64 o.rcd ++ leBytes 8 (o.token.getD 0) ++ leBytes 8 (s.se c).progress)

def retained (ins : Nat) (regs : List Nat) (rcd : Nat) : Bytes :=
  leBytes 32 ins ++ pad 32 (regs.flatMap (leBytes 8)) ++ leBytes 64 rcd

def State.progressSection (s : State) (c : Nat) : Bytes :=
  pad 64 (((List.range 4).flatMap fun i => leBytes 8 (s.queue (4 * c + i)).seq) ++
    leBytes 8 (s.me c).progress ++ leBytes 8 (s.se c).progress ++ leBytes 8 (s.de c).progress)

/-- A section marked unavailable (R559). -/
def missingSection (type id : Nat) : Bytes := leBytes 16 (pack [(120, 8, type), (112, 8, 1), (0, 64, id)])

/-- What a recovery retains of a core's engine and has not yet re-issued (R557). -/
def State.retainedBy {α : Type} (s : State) (k : Nat) (u : EngUnit) (ops : Recovery → List α) (ctx : α → Nat) : List α :=
  (s.rel.recoveries.filter fun r => decide (r.core = k) && decide (r.unit = u)).flatMap fun r => (ops r).filter fun o => r.todo.contains (ctx o)

/-- Operations accepted and not completed: in the engine, or retained while it is recovered. -/
def State.meHeld (s : State) (k : Nat) : List MeOp := (s.me k).ops ++ s.retainedBy k .me Recovery.meOps MeOp.ctx
def State.seHeld (s : State) (k : Nat) : List SeOp := (s.se k).ops ++ s.retainedBy k .se Recovery.seOps SeOp.ctx
def State.deHeldOps (s : State) (k : Nat) : List DeXfer :=
  [(s.de k).active, (s.de k).shadow].filterMap id ++ s.retainedBy k .de Recovery.deOps DeXfer.ctx

/-- Unit code of an engine (R197). -/
def engCode : EngUnit → Nat
  | .me => 1 | .se => 2 | .de => 3

/-- The sections of an engine, by type and core: that of a tandem ME has one for each half. -/
def State.engSections (s : State) (k : Nat) (u : EngUnit) : List (Nat × Nat) :=
  (2 + engCode u, k) :: if u = .me ∧ s.isTandem k then [(3, k + 1)] else []

/-- Sections of engines that are being reset, which do not answer (R559). -/
def State.silentSections (s : State) : List (Nat × Nat) :=
  (s.rel.recoveries.filter (·.resetting)).flatMap fun r => s.engSections r.core r.unit

/-- The sections of a context's dump; `gone` names those of units that do not answer, by type and core. -/
def State.dumpSections (s : State) (x : Nat) (gone : List (Nat × Nat)) : List Bytes :=
  let eng (type code k : Nat) (body : Bytes) :=
    if gone.contains (type, k) then missingSection type (256 * code + k) else dumpSection type (256 * code + k) body
  let c := s.ctx x
  c.queues.flatMap (fun q =>
    let id := q % 4 * 256 + q / 4
    [dumpSection 0x01 id (s.queue q).bytes, dumpSection 0x02 id (s.queue q).fault.bytes]) ++
  c.cores.flatMap (fun k =>
    [eng 0x03 1 k ((List.range 4).flatMap fun b => (s.bank k b).header),
     eng 0x04 2 k (s.seSection k),
     eng 0x05 3 k (s.deSection k),
     dumpSection 0x08 k (s.progressSection k)]) ++
  (s.ctxObjs x).map (fun o => dumpSection 0x06 o (s.obj o).bytes) ++
  c.cores.flatMap fun k =>
    (((s.meHeld k).filter (fun o => decide (o.ctx = x))).map fun o => dumpSection 0x07 (256 + k) (retained o.ins o.regs o.rcd)) ++
    (((s.seHeld k).filter (fun o => decide (o.ctx = x))).map fun o => dumpSection 0x07 (512 + k) (retained o.ins o.regs o.rcd)) ++
    ((s.deHeldOps k).filter (fun o => decide (o.ctx = x))).map fun o =>
      dumpSection 0x07 (768 + k) (retained o.ins o.regs o.desc)

/-- What set off a dump. -/
structure DumpWhy where
  trigger : Nat
  cause : Nat
  lcore : Nat
  unit : Nat
  progress : Nat := 0
  gone : List (Nat × Nat) := []

/-- The dump of a context (R566); the Kentis cycle count is a free value. -/
def State.dump (s : State) (x : Nat) (w : DumpWhy) : Bytes :=
  let gone := (w.gone ++ s.silentSections).filter fun g => (s.ctx x).cores.contains g.2
  let secs := s.dumpSections x gone
  let body := secs.flatMap id
  leBytes 64 (pack [(448, 64, 64 + body.length), (384, 64, Config.freeNat s.free), (352, 32, secs.length), (320, 32, gone.length), (256, 64, w.progress),
    (232, 8, w.trigger), (224, 8, w.cause), (216, 8, w.lcore), (213, 3, w.unit), (209, 4, s.slotOf w.lcore), (199, 10, x),
    (196, 3, (s.ctx x).part)]) ++ body

end Sys2Proof.Machine
end

