-- ==== Sys2Proof/Machine/QueueFault.lean ====
section
/-! DEFINITION. Machine/QueueFault.lean: the fields of an instruction word (R167), and a queue fault with all it brings
about: the record (R197), the fault of the context (R195), its objects (R226), its dump (R566) and its event (R444). -/

namespace Sys2Proof.Machine

/-! ### Instruction word (R167) -/
namespace Ins
def op (w : Nat) : Nat := bits w 255 248
def eng (w : Nat) : Nat := bits w 247 247
def flags (w : Nat) : Nat := bits w 243 240
def sd (w : Nat) : Nat := bits w 239 235
def sa (w : Nat) : Nat := bits w 234 230
def sb (w : Nat) : Nat := bits w 229 225
def sc (w : Nat) : Nat := bits w 224 220
def sel (w : Nat) : Nat := bits w 219 216
def addr (w : Nat) : Nat := bits w 215 192
def imm (w : Nat) : Nat := bits w 191 128
def aux (w : Nat) : Nat := bits w 127 96
def low (w : Nat) : Nat := bits w 95 0
end Ins

/-- What a fault says of itself (R197). -/
structure Fault197 where
  pc : Nat
  seq : Nat
  unit : Nat
  cause : Nat
  detail : Nat := 0
  eng : Nat := 0

/-- The fault record of a queue (R197): levels as they stand, outermost first. The spec has the number start at 0 and count
every issue, and does not say which number the first instruction has: it has 0 here, and `LAST_SEQ` is 0 both where none has issued
and where one has (DESIGN CHOICE, log 119). -/
def faultRec (Q : Queue) (q : Nat) (i : Fault197) : FaultRec :=
  { pc := i.pc, seq := i.seq, lastSeq := Q.seq - 1, iter := Q.loops.reverse.map (·.index), detail := i.detail % 2 ^ 32,
    ctx := Q.ctx.getD 0, lcore := q / 4, queue := q % 4, depth := Q.loops.length, eng := i.eng, unit := i.unit,
    cause := i.cause }

/-- A queue stops in FAULTED with a record. -/
def Queue.stopFaulted (Q : Queue) (r : FaultRec) : Queue :=
  { Q with st := .faulted, fault := r, wait := none, notice := none, cut := none }

/-- A queue stops because another queue of its context faulted. -/
def Queue.stopCut (Q : Queue) (r : FaultRec) (us : Nat) : Queue := { Q.stopFaulted r with cut := some (Q.st, us) }

/-- What the queue wrote since its last synchronisation point is undefined (R9). -/
def State.undefineWritten (s : State) (q : Nat) : State :=
  let rs := (s.queue q).dirty
  let t := rs.foldl (fun t r => t.havocWritten (span r.1 r.2)) s
  if rs.isEmpty then t else t.modQueue q fun Q => { Q with dirty := [] }

/-- An operation that an engine had accepted completes after its context faulted: what it wrote is undefined too (R9,
R193). -/
def State.undefineLate (s : State) (q : Nat) : State :=
  match (s.queue q).ctx with
  | some x => if (s.ctx x).st = .faulted then s.undefineWritten q else s
  | none => s

/-- Freeze an object of a faulted context: its pending waits are discarded, its state is kept (R226). -/
def SyncObj.freezeFaulted (o : SyncObj) : SyncObj := { o with frozen := true, waiters := [] }

/-- The other queues of a faulted context: cause 0x06 where they had not faulted (R195, R196). -/
def State.stopOthers (s : State) (q : Nat) : List Nat → State
  | [] => s
  | r :: rs =>
    let Q := s.queue r
    let t :=
      if r = q ∨ Q.st = .faulted ∨ Q.ctx = none then s
      else s.setQueue r (Q.stopCut (faultRec Q r
        { pc := Q.pc, seq := Q.seq, unit := 0, cause := 0x06, detail := q % 4 * 256 + q / 4 }) s.clockUs)
    t.stopOthers q rs

/-- A context faults (R195): its other queues stop, its elements written since their last synchronisation points are
undefined (R9), its objects freeze (R226), its rounds are to end (R351), its off-load policies are disarmed (R396), a dump is kept (R566), a recovery drops it from
its suspects (R556), and event 0x01 is reported (R444). -/
def State.faultContext (s : State) (x q : Nat) (w : DumpWhy) : State :=
  let c := s.ctx x
  let qs := c.queues
  let s := s.stopOthers q qs
  let s := qs.foldl State.undefineWritten s
  let s := (s.ctxObjs x).foldl (fun s o => s.modObj o SyncObj.freezeFaulted) s
  let isWait (o : SyncOp) : Bool := decide (o.ctx = x) && o.remote.isNone && (o.opc = 0x71 || o.opc = 0x75 || o.opc = 0x76)
  let s := { s with sync := { s.sync with flight := s.sync.flight.filter fun o => !(isWait o) } }
  let s := s.modPart c.part fun P => { P with
    insts := P.insts.map fun i => if i.ctx = x then { i with cancel := true } else i
    policies := P.policies.filter fun y => decide (y.ctx ≠ x) }
  let drop (r : Recovery) : Recovery :=
    { r with todo := r.todo.filter (· ≠ x), current := r.current.filter (· ≠ x), cleared := r.cleared.filter (· ≠ x) }
  let s := { s with rel := { s.rel with recoveries := s.rel.recoveries.map drop } }
  let d := s.dump x w
  let s := { s with free := s.free + 1 }.modCtx x fun c => { c with st := .faulted, dump := some d }
  s.event c.part 0x01 (pack [(0, 10, x), (10, 8, q / 4), (18, 2, q % 4), (20, 8, w.cause)])

/-- A token that a discarded operation had taken waits for an SE again. -/
def giveBack (l : List TileTok) (o : SeOp) : List TileTok :=
  if o.slot then modFirst (fun t => t.taken && decide (o.token = some t.token)) (fun t => { t with taken := false }) l else l

/-- Operations of the queue that engines accepted after a faulting instruction are discarded without effect (R193). -/
def State.discardAfter (s : State) (q seq : Nat) : State :=
  let later (q' n : Nat) : Bool := decide (q' = q) && decide (seq < n)
  let keepDe (t : Option DeXfer) : Option DeXfer := t.filter fun t => !(later t.qid t.seq)
  let core := q / 4
  let k := core / 2 * 2
  let one (s : State) (c : Nat) : State :=
    let s := if (s.me c).ops.any (fun o => later o.qid o.seq) then
      s.modMe c fun e => { e with ops := e.ops.filter fun o => !(later o.qid o.seq) } else s
    let s := if (s.se c).ops.any (fun o => later o.qid o.seq) then
      (s.modMe (s.leadOf c) fun e => { e with tokens := ((s.se c).ops.filter fun o => later o.qid o.seq).foldl giveBack e.tokens }).modSe c
        fun e => { e with ops := e.ops.filter fun o => !(later o.qid o.seq) } else s
    if keepDe (s.de c).active = (s.de c).active ∧ keepDe (s.de c).shadow = (s.de c).shadow then s
    else s.modDe c fun e => { e with active := keepDe e.active, shadow := keepDe e.shadow }
  if s.isTandem core then one (one s k) (k + 1) else one s core

/-- Trigger code of a dump by the cause of the first fault (R566). -/
def triggerOf (cause : Nat) : Nat := if cause = 0x07 then 3 else 4

/-- A queue that is FAULTED takes a new record: of a fault of its own in the interval in which another queue's fault stopped it,
or of one earlier in its program than its own first (R196, R226, log 93). -/
def Queue.takesFault (Q : Queue) (us seq : Nat) : Bool :=
  if Q.fault.cause = 0x06 then Q.cut.any fun c => decide (c.2 = us) else decide (seq < Q.fault.seq)

/-- A queue faults; the context faults with its first fault. -/
def State.faultQueue (s : State) (q : Nat) (i : Fault197) (trigger : Nat) : State :=
  let Q := s.queue q
  match Q.ctx with
  | none => s
  | some x =>
    if Q.st = .faulted then
      if Q.takesFault s.clockUs i.seq then s.setQueue q { Q with fault := faultRec Q q i, cut := none } else s
    else
      let s := s.setQueue q (Q.stopFaulted (faultRec Q q i))
      let s := s.traceQueue q 9 0 i.cause
      if (s.ctx x).st ≠ .resident ∧ (s.ctx x).st ≠ .suspending then s
      else s.faultContext x q { trigger := trigger, cause := i.cause, lcore := q / 4, unit := i.unit }

/-- A fault at issue of the instruction at the queue's pc: it takes no effect (R193). -/
def State.faultIssue (s : State) (q w unit cause detail : Nat) : State :=
  let Q := s.queue q
  s.faultQueue q { pc := Q.pc, seq := Q.seq, unit := unit, cause := cause, detail := detail, eng := Ins.eng w } (triggerOf cause)

/-- A fault of an accepted operation before it completes: operations accepted after it are discarded (R193). -/
def State.faultOp (s : State) (q pc seq ins unit cause detail : Nat) : State :=
  (s.faultQueue q { pc := pc, seq := seq, unit := unit, cause := cause, detail := detail, eng := Ins.eng ins }
    (triggerOf cause)).discardAfter q seq

/-- A fault found after its instruction has completed for the queue: nothing is undone (R194). -/
def State.faultLate (s : State) (q pc seq ins unit cause detail : Nat) : State :=
  s.faultQueue q { pc := pc, seq := seq, unit := unit, cause := cause, detail := detail, eng := Ins.eng ins } (triggerOf cause)

end Sys2Proof.Machine
end

