-- ==== Sys2Proof/Machine/CtxOps.lean ====
section
/-! DEFINITION. Machine/CtxOps.lean: what a context holds (R447), what its suspension saves (R104, R150, R199, R225, R451)
and what a resumption restores (R452). -/

namespace Sys2Proof.Machine

def quarterBytes : Nat := 393216

/-- Physical scratchpad quarters of a context, by 4 × core + quarter; a tandem quarter is the same quarter of both cores. -/
def Ctx.quarters (c : Ctx) : List Nat :=
  c.cmap.flatMap fun e => ((List.range 4).filter fun i => e.2.testBit (9 + i)).flatMap fun i =>
    if e.2.testBit 8 then [4 * e.1 + i, 4 * (e.1 + 1) + i] else [4 * e.1 + i]

def quarterKey (k : Nat) : Nat := spadKey (k / 4) (k % 4 * quarterBytes)

/-- Clusters in which a context uses cores. -/
def Ctx.clusters (c : Ctx) : List Nat := nub (c.cores.map clusterOf)

/-- Tandem pairs of a context. -/
def Ctx.pairs (c : Ctx) : List Nat := (c.cmap.filter fun e => e.2.testBit 8).map (·.1 / 2)

/-- Bytes that the save area needs (R449). -/
def State.saveNeed (s : State) (x : Nat) : Nat :=
  let c := s.ctx x
  4096 + 4096 * c.cores.length + quarterBytes * c.quarters.length + 10240 * c.banks.length + 1024 * c.queues.length +
    65536 * c.clmLen * c.clusters.length + 256 * (s.ctxObjs x).length

/-- Suspension begins (R199, R225): the queues that issue or wait stop at an instruction boundary (R191), and the objects are
frozen. -/
def State.beginSuspend (s : State) (x : Nat) : State :=
  let c := s.ctx x
  let s := s.modCtx x fun c => { c with st := .suspending }
  let s := c.queues.foldl (fun s q => s.modQueue q fun Q =>
    if Q.st = .running ∨ Q.st = .waiting then { Q with saved := Q.st, st := .suspended } else Q) s
  (s.ctxObjs x).foldl (fun s o => s.modObj o fun O => { O with frozen := true }) s

/-- No round of the context is past its roll call (R351). -/
def State.roundsEnded (s : State) (x : Nat) : Bool :=
  s.parts.all fun p => p.2.insts.all fun i =>
    decide (i.ctx ≠ x) || decide (i.phase = .trigger) || decide (i.phase = .roll)

/-- Leave a core's engines without what the context holds in them. -/
def State.stripEngines (s : State) (x c : Nat) : State :=
  let s := s.modMe c fun e => { e with
    ops := e.ops.filter fun o => decide (o.ctx ≠ x)
    tokens := e.tokens.filter fun t => decide (t.ctx ≠ x) }
  s.modSe c fun e => { e with ops := e.ops.filter fun o => decide (o.ctx ≠ x) }

/-- A context that was created on a core after this one had faulted holds it (R448). -/
def State.heldElsewhere (s : State) (x core : Nat) : Bool :=
  s.ctxs.any fun c => decide (c.1 ≠ x) && (decide (c.2.st = .resident) || decide (c.2.st = .suspending)) && c.2.cores.contains core

/-- Release queues, banks and tandem (R451, R453). -/
def State.releaseUnits (s : State) (x : Nat) : State :=
  let c := s.ctx x
  let s := c.queues.foldl (fun s q => if (s.queue q).ctx = some x then s.setQueue q {} else s) s
  let s := c.banks.foldl (fun s b => if s.heldElsewhere x b.1 then s else s.setBank b.1 b.2 {}) s
  let s := c.cores.foldl (fun s k => s.stripEngines x k) s
  { s with tandem := (c.pairs.filter fun k => !s.heldElsewhere x (2 * k)).foldl (fun t k => t - b2n (t.testBit k) * 2 ^ k) s.tandem }

/-- Tandem as the core map of a context has it: its pairs are joined, and every other pair of its cores is apart (R116). -/
def State.setTandem (s : State) (c : Ctx) : State :=
  { s with tandem := c.cmap.foldl (fun t e =>
      let k := e.1 / 2
      if e.2.testBit 8 then t + b2n (!t.testBit k) * 2 ^ k else t - b2n (t.testBit k) * 2 ^ k) s.tandem }

/-- Save a context and release what it held; the bytes of the save area are undefined to software (log 25). -/
def State.saveContext (s : State) (x : Nat) : State :=
  let c := s.ctx x
  let sv : Saved :=
    { queues := c.queues.map fun q => (q, s.queue q)
      banks := c.banks.map fun b => (4 * b.1 + b.2, s.bank b.1 b.2)
      spad := c.quarters.map fun k => (k, Mem.extract s.mem.cells (quarterKey k) quarterBytes)
      clm := c.clusters.map fun k => (k, Mem.extract s.mem.cells (clmKey k (65536 * c.clmBase)) (65536 * c.clmLen))
      objs := (s.ctxObjs x).map fun o => (o, s.obj o)
      meOps := c.cores.map fun k => (k, (s.me k).ops.filter fun o => decide (o.ctx = x))
      seOps := c.cores.map fun k => (k, (s.se k).ops.filter fun o => decide (o.ctx = x))
      tokens := c.cores.map fun k => (k, (s.me k).tokens.filter fun t => decide (t.ctx = x))
      meCounts := c.cores.map fun k => (k, (s.me k).progress)
      seCounts := c.cores.map fun k => (k, (s.se k).progress)
      deCounts := c.cores.map fun k => (k, (s.de k).progress) }
  let need := s.saveNeed x
  let s := s.havocKeys (span c.saveAddr need)
  (s.releaseUnits x).modCtx x fun c => { c with st := .suspended, saved := some sv }

/-- The latest turn of a wait for a token, over all SEs (R148). -/
def State.lastTurn (s : State) : Nat := s.ses.foldl (fun n e => e.2.ops.foldl (fun n o => max n o.turn) n) 0

/-- A queue of a saved context on its new core. -/
def renQueue (ren : Nat → Nat) (q : Nat) : Nat := 4 * ren (q / 4) + q % 4

/-- The key of a byte of a saved context's memories on its new cores; the shared memory of cluster `k` becomes that of `clu k`. -/
def moveKey (ren clu : Nat → Nat) (a : Nat) : Nat :=
  if a < 2 ^ 56 ∨ hostRange ≤ a then a
  else
    let k := bits a 30 28 + 8 * bits a 32 31
    let unit := bits a 27 24
    let off := a % 2 ^ 24
    if unit = 8 then clmKey (clu k) off else spadKey (ren (8 * k + unit)) off

/-- What a queue wrote since its last synchronisation point has moved with its context (R9, R452). -/
def moveDirty (ren clu : Nat → Nat) (rs : List (Nat × Nat)) : List (Nat × Nat) :=
  rs.flatMap fun r => if r.1 < 2 ^ 56 ∨ hostRange ≤ r.1 then [r] else runs ((span r.1 r.2).map (moveKey ren clu))

/-- A block's field of a logical core at `core` and a queue at `q`, on the new cores. -/
def renOwner (ren : Nat → Nat) (core q b : Nat) : Nat :=
  let k := renQueue ren (4 * bits b (core + 7) core + bits b (q + 1) q)
  let cut (b lo w : Nat) : Nat := b - bits b (lo + w - 1) lo * 2 ^ lo
  cut (cut b core 8) q 2 + k / 4 * 2 ^ core + k % 4 * 2 ^ q

/-- `OWNER` of a block of 64-byte header. -/
def renOwnerBytes (ren : Nat → Nat) (core q : Nat) (b : Bytes) : Bytes :=
  splice b 0 (leBytes 64 (renOwner ren core q (leNat (slice b 0 64))))

/-- What names queues of a resumed context as owners or as declared producers names them on their new cores: the spec gives the map of
the cores and does not say so (DESIGN CHOICE, log 116). -/
def State.renameOwners (s : State) (x : Nat) (old : List Nat) (ren : Nat → Nat) : State :=
  let r (q : Nat) : Nat := if old.contains q then renQueue ren q else q
  let fix (O : SyncObj) : SyncObj :=
    if O.prodDecl ∧ O.prodExt = false ∧ O.kind ≠ .barrier then
      { O with prodCore := r (4 * O.prodCore + O.prodQ) / 4, prodQ := r (4 * O.prodCore + O.prodQ) % 4 }
    else { O with prodTab := O.prodTab.map fun e => (e.1, r e.2) }
  let s := (s.ctxObjs x).foldl (fun s o => s.modObj o fix) s
  { (s.modPart (s.ctx x).part fun P => { P with
      insts := P.insts.map fun i => if i.ctx = x then { i with blk := renOwner ren 181 179 i.blk } else i
      policies := P.policies.map fun y => if y.ctx = x then { y with blk := renOwner ren 150 148 y.blk } else y
      watches := P.watches.map fun y => if bits (leNat (slice y.blk 0 64)) 222 213 = x then { y with blk := renOwnerBytes ren 225 223 y.blk } else y
      ckpt := P.ckpt.map fun y => if bits (leNat (slice y.blk 0 64)) 357 348 = x then { y with blk := renOwnerBytes ren 360 358 y.blk } else y
      restores := P.restores.map fun y => if bits (leNat (slice y.blk 0 64)) 357 348 = x then { y with blk := renOwnerBytes ren 360 358 y.blk } else y }) with
    cmds := s.cmds.map fun c =>
      if c.phase = .waiting ∧ bits c.slot 47 32 = 0x32 ∧ bits c.slot 137 128 = x then { c with slot := renOwner ren 138 146 c.slot } else c }

def Client.rename (ren : Nat → Nat) : Client → Client
  | .queue q => .queue (renQueue ren q)
  | w => w

/-- Remote operations of a context, sent or refused, are charged to its queues on their new cores (R203). -/
def State.renameRemote (s : State) (x : Nat) (ren : Nat → Nat) : State :=
  let fix (o : Outstanding) : Outstanding := if o.ctx = x then { o with sig := o.sig.map fun g => (renQueue ren g.1, g.2) } else o
  { s with
    sync := { s.sync with refusals := s.sync.refusals.map fun r => if r.ctx = x then { r with qid := renQueue ren r.qid } else r }
    fab := { s.fab with sessions := Tbl.mapAll {} (fun _ S => { S with out := S.out.map fix, waitq := S.waitq.map fix }) s.fab.sessions } }

/-- Nothing is charged to a context that is no more. -/
def State.forgetRemote (s : State) (x : Nat) : State :=
  let fix (o : Outstanding) : Outstanding := if o.ctx = x then { o with sig := none } else o
  { s with
    sync := { s.sync with refusals := s.sync.refusals.filter fun r => decide (r.ctx ≠ x) }
    fab := { s.fab with sessions := Tbl.mapAll {} (fun _ S => { S with out := S.out.map fix, waitq := S.waitq.map fix }) s.fab.sessions } }

/-- Restore a suspended context on the cores that `ren` gives; `cmap` is its core map there (R225, R452). -/
def State.restoreContext (s : State) (x : Nat) (ren : Nat → Nat) (cmap : Table Nat) : State :=
  match (s.ctx x).saved with
  | none => s
  | some sv =>
    let c := s.ctx x
    let s := s.modCtx x fun c => { c with st := .resident, saved := none, cmap := cmap }
    let s := s.setTandem (s.ctx x)
    let clu (k : Nat) : Nat := clusterOf (ren ((c.cores.find? fun j => clusterOf j = k).getD (8 * k)))
    let core (k : Nat) : Nat := if c.cores.contains k then ren k else k
    let fixWait (w : PendWait) : PendWait := { w with op := { w.op with qid := renQueue ren w.op.qid } }
    let s := sv.queues.foldl (fun s e => s.setQueue (renQueue ren e.1)
      { e.2 with
        st := if e.2.st = .suspended then e.2.saved else e.2.st
        buffer := []
        wait := e.2.wait.map fixWait
        dirty := if cmap = c.cmap then e.2.dirty else moveDirty core clu e.2.dirty }) s
    let fixBank (b : Bank) : Bank := { b with lastApply := b.lastApply.map fun y => (renQueue ren y.1, y.2) }
    let s := sv.banks.foldl (fun s e => s.setBank (ren (e.1 / 4)) (e.1 % 4) (fixBank e.2)) s
    let s := sv.spad.foldl (fun s e => { s with mem := { s.mem with
      cells := Mem.implant s.mem.cells (quarterKey (4 * ren (e.1 / 4) + e.1 % 4)) quarterBytes e.2 } }) s
    let s := sv.clm.foldl (fun s e => { s with mem := { s.mem with
      cells := Mem.implant s.mem.cells (clmKey (clu e.1) (65536 * c.clmBase)) (65536 * c.clmLen) e.2 } }) s
    let s := sv.meOps.foldl (fun s e => s.modMe (ren e.1) fun m =>
      { m with ops := m.ops ++ e.2.map fun o => { o with qid := renQueue ren o.qid } }) s
    let waits := s.lastTurn
    let s := sv.seOps.foldl (fun s e => s.modSe (ren e.1) fun m =>
      { m with ops := m.ops ++ e.2.map fun o => { o with qid := renQueue ren o.qid, turn := waits + o.turn } }) s
    let s := sv.tokens.foldl (fun s e => s.modMe (ren e.1) fun m => { m with tokens := m.tokens ++ e.2 }) s
    -- counters never decrease (R550): the greater of the core's own and the context's stands (log 120)
    let s := sv.meCounts.foldl (fun s e => s.modMe (ren e.1) fun m => { m with progress := max m.progress e.2 }) s
    let s := sv.seCounts.foldl (fun s e => s.modSe (ren e.1) fun m => { m with progress := max m.progress e.2 }) s
    let s := sv.deCounts.foldl (fun s e => s.modDe (ren e.1) fun m => { m with progress := max m.progress e.2 }) s
    let s := if cmap = c.cmap then s else s.renameOwners x c.queues ren
    let s := s.renameRemote x ren
    (s.ctxObjs x).foldl (fun s e => s.setObj e { s.obj e with
      frozen := false, waiters := (s.obj e).waiters.map fun w => { w with who := w.who.rename ren } }) s

end Sys2Proof.Machine
end

