-- ==== Sys2Proof/Machine/Reliability.lean ====
section
/-! DEFINITION. Machine/Reliability.lean: placement and sparing of module memory (R265, R275 to R283), uncorrectable reads
(R272, R565), strikes, margining and retirement of slots (R571, R572, R574, R38 to R40). -/

namespace Sys2Proof.Machine

/-! ### Placement (R265, R279) -/

/-- Sub-channel and line position of a die offset. -/
def placeOf (a : Nat) : Nat × Nat :=
  let l := a % 2 ^ 42 / 256
  ((((bits l 7 0 ^^^ bits l 15 8) ^^^ bits l 23 16) ^^^ bits l 31 24) ^^^ bits l 33 32, l / 2 ^ 8)

/-- Where event `e` sends line `p` of its sub-channel (R278). -/
def Sparing.move (e : Sparing) (c p : Nat) : Nat × Nat :=
  let m := e.survivors.length
  if c = e.f ∧ (e.complete ∨ p < e.ptr) then
    ((e.survivors[p % m]?).getD c, (e.base[p % m]?).getD 0 + p / m)
  else (c, p)

/-- Sub-channel and physical line that serve an address (R279). -/
def State.lineAt (s : State) (a : Nat) : Nat × Nat :=
  (s.die (a / 2 ^ 42)).events.foldl (fun cp e => e.move cp.1 cp.2) (placeOf a)

/-! ### Sparing (R275 to R278) -/

def State.subch (s : State) (d c : Nat) : SubCh := Tbl.get {} (s.die d).subch c
def State.modSubch (s : State) (d c : Nat) (f : SubCh → SubCh) : State :=
  s.modDie d fun x => { x with subch := Tbl.upd {} x.subch c f }

/-- An event copies: it is not complete, and its sub-channel has not FAILED (R280). -/
def DieMem.runs (d : DieMem) (e : Sparing) : Bool := !e.complete && decide ((Tbl.get {} d.subch e.f).st = 3)

/-- A copy runs on the die. -/
def DieMem.copying (d : DieMem) : Bool := d.events.any d.runs

/-- A failure record about a sub-channel that enters a state. -/
def State.cperSparing (s : State) (d c st : Nat) : State :=
  s.cper { event := 0x0007, detail := pack [(0, 8, c), (8, 2, d), (10, 3, st)], survives := decide (st ≠ 5), die := d }

/-- The survivors take the lines of an event (R278). -/
def State.raiseFills (s : State) (d : Nat) (e : Sparing) : State :=
  let m := e.survivors.length
  (e.survivors.zip (List.range m)).foldl (fun s ci =>
    s.modSubch d ci.1 fun x => { x with fillPtr := x.fillPtr + e.live / m + b2n (decide (ci.2 < e.live % m)) }) s

/-- Event k starts with sub-channel `c` (R278). During a start from P3 or P4 no unit holds contents, and it completes at
once (R283). -/
def State.startSparing (s : State) (d c : Nat) : State :=
  let D := s.die d
  let surv := (List.range 256).filter fun i => decide (i ≠ c) && decide ((s.subch d i).st < 4)
  let now := decide (s.power.startFrom ≠ 2) && s.power.startStep.isSome
  let e : Sparing := { f := c, survivors := surv, base := surv.map fun i => (s.subch d i).fillPtr,
                       live := (s.subch d c).fillPtr, complete := now, ptr := 0 }
  let s := s.modDie d fun x => { x with events := x.events ++ [e] }
  let s := s.modSubch d c fun x => { x with st := if now then 4 else 3, event := D.events.length }
  let s := if now then s.raiseFills d e else s
  s.cperSparing d c (if now then 4 else 3)

/-- A trigger of sparing (R276, R277, R282). -/
def State.spareTrigger (s : State) (d c : Nat) : State :=
  let D := s.die d
  if 2 ≤ (s.subch d c).st then s
  else if 7 ≤ D.events.length then
    ((s.modSubch d c fun x => { x with st := 5 }).modDie d fun x => { x with degraded := true }).cperSparing d c 5
  else if D.copying then s.modSubch d c fun x => { x with st := 2 }
  else s.startSparing d c

/-- An uncorrectable line is counted among the distinct ones of its sub-channel; the first moves it to WATCH, the second
triggers sparing (R275, R276). -/
def State.countUe (s : State) (a : Nat) : State :=
  let d := a / 2 ^ 42
  let c := (s.lineAt a).1
  let line := a / 256 * 256
  let x := s.subch d c
  if x.ueLines.contains line then s
  else
    let s := s.modSubch d c fun x => { x with ueLines := x.ueLines ++ [line], newUe := true }
    if x.ueLines.isEmpty then (if x.st = 0 then s.modSubch d c fun x => { x with st := 1 } else s)
    else s.spareTrigger d c

/-- A codeword was corrected and written back (R271): `CE_COUNT` rises, half of the threshold moves the sub-channel to WATCH,
the threshold triggers sparing (R275, R276). -/
def State.countCe (s : State) (d c : Nat) : State :=
  let s := s.modSubch d c fun x => { x with ce := satAdd 16 x.ce 1 }
  let x := s.subch d c
  let th := s.mem.ceThreshold
  if th ≤ x.ce then s.spareTrigger d c
  else if th ≤ 2 * x.ce ∧ x.st = 0 then s.modSubch d c fun x => { x with st := 1 }
  else s

/-- What a read finds in error and corrects: entries from 2^57 on name codewords with one symbol in error (log 16). -/
def corrections (found : List Nat) : List Nat := (found.filter fun g => decide (2 ^ 57 ≤ g)).map (· - 2 ^ 57)

/-- The reads of a command corrected these codewords (R271, R285). -/
def State.corrected (s : State) (found : List Nat) : State :=
  (corrections found).foldl (fun s a => s.countCe (a / 2 ^ 42) (s.lineAt a).1) s

/-- A granule found uncorrectable stays so until it is written (R271, R565). -/
def State.markBad (s : State) (g : Nat) : State :=
  let g := g / granule g * granule g
  if s.mem.bad.contains g then s else { s with mem := { s.mem with bad := s.mem.bad ++ [g] } }

/-- The record of an uncorrectable read of module memory (R272). -/
def State.ueRecord (s : State) (g : Nat) : State := s.cper { event := 0x0006, detail := g, survives := false, die := g / 2 ^ 42 }

/-- A read met an uncorrectable codeword of module memory, or a line of a poison list, whose code is sound: the first is
counted, and each gives a failure record (R272). -/
def State.moduleUe (s : State) (g : Nat) : State :=
  (if s.poisoned.contains (g / 256 * 256) then s else (s.markBad g).countUe g).ueRecord g

/-- A patrol read of such a codeword or line: a listed line is counted too, once, and is left as it is (R272). -/
def State.patrolUe (s : State) (g : Nat) : State :=
  if s.poisoned.contains (g / 256 * 256) then (s.countUe g).ueRecord g else s.moduleUe g

/-! ### Strikes, margining, retirement (R571, R572, R574) -/

/-- The cluster of a slot leaves service (R40, R520): its resident contexts are suspended, it is taken out of its
partition, whose locked TDI enters ERROR (R534), and event 0x0004 is recorded. -/
def State.withdraw (s : State) (k lcore slot : Nat) : State :=
  let xs := (s.ctxs.filter fun c => decide (c.2.st = .resident) && c.2.cores.any fun i => decide (i / 8 = k)).map (·.1)
  let s := xs.foldl (fun s x => s.beginSuspend x) s
  let s := { s with rel := { s.rel with withdrawn := if s.rel.withdrawn.testBit k then s.rel.withdrawn else s.rel.withdrawn + 2 ^ k } }
  let s := (List.range 8).foldl (fun s p =>
    if s.hasCluster p k then s.modPart p fun P => { P with
      clusters := P.clusters - 2 ^ k
      tdi := if P.tdi = 1 ∨ P.tdi = 2 then 3 else P.tdi }
    else s) s
  s.cperSlot k slot { event := 0x0004, detail := lcore, survives := false, lcore := lcore }

def State.setSlotMap (s : State) (k m : Nat) : State :=
  { s with rel := { s.rel with slotMap := Tbl.set slotMapReset s.rel.slotMap k m } }

/-- A slot has its last state: retired, with a failure record (R574, R576). -/
def State.markRetired (s : State) (k slot reason lcore : Nat) : State :=
  (s.setSlotMap k (setSlot (s.slotMap k) slot 0xA)).cperSlot k slot { event := 0x0003, detail := reason, lcore := lcore }

/-- Retire a slot (R574): an active slot waits for the migration of its core to the spare; where the spare stands in for
a slot under test, the test ends first (R39); where no slot is left, the cluster is withdrawn (R40). -/
def State.retire (s : State) (k slot : Nat) : State :=
  let m := s.slotMap k
  let code := slotCode m slot
  if code = 0xA then s
  else if code = 9 then
    let t := s.markRetired k slot 0 0
    { t with rel := { t.rel with ftTest := none, migrations := t.rel.migrations.filter fun g => decide (g.1 / 8 ≠ k) } }
  else if code = 8 then s.markRetired k slot 0 0
  else if (s.spareOf k).isSome then
    if s.rel.retirePend.contains (k, slot) then s
    else { s with rel := { s.rel with retirePend := s.rel.retirePend ++ [(k, slot)] } }
  else
    match (List.range 9).find? fun i => slotCode m i = 9 with
    | some t =>
      -- the slot in the tested slot's place is the former spare: it gives the core back
      match s.rel.migrations.find? fun g => decide (g.1 / 8 = k) && g.2.2 with
      | some g =>
        let core := g.1 % 8
        let sp := g.2.1
        let m := setSlot (setSlot m t core) sp 8
        let s := s.setSlotMap k m
        let s := { s with rel := { s.rel with ftTest := none, migrations := s.rel.migrations.filter (· ≠ g) } }
        if sp = slot then s.markRetired k slot 0 0
        else { s with rel := { s.rel with retirePend := s.rel.retirePend ++ [(k, slot)] } }
      | none =>
        -- the spare itself is under test: it takes over as if it were free
        let s := s.setSlotMap k (setSlot m t 8)
        { s with rel := { s.rel with ftTest := none, retirePend := s.rel.retirePend ++ [(k, slot)] } }
    | none => (s.markRetired k slot 0 (8 * k + code)).withdraw k (8 * k + code) slot

/-- One strike to a slot (R571): the cluster's margin step advances (R572), and a third strike retires the slot. -/
def State.strike (s : State) (k slot : Nat) : State :=
  let n := Tbl.get 0 s.rel.strikes (9 * k + slot) + 1
  let s := { s with rel := { s.rel with
    strikes := Tbl.set 0 s.rel.strikes (9 * k + slot) n
    margin := Tbl.set 0 s.rel.margin k (min 6 (s.marginOf k + 1)) } }
  if 3 ≤ n then s.retire k slot else s

/-! ### Cause 0x08 (R565) -/

/-- `DETAIL` of cause 0x08. -/
def detail08 (kind unit suspects seq : Nat) : Nat :=
  pack [(29, 3, kind), (27, 2, unit), (22, 5, min suspects 31), (0, 22, seq)]

/-- The failure record and the strike of an uncorrectable word that a unit of core `c` read (R565). -/
def State.onDieRecord (s : State) (c unit g : Nat) : State :=
  let slot := s.slotOf c
  (s.strike (c / 8) slot).cperSlot (c / 8) slot { event := 0x0005, detail := g, survives := false, lcore := c, unit := unit }

/-- An ME, an SE or a queue read an uncorrectable word on its die (R565): the reading context faults with kind 4, a
failure record is written, and the slot takes a strike. -/
def State.onDieError (s : State) (q pc seq ins unit g : Nat) : State :=
  let s := s.markBad g
  let d := detail08 4 unit 0 (s.queue q).seq
  (s.faultQueue q { pc := pc, seq := seq, unit := unit, cause := 0x08, detail := d, eng := Ins.eng ins } 5).onDieRecord (q / 4 + if unit = 2 then Ins.eng ins else 0) unit g

end Sys2Proof.Machine
end

