-- ==== Sys2Proof/Machine/SirrikCode.lean ====
section
/-! DEFINITION. Machine/SirrikCode.lean: Sirrik as bytes: the datagram header, fragments, the seal of a session and its keys, and the
operation header of a reply (R478, R480, R481, R483, R484, R487). -/

namespace Sys2Proof.Machine

/-! ### Datagrams (R480, R481) -/

def datagramMax : Nat := 1232

/-- The 16 bytes of a header; `len` counts what follows, tag included. -/
def datagramHeader (type frag nfrag len session seq : Nat) : Bytes :=
  leBytes 16 (pack [(120, 8, 1), (112, 8, type), (104, 8, frag), (96, 8, nfrag), (80, 16, len), (48, 32, session), (0, 48, seq)])

def datagramTypes : List Nat := [0x01, 0x02, 0x10, 0x11, 0x12, 0x13, 0x20, 0x21, 0x30, 0x3F]

/-- `VER` is 1 and `TYPE` is in the table. -/
def knownDatagram (ver type : Nat) : Bool := decide (ver = 1) && datagramTypes.contains type

/-- The same of a datagram's bytes. -/
def datagramKnown (b : Bytes) : Bool :=
  let w := leNat (slice b 0 16)
  knownDatagram (bits w 127 120) (bits w 119 112)

/-- A message cut into fragments, at least one, each of at most `room` bytes. -/
def fragments (room : Nat) (msg : Bytes) : List Bytes := pieces room (msg.length / room + 1) msg

/-! ### The seal (R483, R484) -/

/-- Key and nonce base of a direction: HKDF over a shared secret, with H1 as salt. -/
def sirrikKey (secret : Nat) (h1 : Bytes) (dir : Nat) : LinkKey :=
  let k := Config.hkdf secret h1 dir
  { key := k % 2 ^ 256, base := k / 2 ^ 256 % 2 ^ 96 }

def sealNonce (base seq frag : Nat) : Nat := base ^^^ (seq % 2 ^ 48 * 2 ^ 8 + frag % 2 ^ 8)

/-- One datagram: plain, or with the header as additional data, the ciphertext and the 16-byte tag. -/
def datagram (key : Option LinkKey) (type frag nfrag session seq : Nat) (part : Bytes) : Bytes :=
  match key with
  | none => datagramHeader type frag nfrag part.length session seq ++ part
  | some k =>
    let h := datagramHeader type frag nfrag (part.length + 16) session seq
    h ++ (List.range (part.length + 16)).map (Config.gcmByte k.key (sealNonce k.base seq frag) h part)

/-- The datagrams of a message, each sealed on its own. -/
def datagrams (key : Option LinkKey) (type session seq : Nat) (msg : Bytes) : List Bytes :=
  let fs := fragments (datagramMax - if key.isSome then 32 else 16) msg
  ((List.range fs.length).zip fs).map fun f => datagram key type f.1 fs.length session seq f.2

/-! ### Replies (R487) -/

/-- A `RESP`: `RID` and `OP` as in the request, status and length; the other fields are 0 (log 108). -/
def respBytes (rid op status : Nat) (data : Bytes) : Bytes :=
  leBytes 16 (pack [(96, 32, rid), (88, 8, op), (16, 16, data.length), (0, 16, status)]) ++ data

/-! ### Addresses (R478) -/

/-- Interface identifier that modified EUI-64 forms from a MAC address, most significant byte first. -/
def eui64 (mac : Nat) : Nat := ((mac / 2 ^ 24 ^^^ 2 ^ 17) % 2 ^ 24) * 2 ^ 40 + 0xFFFE * 2 ^ 24 + mac % 2 ^ 24

/-- The link-local address of the module. -/
def linkLocal (mac : Nat) : Nat := 0xFE80 * 2 ^ 112 + eui64 mac

/-- The addresses on which the module answers: the link-local one, and `MGMT_IPV6_ADDR` in force unless it is all zeros. -/
def MgmtSt.addresses (m : MgmtSt) : List Bytes :=
  (leBytes 16 (linkLocal Config.identMac)).reverse :: if m.effIpv6.all (· = 0) then [] else [m.effIpv6]

/-! ### The line (R477) -/

/-- The role that `MGMT_PLCA_ID` in force gives port M. -/
def MgmtSt.role (m : MgmtSt) : PlcaRole :=
  if m.effPlcaId = 255 then .csma else if m.effPlcaId = 0 then .coordinator m.effPlcaCount else .follower m.effPlcaId

/-- What port M works with. -/
def MgmtSt.port (m : MgmtSt) : Out := .portM m.role Config.identMac m.addresses m.effUdpPort

end Sys2Proof.Machine
end

