-- ==== Sys2Proof/Machine/Answer.lean ====
section
/-! DEFINITION. Machine/Answer.lean: how a meaning answers. After its own effect, commands of Kentis that wait for a
condition complete (R442, R455, R456, R474, R476), and completed commands of the management station are answered
(R502). A command of the engines leaves the power sequencer, the meter, the dictionary and the security state as they
were: the four wrappers at the end say so by construction. -/

namespace Sys2Proof.Machine

/-! ### Slot fields (R423, R438) -/
namespace Slot
def op (w : Nat) : Nat := bits w 47 32
def seq (w : Nat) : Nat := bits w 31 0
def tag (w : Nat) : Nat := bits w 127 96
def ctx (w : Nat) : Nat := bits w 137 128
/-- Queue key of QUEUE_START and QUEUE_STOP. -/
def queue (w : Nat) : Nat := 4 * bits w 145 138 + bits w 147 146
/-- Handle of an instance or a policy. -/
def handle (w : Nat) : Nat := bits w 135 130
end Slot

def srcPart : CmdSrc → Nat
  | .ring p _ => p.val
  | .mgmt p => p.val

def srcRing : CmdSrc → Nat
  | .ring _ r => r.val
  | .mgmt _ => 0

/-- A command completes with a status and a result. -/
def Cmd.complete (c : Cmd) (status result : Nat) : Cmd := { c with phase := .done, status := status, result := result }

/-- `RESULT` of QUEUE_START (R455). -/
def queueResult (Q : Queue) : Nat := pack [(0, 64, Q.seq), (64, 3, Q.st.code)]

/-- `RESULT` of QUEUE_STOP (R456). -/
def stopResult (Q : Queue) : Nat := pack [(0, 64, Q.pc), (64, 64, Q.seq)]

/-- Queues of every context of a partition. -/
def State.partQueues (s : State) (p : Nat) : List Nat :=
  (s.ctxs.filter fun c => decide (c.2.part = p) && decide (c.2.st ≠ .suspended)).flatMap (·.2.queues)

/-- The conditions that SHUTDOWN_PREPARE waits for (R474). -/
def State.quiet (s : State) (p : Nat) (suspend : Bool) : Bool :=
  (s.part p).ckpt.isNone &&
  if suspend then
    s.ctxs.all fun c => decide (c.2.part ≠ p) || !(decide (c.2.st = .resident) || decide (c.2.st = .suspending))
  else (s.partQueues p).all fun q =>
    decide ((s.queue q).st = .idle) || decide ((s.queue q).st = .ended) || decide ((s.queue q).st = .faulted)

/-- Units that a LEND or REVOKE names, counted among the partition's units in ascending order (R428). -/
def State.slotUnits (s : State) (c : Cmd) : List Nat :=
  ((s.unitsOf (srcPart c.src)).drop (bits c.slot 271 256)).take (bits c.slot 287 272)

/-- A waiting command whose condition holds completes. -/
def State.settleCmd (s : State) (c : Cmd) : Cmd :=
  if c.phase ≠ .waiting then c
  else
    let Q := s.queue (Slot.queue c.slot)
    match Slot.op c.slot with
    | 0x31 =>
      if Q.st = .running ∨ Q.st = .waiting ∨ Q.st = .ending then c
      else c.complete (if Q.st = .ended then St.ok else if Q.st = .faulted then St.ctxFaulted else St.badState) (queueResult Q)
    | 0x32 =>
      -- its result is that of the moment at which it took effect; a queue that goes on meanwhile does not end it (R442)
      if Q.ctx ≠ some (Slot.ctx c.slot) then c
      else if Q.st = .faulted then c.complete St.ctxFaulted (stopResult Q)
      else if Q.st = .ended then c.complete St.ok c.result
      else c
    | 0x21 =>
      if s.hostUse (srcPart c.src) (3 * 2 ^ 56 + bits c.slot 303 256, c.result) then c else c.complete St.ok 0
    | 0x12 =>
      match (s.ctx (Slot.ctx c.slot)).st with
      | .suspending => c
      | .faulted => c.complete St.ctxFaulted 0
      | _ => c.complete St.badState 0
    | 0x61 =>
      if (s.part (srcPart c.src)).insts.any fun x => decide (x.h = Slot.handle c.slot) && x.cancel then c else c.complete St.ok 0
    | 0x70 => if (s.slotUnits c).all fun u => decide ((s.memUnit u).st = .owned) then c.complete St.ok c.result else c
    | 0xB0 => if s.quiet (srcPart c.src) (c.slot.testBit 128) then c.complete St.ok 0 else c
    | _ => c

/-- The partition is ready for shutdown once its SHUTDOWN_PREPARE has completed with `OK` (R474). -/
def markPrepared (parts : Table Partition) (old new : Cmd) : Table Partition :=
  if old.phase = .waiting ∧ new.phase = .done ∧ Slot.op old.slot = 0xB0 ∧ new.status = St.ok then
    Tbl.upd {} parts (srcPart old.src) fun P => { P with prepared := true, prepSuspend := old.slot.testBit 128 }
  else parts

/-- Keep a reply for retransmission (R489) and forget its `RID` among those being carried out. -/
def SirrikSess.keep (x : SirrikSess) (rid op status : Nat) (data : Bytes) : SirrikSess :=
  let l := x.replies ++ [(rid, op, status, data)]
  { x with sent := x.sent + 1, replies := l.drop (l.length - 32), inFlight := x.inFlight.filter (· ≠ rid) }

/-- A message of the module in a session, as the datagrams of its `SEQ`. -/
def SirrikSess.wires (x : SirrikSess) (type seq : Nat) (msg : Bytes) : List Out :=
  (datagrams (some x.txKey) type x.id seq msg).map (.wire x.peer)

/-- A reply in a session: what it says, and its datagrams. -/
def SirrikSess.answer (x : SirrikSess) (rid op status : Nat) (data : Bytes) : List Out :=
  .reply x.id rid op status data :: x.wires 0x21 (x.sent + 1) (respBytes rid op status data)

/-- A session that opened 24 hours ago has closed (R485). -/
def SirrikSess.expired (x : SirrikSess) (now : Nat) : Bool := x.isOpen && decide (x.openedUs + 86400000000 ≤ now)

/-- A session through which 2^32 messages have passed in either direction closes (R485). -/
def SirrikSess.spent (x : SirrikSess) : Bool := decide (2 ^ 32 ≤ x.high) || decide (2 ^ 32 ≤ x.sent)

/-- A reply in a session, kept for retransmission; a session that has closed gets none (R512), and one that has carried its last message
closes. -/
def sessReply (m : MgmtSt) (o : List Out) (now k rid op status : Nat) (data : Bytes) : MgmtSt × List Out :=
  match m.sessions.find? fun x => decide (x.id = k) && !x.expired now with
  | some x =>
    ({ m with sessions := (m.sessions.map fun x => if x.id = k then x.keep rid op status data else x).filter fun x => !(decide (x.id = k) && x.spent) },
     o ++ x.answer rid op status data)
  | none => (m, o)

/-- The same, in the module's state. -/
def State.reply (s : State) (k rid op status : Nat) (data : Bytes) : State :=
  let a := sessReply s.mgmt s.outbox s.clockUs k rid op status data
  { s with mgmt := a.1, outbox := a.2 }

/-- The completion record that answers a command of the management station: ring 0, phase 1 (R502). -/
def Cmd.mgmtRecord (c : Cmd) : Bytes :=
  leBytes 32 (recordWord (Slot.seq c.slot) c.status (Slot.op c.slot) (Slot.tag c.slot) c.result 0 + 2 ^ 255)

/-- A completed command of the management station is answered in its session; one that no session brought is answered as
session 0, `RID` 0 (log 19). -/
def answerMgmt (m : MgmtSt) (o : List Out) (now : Nat) (c : Cmd) : MgmtSt × List Out :=
  match c.reply with
  | none => (m, o ++ [.reply 0 0 0x02 St.ok c.mgmtRecord])
  | some (k, rid) => sessReply m o now k rid 0x02 St.ok c.mgmtRecord

def Cmd.isMgmt (c : Cmd) : Bool :=
  match c.src with
  | .mgmt _ => true
  | .ring _ _ => false

def Cmd.isMgmtDone (c : Cmd) : Bool := c.isMgmt && decide (c.phase = .done)

/-- A cluster has an accepted operation or a RUNNING queue (R603). -/
def State.clusterBusy (s : State) (k : Nat) : Bool :=
  (s.queues.any fun q => decide (q.1 / 32 = k) && decide (q.2.st = .running)) ||
  (s.mes.any fun e => decide (e.1 / 8 = k) && !e.2.ops.isEmpty) || (s.ses.any fun e => decide (e.1 / 8 = k) && !e.2.ops.isEmpty) ||
  (s.des.any fun e => decide (e.1 / 8 = k) && (e.2.active.isSome || e.2.shadow.isSome))

/-- Clusters that stay gated: one ungates on the next issue to it (R603). -/
def State.stillGated (s : State) : Nat :=
  if s.gated = 0 then 0
  else (List.range 32).foldl (fun g k => if s.gated.testBit k && !s.clusterBusy k then g + 2 ^ k else g) 0

/-- Settle: waiting commands complete where they can, completed commands of the station are answered, and clusters with
work ungate. -/
def State.settle (s : State) : State :=
  let cs := s.cmds.map s.settleCmd
  let ps := (s.cmds.zip cs).foldl (fun t c => markPrepared t c.1 c.2) s.parts
  let a := (cs.filter Cmd.isMgmtDone).foldl (fun a c => answerMgmt a.1 a.2 s.clockUs c) (s.mgmt, s.outbox)
  { s with cmds := cs.filter fun c => !c.isMgmtDone, parts := ps, mgmt := a.1, outbox := a.2, gated := s.stillGated }

/-- An effect on the parts around the sequencers: power, security, self-test and the meter are as they were. -/
def State.keepSeq (s t : State) : State :=
  { t with power := s.power, sec := s.sec, bist := s.bist, meter := s.meter, mirror := s.mirror }

/-- What a command of the engines leaves as it was. -/
def State.keepCore (s t : State) : State :=
  { t with pending := s.pending, clockUs := s.clockUs, power := s.power, mgmt := s.mgmt, sec := s.sec, bist := s.bist, meter := s.meter, mirror := s.mirror }

/-- Answer of a command of the engines, the memory, the fabric and the hub services: it occurs only while the module is
powered (R602), and it cannot change the power sequencer, the dictionary's own state, the security state, the self-test
or the meter. -/
def engines (f : State → State) (s : State) : Res :=
  if s.powered then .next (s.keepCore (f s)).settle else .next s

/-- Answer of a service of the hub that writes module memory: while a change of mode holds such writes it waits (R26). -/
def hubWork (f : State → State) : State → Res := engines fun s => if s.memHeld then s else f s

/-- Answer of a command at the host and Walien ports: it occurs while they carry traffic, in P2 too (R584, R605). -/
def fabric (f : State → State) (s : State) : Res :=
  if s.linksOn then .next (s.keepCore (f s)).settle else .next s

/-- Answer of a service of the hub that serves in P2 too (R605). -/
def services (f : State → State) (s : State) : Res :=
  if s.hubOn then .next (s.keepCore (f s)).settle else .next s

/-- Answer of a command of the hub: it occurs while the hub is on. -/
def hub (f : State → State) (s : State) : Res :=
  if s.hubOn then .next { (f s).settle with pending := s.pending, clockUs := s.clockUs, meter := s.meter } else .next s

/-- Answer of any other command: the queue of commands, the clock and the meter chip are not its own (R621). -/
def anyTime (f : State → State) (s : State) : Res :=
  .next { (f s).settle with pending := s.pending, clockUs := s.clockUs, meter := s.meter }

end Sys2Proof.Machine
end

