-- ==== Sys2Proof/Machine/Flags.lean ====
section
/-! DEFINITION. Machine/Flags.lean: the accumulator and the placing of products (R55, R61, R94), operation statistics with
their flags (R74, R75) and tile tokens (R105). -/

namespace Sys2Proof.Machine

/-! ### Accumulators -/

def maxOpt (a b : Option Int) : Option Int :=
  match a, b with
  | none, b => b
  | a, none => a
  | some a, some b => some (max a b)

def Acc.fresh (win : Int) : Acc := { win := win }

/-- One term of the first pass (R55); none is a NaN or infinite product. -/
def Acc.term (a : Acc) (p : Val) : Acc :=
  match p with
  | none => { a with nonfinite := true }
  | some x =>
    if x.isZero then a
    else
      let m := maxOpt a.maxexp (some x.log2)
      let q := rne x a.win
      if 2 ^ 63 ≤ q.natAbs then { a with maxexp := m, ovf := true }
      else { a with maxexp := m, sum := a.sum + q, inexact := a.inexact + b2n (!onGrid x a.win) }

/-- One term of a replay (R61). -/
def Acc.reterm (a : Acc) (p : Val) : Acc :=
  match p with
  | none => a
  | some x => { a with sum := a.sum + rne x a.win, inexact := a.inexact + b2n (!onGrid x a.win) }

/-- The element is to be replayed: it overflowed, no non-finite input reached it, and it was not replayed before
(R61, R63). -/
def Acc.due (a : Acc) : Bool := a.ovf && !a.nonfinite && !a.replayed

/-- A replay begins on the window of the element's largest exponent (R61, R101). An element without one replays only where
a program wrote its record; the spec gives that window no value, and it is free value `k` (log 92). -/
def Acc.startReplay (a : Acc) (h k : Nat) : Acc :=
  { a with win := a.maxexp.getD (signed 16 (Config.freeNat k)) + h - 62, sum := 0, inexact := 0, replayed := true }

/-- The element as it leaves the engine: a non-finite one has the sum 0 (R67, "Accumulator output"). -/
def Acc.outward (a : Acc) : Acc := if a.nonfinite then { a with sum := 0 } else a

/-- `MAXEXP` as 16 bits; none is 0x8000. -/
def expCode (m : Option Int) : Nat := match m with | none => 0x8000 | some x => unsigned 16 x

def expOf (n : Nat) : Option Int := if n % 2 ^ 16 = 0x8000 then none else some (signed 16 n)

/-- Accumulator entry (R94). -/
def Acc.bytes (a : Acc) : Bytes :=
  leBytes 32 (pack [(128, 128, unsigned 128 a.outward.sum), (112, 16, expCode a.maxexp), (96, 16, unsigned 16 a.win),
    (66, 30, a.inexact), (65, 1, b2n a.ovf), (64, 1, b2n a.nonfinite), (63, 1, b2n a.replayed)])

/-- Largest term count of an element (R58). -/
def termLimit : Nat := 2 ^ 29

/-! ### Reduction entries (R141) -/

structure RedEntry where
  acc : Acc
  terms : Nat := 0
deriving DecidableEq, Repr

/-- The entry as 32 bytes, its sum as it stands. -/
def RedEntry.raw (r : RedEntry) : Bytes :=
  let a := r.acc
  leBytes 32 (pack [(128, 128, unsigned 128 a.sum), (112, 16, expCode a.maxexp), (96, 16, unsigned 16 a.win),
    (66, 30, a.inexact), (65, 1, b2n a.ovf), (64, 1, b2n a.nonfinite), (34, 30, r.terms)])

/-- The entry as an engine writes it: a non-finite one has the sum 0. -/
def RedEntry.bytes (r : RedEntry) : Bytes := RedEntry.raw { r with acc := r.acc.outward }

def RedEntry.parse (bs : Bytes) : RedEntry :=
  let w := leNat bs
  { acc := { sum := signed 128 (bits w 255 128), maxexp := expOf (bits w 127 112), win := signed 16 (bits w 111 96),
             inexact := bits w 95 66, ovf := bit w 65, nonfinite := bit w 64 }
    terms := bits w 63 34 }

/-- The value of an entry (R141). -/
def RedEntry.value (r : RedEntry) : Val :=
  if r.acc.nonfinite then none else some (Num.ofInt r.acc.sum r.acc.win)

/-! ### Statistics (R74, R75) -/

def Stats.join (a b : Stats) : Stats :=
  { nonfinite := a.nonfinite + b.nonfinite
    inexact := a.inexact + b.inexact
    sat := a.sat + b.sat
    replay := a.replay + b.replay
    maxexp := maxOpt a.maxexp b.maxexp
    amaxexp := maxOpt a.amaxexp b.amaxexp }

/-- The 32-byte record: each count saturates at its field, and each flag says that its count is not zero. -/
def Stats.bytes (x : Stats) : Bytes :=
  leBytes 32 (pack [(192, 32, satAdd 32 0 x.nonfinite), (128, 64, satAdd 64 0 x.inexact), (96, 32, satAdd 32 0 x.sat),
    (64, 32, satAdd 32 0 x.replay), (35, 1, b2n (decide (x.inexact ≠ 0))), (34, 1, b2n (decide (x.sat ≠ 0))),
    (33, 1, b2n (decide (x.replay ≠ 0))), (32, 1, b2n (decide (x.nonfinite ≠ 0))), (16, 16, expCode x.amaxexp),
    (0, 16, expCode x.maxexp)])

/-- Tile token (R105). -/
def tileToken (tileId outAddr outFmt bank : Nat) (x : Stats) : Nat :=
  pack [(48, 16, tileId), (24, 24, outAddr), (20, 4, outFmt), (18, 2, bank), (17, 1, b2n (decide (x.nonfinite ≠ 0))),
    (16, 1, b2n (decide (x.sat ≠ 0))), (15, 1, b2n (decide (x.replay ≠ 0))), (14, 1, b2n (decide (x.inexact ≠ 0)))]

/-- Count a magnitude for `AMAXEXP`. -/
def Stats.seen (x : Stats) (v : Num) : Stats :=
  if v.isZero then x else { x with amaxexp := maxOpt x.amaxexp (some v.log2) }

end Sys2Proof.Machine
end

