-- ==== Sys2Proof/Machine/Queues.lean ====
section
/-! DEFINITION. Machine/Queues.lean: issue from an instruction queue and the control, scalar and scalar-memory
instructions (R163 to R192). An instruction issues when its queue is RUNNING, its word is in the queue's buffer and the
condition of R173 holds; otherwise its command changes nothing (log 5). -/

namespace Sys2Proof.Machine

/-! ### Registers and loops (R170, R171, R179, R180) -/

/-- A write to S0 is ignored (R170). -/
def setReg (r : Table (BitVec 64)) (i : Nat) (v : BitVec 64) : Table (BitVec 64) :=
  if i = 0 then r else Tbl.set 0 r i v

def getReg (r : Table (BitVec 64)) (i : Nat) : BitVec 64 := if i = 0 then 0 else Tbl.get 0 r i

def Queue.set (Q : Queue) (i : Nat) (v : BitVec 64) : Queue := { Q with sregs := setReg Q.sregs i v }

def Queue.lc (Q : Queue) (i : Nat) : BitVec 32 := Tbl.get 0 Q.lcs i

/-- Apply the increments of a level (R184); an amount is 32 bits, sign-extended. -/
def applyIncs (r : Table (BitVec 64)) : List (Nat × Nat) → Table (BitVec 64)
  | [] => r
  | (i, a) :: l => applyIncs (setReg r i (getReg r i + (BitVec.ofNat 32 a).signExtend 64)) l

/-- The choice of the next address after the instruction at `x` (R180): levels whose body ends there iterate or close. -/
def closeLoops (x next : Nat) : List LoopLevel → Table (BitVec 64) → Nat × List LoopLevel × Table (BitVec 64)
  | [], r => (next, [], r)
  | l :: ls, r =>
    if x = l.stop then
      let r := applyIncs r l.incs
      if 1 < l.left then (l.start, { l with left := l.left - 1, index := l.index + 1 } :: ls, r)
      else closeLoops x next ls r
    else (next, l :: ls, r)

/-- The queue chooses its next address as after an instruction at `x`. -/
def Queue.goOn (Q : Queue) (x : Nat) : Queue :=
  let r := closeLoops x ((x + 32) % 2 ^ 64) Q.loops Q.sregs
  { Q with pc := r.1, loops := r.2.1, sregs := r.2.2 }

/-- An instruction counts when it issues (R197). -/
def Queue.count (Q : Queue) : Queue := { Q with seq := (Q.seq + 1) % 2 ^ 64 }

/-- The body of a loop level has at most 64 instructions and holds the address (R190). -/
def LoopLevel.holds (l : LoopLevel) (a : Nat) : Bool :=
  decide (l.stop < l.start + 32 * 64) && decide (l.start ≤ a) && decide (a ≤ l.stop)

/-- The body of a loop level has more than 64 instructions: each iteration fetches it again (R190). -/
def LoopLevel.long (l : LoopLevel) : Bool := decide (l.start + 32 * 64 ≤ l.stop)

/-- Within a long body the word at `a` has served, as the instruction of `Q` issued and left the loops `after`: it was that
instruction, or it lies in a body of at most 64 whose loop has ended; its next use fetches it again (R190, log 30). -/
def Queue.served (Q : Queue) (after : List LoopLevel) (a : Nat) : Bool :=
  (decide (a = Q.pc) && Q.loops.any (·.long) && !Q.loops.any (·.holds a)) ||
  ((Q.loops.take (Q.loops.length - after.length)).any (·.holds a) && after.any (·.long) && !after.any (·.holds a))

/-- The instruction of `Q` has issued, and left the queue as `R`. -/
def Queue.issued (Q R : Queue) : Queue := { R.count with buffer := R.buffer.filter fun e => !Q.served R.loops e.1 }

/-- The instruction at the pc has issued, and the queue goes on. -/
def Queue.advance (Q : Queue) : Queue := Q.issued (Q.goOn Q.pc)

/-! ### Legal words (R168, R169) -/

def fieldMask : List (Nat × Nat) → Nat
  | [] => 0
  | (hi, lo) :: l => (2 ^ (hi + 1) - 2 ^ lo) ||| fieldMask l

/-- Fields of a synchronisation instruction (R168, R200); `n` where the count stands, `bar` for barriers. -/
def syncFields (f : Nat) (n bar : Bool) (waitOnly : Bool) : List (Nat × Nat) :=
  [(241, 240)] ++ (if waitOnly then [(242, 242)] else []) ++
  (if bit f 1 then [(234, 230)] else [(143, 128)]) ++ (if bit f 0 then [(154, 144)] else []) ++
  (if n then [(111, 96)] else []) ++ (if bar then [(229, 225), (103, 96)] else [])

/-- Fields that the opcode names under the setting of its `FLAGS`, beside `OPCODE`; none for an unknown opcode. -/
def insFields (w : Nat) (tandem : Bool) : Option (List (Nat × Nat)) :=
  let f := Ins.flags w
  let sb := if bit f 2 then [(229, 225)] else []
  let sc := if bit f 1 then [(224, 220)] else []
  let sd := if bit f 0 then [(239, 235)] else []
  let eng := if tandem then [(247, 247)] else []
  let half := if tandem then [(218, 218)] else []
  match Ins.op w with
  | 0x00 | 0x01 | 0x03 => some []
  | 0x02 => some ([(241, 240), (217, 216), (111, 96)] ++ (if bit f 1 then [(234, 230), (191, 160)] else []) ++
      (if bit f 0 then [(229, 225), (159, 128)] else []))
  | 0x04 => some [(218, 216), (234, 225), (127, 96)]
  | 0x05 => some [(239, 235), (217, 216)]
  | 0x06 => some [(217, 216), (234, 230), (191, 128)]
  | 0x07 => some [(239, 235), (217, 216)]
  | 0x10 => some [(239, 235), (191, 128)]
  | 0x11 | 0x12 | 0x13 | 0x14 | 0x15 | 0x16 | 0x17 | 0x18 | 0x19 | 0x1A | 0x1B | 0x1C | 0x1D | 0x1E =>
    some ([(240, 240), (239, 230)] ++ if bit f 0 then [(191, 128)] else [(229, 225)])
  | 0x20 => some [(239, 230), (191, 128)]
  | 0x21 => some [(234, 225), (191, 128)]
  | 0x22 => some [(239, 235), (219, 216)]
  | 0x40 => some ([(242, 240), (234, 230), (215, 192)] ++ sb ++ sc ++ sd)
  | 0x41 | 0x43 | 0x45 => some ([(217, 216), (215, 192)] ++ half)
  | 0x42 => some [(215, 192), (102, 96), (127, 112), (151, 128)]
  | 0x44 => some [(217, 216)]
  | 0x50 => some ([(242, 240), (215, 192)] ++ sb ++ sc ++ sd ++ eng)
  | 0x60 => some ([(242, 241), (215, 192)] ++ sb ++ sc ++ eng)
  | 0x70 | 0x71 | 0x72 => some (syncFields f true false false)
  | 0x73 | 0x74 | 0x75 => some (syncFields f false false false)
  | 0x76 => some (syncFields f false true true)
  | 0x77 => some (syncFields f false true false)
  | _ => none

/-- Values that a named field may not hold (R168, R169). -/
def insRange (w : Nat) : Bool :=
  match Ins.op w with
  | 0x04 => decide (Ins.sel w % 8 ≠ 7)
  | 0x22 => decide (Ins.sel w ≤ 5)
  | 0x42 => decide (1 ≤ bits w 102 96) && decide (bits w 102 96 ≤ 64)
  | _ => true

def insLegal (w : Nat) (tandem : Bool) : Bool :=
  match insFields w tandem with
  | none => false
  | some fs => decide (w &&& fieldMask ((255, 248) :: fs) = w) && insRange w

/-! ### Issue (R173) -/

/-- The word at the pc of a queue that may issue: RUNNING, not frozen by a recovery or a migration (R556, R577), no mode
change under way (R26), and the word in the buffer (R189). -/
def State.fetched (s : State) (q : Nat) : Option Nat :=
  let Q := s.queue q
  if Q.st = .running ∧ Q.frozen = false ∧ s.power.modeChange.isNone then
    (Q.buffer.find? fun e => decide (e.1 = Q.pc)).map (·.2)
  else none

def State.illegal (s : State) (q w : Nat) : State := s.faultIssue q w 0 0x01 (bits w 255 224)

/-- A queue that another queue's fault stopped in this very interval: where its next instruction, by `g`, faults too, it keeps its own
cause (R196, log 93); where it does not, it has not issued. -/
def State.sameInterval (s : State) (k : Nat) (g : State → Nat → State) : State :=
  let Q := s.queue k
  if Q.st = .faulted ∧ Q.fault.cause = 0x06 ∧ Q.cut = some (.running, s.clockUs) then
    let u := s.setQueue k { Q with st := .running, fault := {}, cut := none }
    match u.fetched k with
    | none => s
    | some w => if ((g u w).queue k).st = .faulted then g u w else s
  else s

/-- What the word at the pc of a queue does by `g`, where it may issue. -/
def State.issueAt (s : State) (k : Nat) (g : State → Nat → State) : State :=
  match s.fetched k with
  | some w => g s w
  | none => s.sameInterval k g

/-- Issue the instruction at the pc by `f` where its opcode is `op` and its word is legal; an illegal word faults. -/
def issueOp (op : Nat) (c : Core) (q : QIx) (f : State → Nat → Nat → State) (s : State) : State :=
  s.issueAt (qid c q) fun s w =>
    if Ins.op w ≠ op then s
    else if insLegal w (s.isTandem c.val) then f s (qid c q) w
    else s.illegal (qid c q) w

/-- A control or scalar instruction that only changes its queue. -/
def scalar (f : Queue → Nat → Queue) (s : State) (q w : Nat) : State := s.setQueue q (f (s.queue q) w).advance

/-- The second operand of scalar arithmetic. -/
def operandY (Q : Queue) (w : Nat) : BitVec 64 :=
  if bit (Ins.flags w) 0 then BitVec.ofNat 64 (Ins.imm w) else Q.reg (Ins.sb w)

/-- SD = SA op y. -/
def alu (op : BitVec 64 → BitVec 64 → BitVec 64) (Q : Queue) (w : Nat) : Queue :=
  Q.set (Ins.sd w) (op (Q.reg (Ins.sa w)) (operandY Q w))

def ofBool64 (b : Bool) : BitVec 64 := if b then 1 else 0

/-! ### Control instructions (R168, R179 to R188) -/

/-- A word with an unknown opcode is illegal (R169); `NOP` does nothing. -/
def execNop (c : Core) (q : QIx) : State → Res :=
  engines fun s => s.issueAt (qid c q) fun s w =>
    if (insFields w (s.isTandem c.val)).isNone then s.illegal (qid c q) w
    else issueOp 0x00 c q (scalar fun Q _ => Q) s

/-- `END` inside a loop body discards every level (R188). -/
def execEndQ (c : Core) (q : QIx) : State → Res :=
  engines (issueOp 0x01 c q fun s k _ => s.modQueue k fun Q => { Q.issued { Q with loops := [] } with st := .ending })

/-- The loop level that a `LOOP` at `a` enters. -/
def loopLevel (w a n : Nat) : LoopLevel :=
  let imm := Ins.imm w
  { start := (a + 32) % 2 ^ 64, stop := (a + 32 * bits w 111 96) % 2 ^ 64, left := n, index := 0,
    incs := (if bit (Ins.flags w) 1 then [(Ins.sa w, bits imm 63 32)] else []) ++
            (if bit (Ins.flags w) 0 then [(Ins.sb w, bits imm 31 0)] else []) }

def execLoop (c : Core) (q : QIx) : State → Res :=
  engines (issueOp 0x02 c q fun s k w =>
    let Q := s.queue k
    let n := (Q.lc (Ins.sel w % 4)).toNat
    let b := bits w 111 96
    if Q.loops.length = 4 then s.faultIssue k w 0 0x03 n
    else if b = 0 then s.faultIssue k w 0 0x04 0
    else if Q.loops.head?.any (fun l => decide (l.stop < Q.pc + 32 * b)) then s.faultIssue k w 0 0x04 1
    else if n = 0 then s.setQueue k (Q.issued (Q.goOn (Q.pc + 32 * b)))
    else s.setQueue k (Q.issued { Q with pc := (Q.pc + 32) % 2 ^ 64, loops := loopLevel w Q.pc n :: Q.loops }))

def execLbrk (c : Core) (q : QIx) : State → Res :=
  engines (issueOp 0x03 c q fun s k w =>
    let Q := s.queue k
    match Q.loops with
    | [] => s.faultIssue k w 0 0x04 3
    | l :: ls => s.setQueue k (Q.issued ({ Q with loops := ls }.goOn l.stop)))

/-- The condition of a branch. -/
def branchTaken (sel : Nat) (a b : BitVec 64) : Bool :=
  match sel with
  | 0 => true
  | 1 => a == b
  | 2 => a != b
  | 3 => a.slt b
  | 4 => !a.slt b
  | 5 => a.ult b
  | _ => !a.ult b

/-- Target of a branch: a signed count of instructions from the branch. -/
def branchTarget (pc w : Nat) : Nat := unsigned 64 ((pc : Int) + 32 * signed 32 (Ins.aux w))

def execBr (c : Core) (q : QIx) : State → Res :=
  engines (issueOp 0x04 c q fun s k w =>
    let Q := s.queue k
    if branchTaken (Ins.sel w % 8) (Q.reg (Ins.sa w)) (Q.reg (Ins.sb w)) then
      let t := branchTarget Q.pc w
      if Q.loops.head?.any (fun l => decide (t < l.start) || decide (l.stop < t)) then s.faultIssue k w 0 0x04 2
      else s.setQueue k (Q.issued { Q with pc := t })
    else s.setQueue k Q.advance)

def execLidx (c : Core) (q : QIx) : State → Res :=
  engines (issueOp 0x05 c q fun s k w =>
    let Q := s.queue k
    match Q.loops[Ins.sel w % 4]? with
    | none => s.faultIssue k w 0 0x04 4
    | some l => s.setQueue k (Q.set (Ins.sd w) (BitVec.ofNat 64 l.index)).advance)

def execLcw (c : Core) (q : QIx) : State → Res :=
  engines (issueOp 0x06 c q (scalar fun Q w =>
    { Q with lcs := Tbl.set 0 Q.lcs (Ins.sel w % 4) ((Q.reg (Ins.sa w) + BitVec.ofNat 64 (Ins.imm w)).truncate 32) }))

def execLcr (c : Core) (q : QIx) : State → Res :=
  engines (issueOp 0x07 c q (scalar fun Q w => Q.set (Ins.sd w) ((Q.lc (Ins.sel w % 4)).zeroExtend 64)))

/-! ### Scalar instructions (R168, R170) -/

def execMovi (c : Core) (q : QIx) : State → Res :=
  engines (issueOp 0x10 c q (scalar fun Q w => Q.set (Ins.sd w) (BitVec.ofNat 64 (Ins.imm w))))

def execAdd (c : Core) (q : QIx) : State → Res := engines (issueOp 0x11 c q (scalar (alu (· + ·))))
def execSub (c : Core) (q : QIx) : State → Res := engines (issueOp 0x12 c q (scalar (alu (· - ·))))
def execMul (c : Core) (q : QIx) : State → Res := engines (issueOp 0x13 c q (scalar (alu (· * ·))))
def execAnd (c : Core) (q : QIx) : State → Res := engines (issueOp 0x14 c q (scalar (alu (· &&& ·))))
def execOr (c : Core) (q : QIx) : State → Res := engines (issueOp 0x15 c q (scalar (alu (· ||| ·))))
def execXor (c : Core) (q : QIx) : State → Res := engines (issueOp 0x16 c q (scalar (alu (· ^^^ ·))))
def execShl (c : Core) (q : QIx) : State → Res :=
  engines (issueOp 0x17 c q (scalar (alu fun a y => a <<< (y.toNat % 64))))
def execShr (c : Core) (q : QIx) : State → Res :=
  engines (issueOp 0x18 c q (scalar (alu fun a y => a >>> (y.toNat % 64))))
def execSar (c : Core) (q : QIx) : State → Res :=
  engines (issueOp 0x19 c q (scalar (alu fun a y => a.sshiftRight (y.toNat % 64))))
def execMin (c : Core) (q : QIx) : State → Res :=
  engines (issueOp 0x1A c q (scalar (alu fun a y => if a.slt y then a else y)))
def execMax (c : Core) (q : QIx) : State → Res :=
  engines (issueOp 0x1B c q (scalar (alu fun a y => if a.slt y then y else a)))
def execSlt (c : Core) (q : QIx) : State → Res :=
  engines (issueOp 0x1C c q (scalar (alu fun a y => ofBool64 (a.slt y))))
def execSltu (c : Core) (q : QIx) : State → Res :=
  engines (issueOp 0x1D c q (scalar (alu fun a y => ofBool64 (a.ult y))))
def execSeq (c : Core) (q : QIx) : State → Res :=
  engines (issueOp 0x1E c q (scalar (alu fun a y => ofBool64 (a == y))))

/-- The mapping value that `GETID` selects (R172). -/
def State.getId (s : State) (q sel : Nat) : Nat :=
  let x := ((s.queue q).ctx).getD 0
  match sel with
  | 0 => q / 4
  | 1 => q % 4
  | 2 => s.fab.moduleId
  | 3 => b2n (s.isTandem (q / 4))
  | 4 => x
  | _ => (s.ctx x).part

def execGetid (c : Core) (q : QIx) : State → Res :=
  engines (issueOp 0x22 c q fun s k w =>
    scalar (fun Q w => Q.set (Ins.sd w) (BitVec.ofNat 64 (s.getId k (Ins.sel w)))) s k w)

/-! ### Scalar memory (R168, R173, R198 cause 0x05, R262) -/

/-- The queue has an ME or SE operation outstanding. -/
def State.engineBusy (s : State) (q : Nat) : Bool :=
  let k := q / 4 / 2 * 2
  let busy (c : Nat) : Bool :=
    (s.me c).ops.any (fun o => decide (o.qid = q)) || (s.se c).ops.any (fun o => decide (o.qid = q))
  busy k || busy (k + 1)

/-- Address of an `LD` or `ST`. -/
def scalarAddr (Q : Queue) (w : Nat) : Nat := (Q.reg (Ins.sa w) + BitVec.ofNat 64 (Ins.imm w)).toNat

/-- The eight bytes that an `LD` or `ST` reaches, or none where cause 0x05 applies. -/
def State.scalarKeys (s : State) (q a : Nat) : Option (List Nat) :=
  if a % 8 ≠ 0 then none else s.coreKeys (q / 4) a 8

def execLd (c : Core) (q : QIx) (ue : List Nat) : State → Res :=
  engines (issueOp 0x20 c q fun s k w =>
    let Q := s.queue k
    let a := scalarAddr Q w
    if s.engineBusy k then s
    else
      match s.scalarKeys k a with
      | none => s.faultIssue k w 0 0x05 (a % 2 ^ 32)
      | some keys =>
        match s.meetsBad ue keys with
        | some g => s.onDieError k Q.pc Q.seq w 0 g
        | none => s.setQueue k (Q.set (Ins.sd w) (BitVec.ofNat 64 (leNat (s.readKeys keys)))).advance)

/-- The bytes that `ST` writes count among those that a fault of the context leaves undefined (R9, log 85). -/
def execSt (c : Core) (q : QIx) : State → Res :=
  engines (issueOp 0x21 c q fun s k w =>
    let Q := s.queue k
    let a := scalarAddr Q w
    if s.engineBusy k then s
    else
      match s.scalarKeys k a with
      | none => s.faultIssue k w 0 0x05 (a % 2 ^ 32)
      | some keys =>
        (s.writeAt keys (leBytes 8 (Q.reg (Ins.sb w)).toNat)).setQueue k { Q.advance with dirty := Q.dirty ++ runs keys })

/-! ### Fetch (R164, R189) -/

/-- What a fetch at an address meets: the keys of its 32 bytes, or the `DETAIL` of a fetch fault. -/
def State.fetchKeys (s : State) (q a : Nat) : Nat ⊕ List Nat :=
  let p := (s.ctx ((s.queue q).ctx.getD 0)).part
  match a / 2 ^ 56 with
  | 0x00 => if s.ownsRange p a 32 then .inr (span a 32) else .inl 1
  | 0x01 =>
    match s.place a with
    | some (.clm k off) => if k = clusterOf (q / 4) ∧ off + 32 ≤ clmBytes then .inr (span a 32) else .inl 0
    | _ => .inl 0
  | _ => .inl 0

/-- Where the program goes on from `a` while no branch is taken, over buffered words: their addresses, and the address that
the buffer lacks, none where it holds all of the next 64 (R189). -/
def fetchPath (b : List (Nat × Nat)) : Nat → Nat → List LoopLevel → List Nat × Option Nat
  | 0, _, _ => ([], none)
  | n + 1, a, ls =>
    if b.any fun e => decide (e.1 = a) then
      let r := closeLoops a ((a + 32) % 2 ^ 64) ls []
      let p := fetchPath b n r.1 r.2.1
      (a :: p.1, p.2)
    else ([], some a)

/-- Put a word into the 64-instruction buffer. The oldest word gives way that the program neither comes to next nor holds in
the body of a loop of at most 64 instructions; where there is none, nothing is fetched (R189, R190). -/
def bufferPut (Q : Queue) (a w : Nat) : List (Nat × Nat) :=
  let path := (fetchPath Q.buffer 64 Q.pc Q.loops).1
  let spare (e : Nat × Nat) : Bool := !path.contains e.1 && !Q.loops.any (·.holds e.1)
  if Q.buffer.length < 64 then Q.buffer ++ [(a, w)]
  else if Q.buffer.any spare then dropFirst spare Q.buffer ++ [(a, w)]
  else Q.buffer

/-- The next instruction that the fetch unit fetches, in program order from the pc on (R189). -/
def Queue.fetchAt (Q : Queue) : Option Nat := (fetchPath Q.buffer 64 Q.pc Q.loops).2

/-- Fetch the next `n` instructions in program order. The fault of a case of R164 is the instruction's own: it is raised
where the pc of a RUNNING queue stands there; a word met earlier is left out of the buffer (log 30). A word of the shared
memory that is uncorrectable is a fetch fault too, beside the record and the strike that R565 asks for (log 30). -/
def State.fetchAhead (s : State) (q : Nat) (ue : List Nat) : Nat → State
  | 0 => s
  | n + 1 =>
    match (s.queue q).fetchAt with
    | none => s
    | some a =>
    let Q := s.queue q
    let here := decide (Q.st = .running) && decide (Q.pc = a)
    if !s.finds (dieOf (q / 4)) a then s else
    match s.fetchKeys q a with
    | .inl d => if here then s.faultIssue q 0 0 0x02 d else s
    | .inr keys =>
      match s.meetsBad ue keys with
      | some g =>
        if !here then s
        else if g < 2 ^ 56 then (s.moduleUe g).faultIssue q 0 0 0x02 2
        else ((s.markBad g).faultIssue q 0 0 0x02 2).onDieRecord (q / 4) 0 g
      | none => (s.setQueue q { Q with buffer := bufferPut Q a (leNat (s.readKeys keys)) }).fetchAhead q ue n

def execInstructionFetch (c : Core) (q : QIx) (addr n : Nat) (ue : List Nat) : State → Res :=
  engines fun s =>
    let Q := s.queue (qid c q)
    if (Q.st = .running ∨ Q.st = .waiting) ∧ Q.fetchAt = some addr then (s.corrected ue).fetchAhead (qid c q) ue (min n 64) else s

/-! ### End of a program, and the end of a wait (R192, R220) -/

/-- Something that the queue issued, of the sequence numbers that `old` admits, has not completed, or a transfer that it started has not
raised its bound completion. -/
def State.outstandingOf (s : State) (q : Nat) (old : Nat → Bool) : Bool :=
  let k := q / 4 / 2 * 2
  let mine (q' n : Nat) : Bool := decide (q' = q) && old n
  let at_ (c : Nat) : Bool :=
    (s.me c).ops.any (fun o => mine o.qid o.seq) || (s.se c).ops.any (fun o => mine o.qid o.seq) ||
    (s.de c).active.any (fun t => mine t.qid t.seq) || (s.de c).shadow.any (fun t => mine t.qid t.seq) ||
    (s.de c).waiting.any fun t => mine t.qid t.seq
  at_ k || at_ (k + 1) || s.sync.flight.any (fun o => mine o.qid o.seq && o.remote.isNone) ||
  s.sync.refusals.any (fun r => mine r.qid r.seq && decide (some r.ctx = (s.queue q).ctx)) ||
  s.fab.sessions.any fun x => (x.2.out ++ x.2.waitq).any fun o =>
    o.sig.any fun g => mine g.1 g.2.2 && decide (some o.ctx = (s.queue q).ctx)

/-- Everything the queue issued has completed, and every transfer it started has raised its bound completion (R192). -/
def State.queueDone (s : State) (q : Nat) : Bool := !s.outstandingOf q fun _ => true

def execQueueEnded (c : Core) (q : QIx) : State → Res :=
  engines fun s =>
    let k := qid c q
    if (s.queue k).st = .ending ∧ s.queueDone k then s.modQueue k fun Q => { Q with st := .ended } else s

/-- The notice of satisfaction reaches the queue: its causal count rises (R580), it has passed a synchronisation point
(R9), and it resumes issue; a suspended queue resumes when its context does. -/
def execWaitResume (c : Core) (q : QIx) : State → Res :=
  engines fun s =>
    let k := qid c q
    let Q := s.queue k
    match Q.notice with
    | none => s
    | some n =>
      let Q' := { Q with notice := none, wait := none, dirty := [], causal := (max Q.causal n + 1) % 2 ^ 32 }
      if Q.st = .waiting then
        (s.setQueue k { Q' with st := .running }).traceQueue k 2 0 ((Q.wait.map (·.op.obj)).getD 0)
      else if Q.st = .suspended ∧ Q.saved = .waiting then s.setQueue k { Q' with saved := .running }
      else s

end Sys2Proof.Machine
end

