-- ==== Sys2Proof/Machine/MatOps.lean ====
section
/-! DEFINITION. Machine/MatOps.lean: the matrix operation record, its operands, the array pass, replay and epilogue
(R48 to R51, R55, R61, R68 to R73, R86 to R93, R101, R120, R650). -/

namespace Sys2Proof.Machine

/-! ### Operation record (R88) -/
namespace MRec
def statsAddr (r : Nat) : Nat := bits r 487 464
def biasAddr (r : Nat) : Nat := bits r 463 440
def scaleAddr (r : Nat) : Nat := bits r 439 416
def tabAddr (r : Nat) : Nat := bits r 415 392
def bsAddr (r : Nat) : Nat := bits r 391 368
def asAddr (r : Nat) : Nat := bits r 367 344
def outStride (r : Nat) : Nat := bits r 343 320
def outAddr (r : Nat) : Nat := bits r 319 296
def bStride (r : Nat) : Nat := bits r 295 272
def bAddr (r : Nat) : Nat := bits r 271 248
def aStride (r : Nat) : Nat := bits r 247 224
def aAddr (r : Nat) : Nat := bits r 223 200
def k (r : Nat) : Nat := bits r 199 176
def tileId (r : Nat) : Nat := bits r 175 160
def clamp (r : Nat) : Nat := bits r 159 144
def scaleM (r : Nat) : Int := signed 16 (bits r 143 128)
def scaleE (r : Nat) : Int := signed 8 (bits r 127 120)
def outE (r : Nat) : Int := signed 8 (bits r 119 112)
def t (r : Nat) : Int := signed 10 (bits r 111 102)
/-- The headroom; the field value 0 selects 2 (R54). -/
def h (r : Nat) : Nat := if bits r 101 98 = 0 then 2 else bits r 101 98
def aFmt (r : Nat) : Nat := bits r 97 94
def bFmt (r : Nat) : Nat := bits r 93 90
def outFmt (r : Nat) : Nat := bits r 89 86
def act (r : Nat) : Nat := bits r 85 83
def actK (r : Nat) : Nat := bits r 82 79
def scaleSel (r : Nat) : Nat := bits r 78 77
def biasSel (r : Nat) : Nat := bits r 76 75
def mode (r : Nat) : Nat := bits r 74 73
def bank (r : Nat) : Nat := bits r 72 71
def shape (r : Nat) : Nat := bits r 70 70
def strict (r : Nat) : Bool := bit r 69
def statsEn (r : Nat) : Bool := bit r 68
def post (r : Nat) : Bool := bit r 67
def tSrc (r : Nat) : Bool := bit r 66
def int4 (r : Nat) : Nat := bits r 65 64
/-- `FRESH_OUT` and `ADD_OUT` (R95). -/
def isOut (r : Nat) : Bool := decide (mode r = 0) || decide (mode r = 3)
def isFresh (r : Nat) : Bool := decide (mode r ≤ 1)
end MRec

/-- A record with one field replaced. -/
def putField (r lo w v : Nat) : Nat := r - bits r (lo + w - 1) lo * 2 ^ lo + v % 2 ^ w * 2 ^ lo

/-! ### Formats (R88, R92) -/

/-- Element format of an operand code and whether it comes in MX blocks; none for INT4 and reserved codes. -/
def opFmt (code : Nat) : Option (ElFmt × Bool) :=
  match code with
  | 0x0 => some (.e4m3, false)
  | 0x1 => some (.e5m2, false)
  | 0x2 => some (.int8, false)
  | 0x3 => some (.bf16, false)
  | 0x4 => some (.fp16, false)
  | 0x5 => some (.e4m3, true)
  | 0x6 => some (.e5m2, true)
  | 0x7 => some (.e3m2, true)
  | 0x8 => some (.e2m3, true)
  | 0x9 => some (.e2m1, true)
  | 0xA => some (.mxint8, true)
  | _ => none

/-- Output formats; the report format is code 5. -/
def outFmtOf (code : Nat) : Option ElFmt :=
  match code with
  | 0 => some .bf16
  | 1 => some .fp16
  | 2 => some .e4m3
  | 3 => some .e5m2
  | 4 => some .int8
  | _ => none

/-- Bytes of an output element. -/
def outBytes (code : Nat) : Nat := match outFmtOf code with | some f => f.bytes | none => 16

/-- Operand codes of 16-bit formats. -/
def wide (code : Nat) : Bool := decide (code = 3) || decide (code = 4)

/-- A pair that R92 accepts. -/
def pairOk (a b int4 : Nat) : Bool :=
  decide (a ≤ 0xA) &&
  if b ≤ 0xA then decide (int4 = 0)
  else if b = 0xB then
    (!wide a && (decide (int4 = 1) || decide (int4 = 3))) || (decide (a ≤ 4) && decide (int4 = 2))
  else false

/-- A bfloat16 that is negative and not −0. R70 has a negative `CLAMP` fault and an infinite one follow R67; of minus
infinity, which is both, the model takes R67: this test does not hold of it (DESIGN CHOICE, log 113). -/
def negClamp (c : Nat) : Bool :=
  match ElFmt.bf16.decode c with
  | some x => x.neg && !x.isZero
  | none => false

/-- Format checks of a record (R70, R92); a hold mode reads no epilogue field (R105). -/
def MRec.formatOk (r : Nat) : Bool :=
  pairOk (aFmt r) (bFmt r) (int4 r) &&
  (!isOut r || (decide (outFmt r ≤ 5) && decide (act r ≠ 7) && decide (scaleSel r ≠ 3) && decide (biasSel r ≠ 3) &&
    !(decide (act r = 2) && decide (actK r = 0)) && !(decide (act r = 3) && negClamp (clamp r))))

/-! ### Ranges (R86, R87, R89) -/

def ceilDiv (a b : Nat) : Nat := (a + b - 1) / b

def MRec.blocks (r : Nat) : Nat := ceilDiv (k r) 32

/-- Bytes of a row of elements of an operand code. -/
def rowBytes (code k : Nat) : Nat :=
  match opFmt code with
  | some (f, true) => ceilDiv k 32 * (4 * f.blockBits)
  | some (f, false) => k * f.bytes
  | none => ceilDiv k 32 * 16

/-- Bytes of a row of an operand's companion. -/
def companionBytes (code k int4 : Nat) : Nat :=
  match opFmt code with
  | some (_, true) => ceilDiv k 32
  | some (_, false) => 0
  | none => ceilDiv k 32 * (if int4 = 3 then 2 else 1)

/-- Padded terms (R125), which the term limit counts (R58). -/
def MRec.padded (r : Nat) : Nat :=
  let blocky (c : Nat) : Bool := decide (5 ≤ c)
  if blocky (aFmt r) || blocky (bFmt r) then ceilDiv (k r) 32 * 32 else k r

/-- First row of A and of B of half `h` of a tile. -/
def MRec.aFirst (r h : Nat) : Nat := if shape r = 0 then 16 * h else 0
def MRec.bFirst (r h : Nat) : Nat := if shape r = 1 then 16 * h else 0

/-- Halves of a tile: one, or two in tandem (R118). -/
def State.halves (s : State) (c : Nat) : List Nat := if s.isTandem c then [0, 1] else [0]

/-- Rows and companions that half `h` reads, as (address, length). -/
def MRec.rowRanges (r h : Nat) : List (Nat × Nat) :=
  if k r = 0 then []
  else
    let side (code addr stride comp first : Nat) : List (Nat × Nat) :=
      (span first 16).flatMap fun i =>
        [(addr + i * stride, rowBytes code (k r)), (comp + i * companionBytes code (k r) (int4 r), companionBytes code (k r) (int4 r))]
    side (aFmt r) (aAddr r) (aStride r) (asAddr r) (aFirst r h) ++ side (bFmt r) (bAddr r) (bStride r) (bsAddr r) (bFirst r h)

/-- Keys of ranges of a core's scratchpad; none where one extends beyond it. -/
def State.spadKeys (s : State) (c : Nat) : List (Nat × Nat) → Option (List Nat)
  | [] => some []
  | (a, n) :: l =>
    if n = 0 then s.spadKeys c l
    else
      match s.coreKeys c (a % 2 ^ 24 + (if 2 ^ 24 ≤ a then 2 ^ 25 else 0)) n, s.spadKeys c l with
      | some ks, some ls => some (ks ++ ls)
      | _, _ => none

/-- Bytes of a core's scratchpad. -/
def State.spadRead (s : State) (c a n : Nat) : Bytes := s.readKeys ((span a n).map (s.spadByte c))

/-- Tables that half `h` of an INT4 operand names. -/
def State.tableRanges (s : State) (c r h : Nat) : List (Nat × Nat) :=
  let size := if MRec.int4 r = 2 then 32 else 16
  if MRec.bFmt r ≠ 0xB ∨ MRec.int4 r = 3 then []
  else
    (span (MRec.bFirst r h) 16).flatMap fun i =>
      (s.spadRead c (MRec.bsAddr r + i * MRec.blocks r) (MRec.blocks r)).map fun x => (MRec.tabAddr r + x.toNat * size, size)

/-- What half `h` reads for its terms. -/
def State.termRanges (s : State) (c r h : Nat) : List (Nat × Nat) := MRec.rowRanges r h ++ s.tableRanges c r h

def State.tileRows (s : State) (c r : Nat) : Nat := if s.isTandem c ∧ MRec.shape r = 0 then 32 else 16
def State.tileCols (s : State) (c r : Nat) : Nat := if s.isTandem c ∧ MRec.shape r = 1 then 32 else 16

/-- What the epilogue reads. -/
def State.epiReads (s : State) (c r : Nat) : List (Nat × Nat) :=
  if MRec.isOut r then
    [(MRec.biasAddr r, if MRec.biasSel r = 0 then 0 else 2 * s.tileCols c r),
     (MRec.scaleAddr r, if MRec.scaleSel r = 2 then 2 * s.tileCols c r else 0)]
  else []

/-- What an operation writes. -/
def State.mmaWrites (s : State) (c r : Nat) : List (Nat × Nat) :=
  if MRec.isOut r then
    ((List.range (s.tileRows c r)).map fun i => (MRec.outAddr r + i * MRec.outStride r, s.tileCols c r * outBytes (MRec.outFmt r))) ++
    (if MRec.statsEn r then [(MRec.statsAddr r, 32)] else [])
  else []

def State.mmaReads (s : State) (c r : Nat) : List (Nat × Nat) :=
  (s.halves c).flatMap (s.termRanges c r) ++ s.epiReads c r

/-- Address faults of R87 that the record alone shows. Which tables an INT4 operand names depends on bytes that an earlier
operation of the queue may still write (R175), so those ranges are judged as the pass starts. -/
def State.mmaRangesOk (s : State) (c r : Nat) : Bool :=
  (s.spadKeys c ((s.halves c).flatMap (MRec.rowRanges r))).isSome && (s.spadKeys c (s.epiReads c r)).isSome &&
  (s.spadKeys c (s.mmaWrites c r)).isSome && !(MRec.isOut r && MRec.statsEn r && decide (MRec.statsAddr r % 32 ≠ 0))

/-! ### Operand values (R45, R48 to R51, R55) -/

/-- A value with a block scale; a NaN scale makes it NaN. -/
def scaled (x : Val) (scale : Nat) : Val :=
  match x, e8m0 scale with
  | some v, some e => some (v.scale e)
  | _, _ => none

/-- Element `i` of a row in a format, with the row's companion. -/
def rowElem (f : ElFmt) (mx : Bool) (row comp : Bytes) (i : Nat) : Val :=
  let x := f.decode (packedAt row (if mx then f.blockBits else 8 * f.bytes) i)
  if mx then scaled x ((comp[i / 32]?).getD 0).toNat else x

/-- Element `i` of a row of INT4 codes (R51). -/
def State.int4Elem (s : State) (c r : Nat) (row comp : Bytes) (i : Nat) : Val :=
  let code := packedAt row 4 i
  if MRec.int4 r = 3 then
    let z := ((comp[i / 32 * 2]?).getD 0).toNat % 16
    scaled (some (Num.ofInt ((code : Int) - z) 0)) ((comp[i / 32 * 2 + 1]?).getD 0).toNat
  else
    let tab := ((comp[i / 32]?).getD 0).toNat
    if MRec.int4 r = 1 then ElFmt.e4m3.decode (leNat (s.spadRead c (MRec.tabAddr r + 16 * tab + code) 1))
    else ElFmt.bf16.decode (leNat (s.spadRead c (MRec.tabAddr r + 32 * tab + 2 * code) 2))

/-- The `K` values of row `i` of A. -/
def State.rowA (s : State) (c r i : Nat) : List Val :=
  let n := companionBytes (MRec.aFmt r) (MRec.k r) (MRec.int4 r)
  let row := s.spadRead c (MRec.aAddr r + i * MRec.aStride r) (rowBytes (MRec.aFmt r) (MRec.k r))
  let comp := s.spadRead c (MRec.asAddr r + i * n) n
  match opFmt (MRec.aFmt r) with
  | some (f, mx) => (List.range (MRec.k r)).map (rowElem f mx row comp)
  | none => []

/-- The `K` values of row `i` of B. -/
def State.rowB (s : State) (c r i : Nat) : List Val :=
  let n := companionBytes (MRec.bFmt r) (MRec.k r) (MRec.int4 r)
  let row := s.spadRead c (MRec.bAddr r + i * MRec.bStride r) (rowBytes (MRec.bFmt r) (MRec.k r))
  let comp := s.spadRead c (MRec.bsAddr r + i * n) n
  match opFmt (MRec.bFmt r) with
  | some (f, mx) => (List.range (MRec.k r)).map (rowElem f mx row comp)
  | none => (List.range (MRec.k r)).map (s.int4Elem c r row comp)

def mulVal (x y : Val) : Val :=
  match x, y with
  | some a, some b => some (a.mul b)
  | _, _ => none

/-! ### Array pass and replay -/

/-- All terms of an element, by `f`. -/
def sweep (f : Acc → Val → Acc) (ra rb : List Val) (a : Acc) : Acc :=
  (ra.zip rb).foldl (fun a p => f a (mulVal p.1 p.2)) a

/-- Apply the terms of one record to the 256 elements of half `h`; `sel` selects elements. -/
def State.passHalf (s : State) (c r h : Nat) (f : Acc → Val → Acc) (sel : Acc → Bool) (accs : List Acc) : List Acc :=
  let A := (span (MRec.aFirst r h) 16).map (s.rowA c r)
  let B := (span (MRec.bFirst r h) 16).map (s.rowB c r)
  ((List.range 256).zip accs).map fun x =>
    if sel x.2 then sweep f ((A[x.1 / 16]?).getD []) ((B[x.1 % 16]?).getD []) x.2 else x.2

/-- The operand bytes of a listed operation, as the hold rule sees them. -/
def State.operandBytes (s : State) (c r h : Nat) : Bytes :=
  s.readKeys ((s.spadKeys c (s.termRanges c r h)).getD [])

/-- Every listed operation still finds the operands that it read (R100). -/
def State.holdKept (s : State) (c h : Nat) (chain : List ChainOp) : Bool :=
  chain.all fun o => decide (s.operandBytes c o.rcd h = o.data)

/-- A replayed element of a bank whose program broke the hold rule: nothing of it is known (R100, log 13). -/
def Acc.undefined (a : Acc) (k : Nat) : Acc :=
  { sum := signed 128 (Config.freeNat k), maxexp := expOf (Config.freeNat (k + 1)), win := signed 16 (Config.freeNat (k + 2)),
    inexact := Config.freeNat (k + 3) % 2 ^ 30, ovf := Config.freeBool (k + 4), nonfinite := Config.freeBool (k + 5),
    replayed := a.replayed }

/-- Free values that a bank half may draw: eight for each element. -/
def bankDraws : Nat := 2048

/-- Replay of the elements of a bank that are due (R61, R101, R111). -/
def State.replayBank (s : State) (c h : Nat) (b : Bank) : Bank :=
  let free (i : Nat) : Nat := s.free + bankDraws * h + 8 * i
  let due := b.accs.map Acc.due
  let started := ((List.range 256).zip b.accs).map fun a => if a.2.due then a.2.startReplay b.h (free a.1 + 6) else a.2
  let marked := started.zip due
  let run (l : List (Acc × Bool)) (o : ChainOp) : List (Acc × Bool) :=
    let A := (span (MRec.aFirst o.rcd h) 16).map (s.rowA c o.rcd)
    let B := (span (MRec.bFirst o.rcd h) 16).map (s.rowB c o.rcd)
    ((List.range 256).zip l).map fun x =>
      if x.2.2 then (sweep Acc.reterm ((A[x.1 / 16]?).getD []) ((B[x.1 % 16]?).getD []) x.2.1, true) else x.2
  if !due.any id then b
  else if s.holdKept c h b.chain then { b with accs := (b.chain.foldl run marked).map (·.1) }
  else { b with accs := ((List.range 256).zip marked).map fun x => if x.2.2 then x.2.1.undefined (free x.1) else x.2.1 }

/-- k steps of a replay of a bank whose chain holds all terms, none if no element is due (R66). -/
def Bank.replaySteps (b : Bank) : Nat :=
  if b.accs.any Acc.due then (b.chain.map fun o => MRec.padded o.rcd).foldl (· + ·) 0 else 0

/-- k steps that rebuild a bank from its chain list, with the replay that it had had (R550, R562). -/
def Bank.rebuildSteps (b : Bank) : Nat :=
  (b.chain.map fun o => MRec.padded o.rcd).foldl (· + ·) 0 * (1 + b2n (b.accs.any (·.replayed)))

/-- A bank that holds nothing; its last ended agreement and the queue of its last `ACC_APPLY` stay known (R113, R114). -/
def Bank.freed (b : Bank) : Bank :=
  { ended := if b.agree.isSome then b.agree else b.ended, lastApply := b.lastApply }

/-- What a replay of a bank half reads again: the operands of its chain list, where an element is due. -/
def State.replayKeys (s : State) (c h : Nat) (b : Bank) : List Nat :=
  if b.accs.any Acc.due then b.chain.flatMap fun o => (s.spadKeys c (s.termRanges c o.rcd h)).getD [] else []

/-- The bank with the terms of one operation added, before a replay. -/
def State.passAdded (s : State) (c h : Nat) (o : MeOp) (b : Bank) : Bank :=
  let r := o.rcd
  let base : Bank :=
    if MRec.isFresh r then
      { b.freed with
        accs := List.replicate 256 (Acc.fresh (o.t - 62))
        h := MRec.h r
        win := o.t - 62 }
    else b
  let base := { base with ended := if b.st = .agreed then b.agree else base.ended, st := .busy }
  if MRec.k r = 0 then base
  else { base with
    accs := s.passHalf c r h Acc.term (fun _ => true) base.accs
    terms := base.terms + MRec.padded r
    chain := base.chain ++ [{ rcd := r, t := o.t, data := s.operandBytes c r h }] }

/-- The pass of an operation ends in a replay: an output mode of a bank that no agreement has replayed. -/
def MeOp.replays (o : MeOp) (b : Bank) : Bool := MRec.isOut o.rcd && decide (b.st ≠ .agreed)

/-- The bank after the pass of one operation, before it leaves BUSY. -/
def State.passBank (s : State) (c h : Nat) (o : MeOp) (b : Bank) : Bank :=
  if o.replays b then s.replayBank c h (s.passAdded c h o b) else s.passAdded c h o b

/-- k steps of the pass of an operation and of the replay that ends it, which repeats the operation's own terms too (R66,
R550, R633). -/
def State.passSteps (s : State) (c : Nat) (o : MeOp) : Nat :=
  MRec.padded o.rcd + ((s.halves c).map fun h =>
    let b := s.bank (c + h) (MRec.bank o.rcd)
    if o.replays b then (s.passAdded c h o b).replaySteps else 0).foldl max 0

/-- Everything that the pass of an operation reads, its replay with it (R273). -/
def State.passKeys (s : State) (c : Nat) (o : MeOp) : List Nat :=
  (s.spadKeys c (s.mmaReads c o.rcd)).getD [] ++ (s.halves c).flatMap fun h =>
    let b := s.bank (c + h) (MRec.bank o.rcd)
    if o.replays b then s.replayKeys c h (s.passAdded c h o b) else []

/-! ### Epilogue (R68 to R73, R650) -/

def sat126 (x : Int) : Int × Nat :=
  let m : Int := 2 ^ 126 - 1
  if x < -m then (-m, 1) else if m < x then (m, 1) else (x, 0)

/-- A value before the output scale: its integer and exponent, the value, saturations so far. -/
structure Activated where
  sig : Int
  exp : Int
  val : Num
  sat : Nat

/-- Activation codes 4 to 6 (R70). -/
def activateFn (f : Num → Num) (s e : Int) (sat : Nat) : Activated :=
  let c := ElFmt.bf16.convert (Num.ofInt s e)
  let x := (ElFmt.bf16.decode c.code).getD Num.zero
  let y := f x
  ⟨y.int, y.exp, y, sat + b2n c.sat⟩

/-- The activation step; none if the clamp value is NaN or infinite. -/
def activate (r : Nat) (s e : Int) (sat : Nat) : Option Activated :=
  let plain (s e : Int) (sat : Nat) : Option Activated := some ⟨s, e, Num.ofInt s e, sat⟩
  match MRec.act r with
  | 1 => plain (max s 0) e sat
  | 2 => if s < 0 then plain s (e - MRec.actK r) sat else plain s e sat
  | 3 =>
    match ElFmt.bf16.decode (MRec.clamp r) with
    | none => none
    | some c =>
      let cl := sat126 (rne c e)
      plain (min (max s 0) cl.1) e (sat + cl.2)
  | 4 => some (activateFn Fn.sigmoid s e sat)
  | 5 => some (activateFn Fn.tanh s e sat)
  | 6 => some (activateFn Fn.silu s e sat)
  | _ => plain s e sat

/-- Bytes of a finished value (R68, R71, R72, R650). -/
def outValue (r : Nat) (x : Activated) : Bytes × Nat :=
  match outFmtOf (MRec.outFmt r) with
  | some f =>
    let c := f.convert (x.val.scale (MRec.outE r))
    (leBytes f.bytes c.code, b2n c.sat)
  | none =>
    let y := if 4 ≤ MRec.act r then stripZeros (Nat.log2 x.sig.natAbs + 1) x.sig x.exp else (x.sig, x.exp)
    (reportBytes (some (y.1, y.2 + MRec.outE r)), 0)

/-- Canonical NaN of an output format (R67). -/
def outNan (r : Nat) : Bytes :=
  match outFmtOf (MRec.outFmt r) with
  | some f => leBytes f.bytes f.nan
  | none => reportBytes none

/-- What one element writes and counts. `SCALE_E` is added whatever `SCALE_SEL` holds (log 70), and an element that its
clamp makes NaN counts no saturation of its bias (log 92). -/
def finishElem (r : Nat) (scale : Int) (bias : Option Val) (a : Acc) : Bytes × Stats :=
  let base : Stats := { inexact := a.inexact, replay := b2n a.replayed, maxexp := a.maxexp }
  let nan : Bytes × Stats := (outNan r, { base with nonfinite := 1 })
  let e := a.win + MRec.scaleE r
  let go (s : Int) (sat : Nat) : Bytes × Stats :=
    match activate r s e sat with
    | none => nan
    | some x =>
      let o := outValue r x
      (o.1, { base.seen x.val with sat := x.sat + o.2 })
  if a.nonfinite then nan
  else
    match bias with
    | none => go (a.sum * scale) 0
    | some none => nan
    | some (some b) =>
      let c := sat126 (rne b e)
      go (a.sum * scale + c.1) c.2

/-- An operation with the bias values and column scales that its epilogue will use, read as its pass begins (log 112). -/
def State.epiLoad (s : State) (c : Nat) (o : MeOp) : MeOp :=
  { o with
    biases := if MRec.isOut o.rcd ∧ MRec.biasSel o.rcd ≠ 0 then s.spadRead c (MRec.biasAddr o.rcd) (2 * s.tileCols c o.rcd) else []
    scales := if MRec.isOut o.rcd ∧ MRec.scaleSel o.rcd = 2 then s.spadRead c (MRec.scaleAddr o.rcd) (2 * s.tileCols c o.rcd) else [] }

/-- Scale of column `j`. -/
def MeOp.columnScale (o : MeOp) (j : Nat) : Int :=
  match MRec.scaleSel o.rcd with
  | 0 => 1
  | 1 => MRec.scaleM o.rcd
  | _ => signed 16 (leNat (slice o.scales (2 * j) 2))

/-- Bias of column `j`, if a bias is present. -/
def MeOp.columnBias (o : MeOp) (j : Nat) : Option Val :=
  let v := leNat (slice o.biases (2 * j) 2)
  match MRec.biasSel o.rcd with
  | 0 => none
  | 1 => some (ElFmt.bf16.decode v)
  | _ => some (ElFmt.fp16.decode v)

/-- Output of an operation's tile: bytes with their scratchpad addresses, and the statistics. -/
def MeOp.finishTile (op : MeOp) : List (Nat × Bytes) × Stats :=
  let r := op.rcd
  let one (i : Nat) (a : Acc) : Nat × Bytes × Stats :=
    let h := i / 256
    let row := i % 256 / 16 + MRec.aFirst r h
    let col := i % 16 + MRec.bFirst r h
    let o := finishElem r (op.columnScale col) (op.columnBias col) a
    (MRec.outAddr r + row * MRec.outStride r + col * outBytes (MRec.outFmt r), o.1, o.2)
  let l := ((List.range op.tile.length).zip op.tile).map fun x => one x.1 x.2
  (l.map fun x => (x.1, x.2.1), l.foldl (fun st x => st.join x.2.2) {})

end Sys2Proof.Machine
end

