-- ==== Sys2Proof/Machine/Matrix.lean ====
section
/-! DEFINITION. Machine/Matrix.lean: the commands of the matrix engine (R86 to R123): acceptance, start, end of a pass,
completion, bank instructions and bank transfers. -/

namespace Sys2Proof.Machine

/-! ### Intake (R173, R174) -/

/-- The engine is in a recovery, and takes nothing (R556). -/
def State.recovering (s : State) (c : Nat) (u : EngUnit) : Bool :=
  s.rel.recoveries.any fun r => decide (r.core = c) && decide (r.unit = u)

/-- Operations that an ME, and an SE, hold for a queue. -/
def State.meCount (s : State) (c q : Nat) : Nat := ((s.me c).ops.filter fun o => decide (o.qid = q)).length
def State.seCount (s : State) (c q : Nat) : Nat := ((s.se c).ops.filter fun o => decide (o.qid = q)).length

/-- The other core of a pair. -/
def twin (c : Nat) : Nat := if c % 2 = 0 then c + 1 else c - 1

/-- An ME instruction of the queue may issue. -/
def State.meFree (s : State) (c q : Nat) : Bool :=
  decide (s.meCount c q < 2) && decide (s.seCount c q = 0) && decide (s.seCount (twin c) q = 0) && !s.recovering c .me

/-- Add to the record of what the queue wrote since its last synchronisation point; in a faulted context it is undefined at
once (R9). -/
def State.noteWrites (s : State) (q : Nat) (keys : List Nat) : State :=
  (s.modQueue q fun Q => { Q with dirty := Q.dirty ++ runs keys }).undefineLate q

/-- The register operands SA, SB, SC and SD as read at issue (R557). -/
def operandRegs (Q : Queue) (w : Nat) : List Nat :=
  [(Q.reg (Ins.sa w)).toNat, (Q.reg (Ins.sb w)).toNat, (Q.reg (Ins.sc w)).toNat, (Q.reg (Ins.sd w)).toNat]

/-! ### What an operation reads and writes -/

def MeOp.isMma (o : MeOp) : Bool := decide (Ins.op o.ins = 0x40)

/-- Ranges that an ME instruction reads and writes in the scratchpad. -/
def State.meReads (s : State) (c : Nat) (o : MeOp) : List (Nat × Nat) :=
  match Ins.op o.ins with
  | 0x40 => s.mmaReads c o.rcd
  | 0x42 => [(Ins.addr o.ins, 640 * bits o.ins 102 96)]
  | 0x43 => [(Ins.addr o.ins, 640)]
  | _ => []

def State.meWrites (s : State) (c : Nat) (o : MeOp) : List (Nat × Nat) :=
  match Ins.op o.ins with
  | 0x40 => s.mmaWrites c o.rcd
  | 0x41 => [(Ins.addr o.ins, 640)]
  | 0x42 => [(bits o.ins 151 128, 640)]
  | 0x45 => [(Ins.addr o.ins, 64 + 8192)]
  | _ => []

/-- Keys of those of the ranges that lie in the scratchpad: an index that an earlier operation has still to write may name any
table, and its own range is then the only one that counts (R175). -/
def State.meKeys (s : State) (c : Nat) (l : List (Nat × Nat)) : List Nat := l.flatMap fun r => (s.spadKeys c [r]).getD []

def meets (a b : List Nat) : Bool := a.any b.contains

/-- An operation whose pass is over and whose output is still to be written. -/
def MeOp.unwritten (o : MeOp) : Bool := decide (o.phase = .output) || decide (o.phase = .passed)

/-- An earlier operation of the same queue has still to write what this one reads, or what a bank instruction writes (R175);
what it reads itself, it read as its pass began (log 112). -/
def State.meBlocked (s : State) (c : Nat) (o : MeOp) : Bool :=
  (s.me c).ops.any fun p =>
    decide (p.qid = o.qid) && decide (p.seq < o.seq) && p.unwritten &&
    (meets (s.meKeys c (s.meReads c o)) (s.meKeys c (s.meWrites c p)) ||
      (!o.isMma && meets (s.meKeys c (s.meWrites c o)) (s.meKeys c (s.meWrites c p))))

/-- The core that holds the bank half that an instruction names. -/
def halfCore (c w : Nat) : Nat := c + bits w 218 218

/-- The bank that the operation acts on is BUSY, and the ME holds the operation (R95, R97, R109, R111, R123). -/
def State.meBusy (s : State) (c : Nat) (o : MeOp) : Bool :=
  let busy (k b : Nat) : Bool := decide ((s.bank k b).st = .busy)
  match Ins.op o.ins with
  | 0x40 => (s.halves c).any fun h => busy (c + h) (MRec.bank o.rcd)
  | 0x42 => false
  | 0x44 => (s.halves c).any fun h => busy (c + h) (Ins.sel o.ins % 4)
  | _ => busy (halfCore c o.ins) (Ins.sel o.ins % 4)

/-- The first held operation of the ME cannot start, and no pass runs that could change that. -/
def State.meStalled (s : State) (c : Nat) : Bool :=
  (s.me c).ops.all (fun o => decide (o.phase ≠ .running)) &&
  ((s.me c).ops.find? fun o => decide (o.phase = .held)).any fun o => s.meBlocked c o || s.meBusy c o

/-- No output is written before a tile-queue slot frees: a token is held, or restored ones stand behind the eight (R106). -/
def MeEng.full (e : MeEng) : Bool := e.ops.any (fun o => decide (o.phase = .tokenHeld)) || decide (8 < e.tokens.length)

/-- An operation that goes on only once an output that `stopped` holds up is written: it waits to write its own, or it is held behind
operations that do. -/
def State.behindOutput (s : State) (c : Nat) (stopped : Bool) (o : MeOp) : Bool :=
  stopped && (o.unwritten || (decide (o.phase = .held) && s.meStalled c))

/-- A full tile queue holds the operation up (R106): it holds its token, or it stands behind one that does. -/
def State.heldUp (s : State) (c : Nat) (o : MeOp) : Bool :=
  decide (o.phase = .tokenHeld) || s.behindOutput c (s.me c).full o

/-- Operations that engines have accepted have completed, but for held output and waits for tokens; every transfer has
raised its bound completion and every signal has landed; no round is past its roll call (R199, R257, R351). -/
def State.drained (s : State) (x : Nat) : Bool :=
  s.mes.all (fun e => e.2.ops.all (fun o => decide (o.ctx ≠ x) || s.heldUp e.1 o) &&
    e.2.xfers.all fun t => decide (t.ctx ≠ x)) &&
  s.ses.all (fun e => e.2.ops.all fun o => decide (o.ctx ≠ x) || decide (o.phase = .token) || decide (o.phase = .queued)) &&
  s.des.all (fun e => (e.2.active.all fun t => decide (t.ctx ≠ x)) && (e.2.shadow.all fun t => decide (t.ctx ≠ x)) &&
    e.2.waiting.all fun t => decide (t.ctx ≠ x)) &&
  s.bankFlight.all (fun t => decide (t.ctx ≠ x)) &&
  s.sync.flight.all (fun o => decide (o.ctx ≠ x) || o.remote.isSome) &&
  s.sync.bound.all (fun b => decide (b.ctx ≠ x))

def State.dropMe (s : State) (c q seq : Nat) : State :=
  s.modMe c fun e => { e with ops := e.ops.filter fun o => !(decide (o.qid = q) && decide (o.seq = seq)) }

def State.setMeOp (s : State) (c : Nat) (o : MeOp) : State :=
  s.modMe c fun e => { e with ops := e.ops.map fun p => if p.qid = o.qid ∧ p.seq = o.seq then o else p }

def State.meProgress (s : State) (c n : Nat) : State :=
  s.modMe c fun e => { e with progress := (e.progress + n) % 2 ^ 64 }

/-! ### Faults of an accepted operation -/

/-- `DETAIL` is 0: R126 gives its causes none (log 92). -/
def State.meFault (s : State) (c : Nat) (o : MeOp) (cause : Nat) : State :=
  (s.dropMe c o.qid o.seq).faultOp o.qid o.pc o.seq o.ins 1 cause 0

def State.meDieError (s : State) (c : Nat) (o : MeOp) (g : Nat) : State :=
  ((s.dropMe c o.qid o.seq).onDieError o.qid o.pc o.seq o.ins 1 g).discardAfter o.qid o.seq

/-! ### Silent-error sampling (R567, R569) -/

/-- Bytes that a checker's DE would copy: what the chain list reads, and the record copies. -/
def chainCopy (chain : List ChainOp) : Nat := (chain.map fun o => o.data.length + 64).foldl (· + ·) 0

/-- Count an eligible operation and decide whether it is sampled. -/
def State.sampleMe (s : State) (c : Nat) (banks : List Bank) : State × Bool :=
  if banks.any (·.gotTransfer) then (s, false)
  else
    let n := Tbl.get 0 s.rel.eligible c
    let s := { s with rel := { s.rel with eligible := Tbl.set 0 s.rel.eligible c ((n + 1) % 2 ^ 40) } }
    let l := s.rel.jayLog2
    if l = 0 ∨ lmix64 s.rel.jaySeed 0 c n % 2 ^ l ≠ 0 then (s, false)
    else if spadBytes < (banks.map fun b => chainCopy b.chain).foldl (· + ·) 0 then
      ({ s with rel := { s.rel with jaySkipped := (s.rel.jaySkipped + 1) % 2 ^ 64 } }, false)
    else (s, true)

/-- Clusters whose free spares may check an operation of context `x`, in rotation: other clusters of the partition, or the
only one (R569). -/
def State.checkers (s : State) (c x : Nat) : List Nat :=
  let p := (s.ctx x).part
  let own := clusterOf c
  let ks := (span s.rel.jayNext 32).map (· % 32) |>.filter fun k => s.hasCluster p k
  let ks := if ks.all (· = own) then ks else ks.filter (· ≠ own)
  let busy (k : Nat) : Bool := s.mes.any fun e => e.2.ops.any fun o => decide (o.phase = .checking) && decide (o.checker = k)
  ks.filter fun k => (s.spareOf k).isSome && !busy k

/-! ### Start (R95, R98, R99, R58) -/

/-- Cause with which a matrix operation finds its banks in a state that it may not (R95, R98, R58, R99); the order is the
model's where several hold (log 31). -/
def startCause (o : MeOp) (banks : List Bank) : Option Nat :=
  let r := o.rcd
  let allowed (b : Bank) : Bool :=
    if MRec.isFresh r then decide (b.st = .free)
    else decide (b.st = .opened) || (decide (MRec.mode r = 3) && decide (MRec.k r = 0) && decide (b.st = .agreed))
  let sameWindow (b : Bank) : Bool := MRec.isFresh r || (decide (b.win = o.t - 62) && decide (b.h = MRec.h r))
  let had (b : Bank) : Nat := if MRec.isFresh r then 0 else b.terms
  if !banks.all allowed then some 0x13
  else if !banks.all sameWindow then some 0x12
  else if MRec.k r ≠ 0 ∧ banks.any (fun b => decide (termLimit < had b + MRec.padded r)) then some 0x11
  else if MRec.k r ≠ 0 ∧ !MRec.isFresh r ∧ banks.any (fun b => decide (16 ≤ b.chain.length)) then some 0x16
  else none

/-- The array pass of a matrix operation begins: its sums stand in the BUSY bank. -/
def State.beginPass (s : State) (c : Nat) (ue : List Nat) (o : MeOp) : State :=
  let r := o.rcd
  let b := MRec.bank r
  let hs := s.halves c
  let banks := hs.map fun h => s.bank (c + h) b
  match (if (s.spadKeys c (s.mmaReads c r)).isNone then some 0x15 else startCause o banks) with
  | some cause => s.meFault c o cause
  | none =>
    match s.meetsBad ue (s.passKeys c o) with
    | some g => s.meDieError c o g
    | none =>
      let new := hs.map fun h => s.passBank c h o (s.bank (c + h) b)
      let t := (hs.zip new).foldl (fun t x => t.setBank (c + x.1) b x.2) { s with free := s.free + 2 * bankDraws }
      let steps := s.passSteps c o
      let smp := if MRec.isOut r then t.sampleMe c new else (t, false)
      ((smp.1.setMeOp c { s.epiLoad c o with phase := .running, sampled := smp.2 }).meProgress c steps).addWork (s.ctx o.ctx).part 2 (steps * hs.length)

/-! ### Bank instructions (R97, R109 to R111, R122) -/

/-- Summary record (before R109). In an unmerged one `AGREE_ID` means nothing, and the model writes 0 (log 92). -/
def summaryBytes (accs : List Acc) (contrib : Nat) (win : Int) (agree : Nat) (merged : Bool) : Bytes :=
  let each (lo w : Nat) (f : Acc → Nat) : List (Nat × Nat × Nat) :=
    ((List.range 256).zip accs).map fun x => (lo + w * x.1, w, f x.2)
  leBytes 640 (pack (each 1024 16 (fun a => expCode a.maxexp) ++ each 768 1 (fun a => b2n a.ovf) ++
    each 512 1 (fun a => b2n a.nonfinite) ++
    [(64, 32, contrib), (48, 16, unsigned 16 win), (32, 16, agree), (0, 1, b2n merged)]))

/-- The flags and maxima of a summary record, as accumulators. -/
def summaryAccs (w : Nat) : List Acc :=
  (List.range 256).map fun i =>
    { maxexp := expOf (bits w (1024 + 16 * i + 15) (1024 + 16 * i)), ovf := bit w (768 + i), nonfinite := bit w (512 + i) }

def summaryWin (w : Nat) : Int := signed 16 (bits w 63 48)

def mergeAcc (a b : Acc) : Acc :=
  { a with maxexp := maxOpt a.maxexp b.maxexp, ovf := a.ovf || b.ovf, nonfinite := a.nonfinite || b.nonfinite }

/-- Merge of summary records (R110). -/
def mergeSummaries (ws : List Nat) : List Acc × Nat :=
  (ws.foldl (fun l w => (l.zip (summaryAccs w)).map fun x => mergeAcc x.1 x.2) (List.replicate 256 {}),
   (ws.foldl (fun n w => n + bits w 95 64) 0) % 2 ^ 32)

/-- The agreed flags and maxima of an element (R111). -/
def applyAcc (a m : Acc) : Acc := { a with ovf := m.ovf, maxexp := m.maxexp, nonfinite := a.nonfinite || m.nonfinite }

/-- Debug copy of a bank; of a FREE bank it shows nothing (R122). -/
def readoutBytes (b : Bank) : Bytes :=
  let zero : Acc := {}
  b.header ++ (if b.st = .free then List.replicate 256 zero else b.accs).flatMap Acc.bytes

/-- The scratchpad takes bytes at an address. -/
def State.spadWrite (s : State) (c a : Nat) (bs : Bytes) : State :=
  s.writeAt ((span a bs.length).map (s.spadByte c)) bs

/-- Write for an operation, counted among its queue's writes. -/
def State.opWrite (s : State) (c q a : Nat) (bs : Bytes) : State :=
  (s.spadWrite c a bs).noteWrites q ((span a bs.length).map (s.spadByte c))

/-- The effect of a bank instruction whose checks passed at acceptance, on a bank that is not BUSY. The bank's state is checked before
the record is read (R111). -/
def State.bankOp (s : State) (c : Nat) (ue : List Nat) (o : MeOp) : State :=
  let w := o.ins
  let b := Ins.sel w % 4
  let hc := halfCore c w
  let B := s.bank hc b
  let a := Ins.addr w
  let bad := s.meetsBad ue (s.meKeys c (s.meReads c o))
  let done (s : State) : State := (s.dropMe c o.qid o.seq).traceQueue o.qid 4 0 (Ins.op w)
  match Ins.op w with
  | 0x41 =>
    if B.st ≠ .opened then s.meFault c o 0x13
    else done (s.opWrite c o.qid a (summaryBytes B.accs 1 B.win 0 false))
  | 0x42 =>
    match bad with
    | some g => s.meDieError c o g
    | none =>
      let ws := (List.range (bits w 102 96)).map fun j => leNat (s.spadRead c (a + 640 * j) 640)
      let win := summaryWin (ws.headD 0)
      if ws.any (fun x => decide (summaryWin x ≠ win)) then s.meFault c o 0x12
      else
        let m := mergeSummaries ws
        done (s.opWrite c o.qid (bits w 151 128) (summaryBytes m.1 m.2 win (bits w 127 112) true))
  | 0x43 =>
    if B.st ≠ .opened then s.meFault c o 0x13
    else
    match bad with
    | some g => s.meDieError c o g
    | none =>
      let m := leNat (s.spadRead c a 640)
      if bit m 0 = false ∨ summaryWin m ≠ B.win then s.meFault c o 0x17
      else
        let B1 := { B with accs := (B.accs.zip (summaryAccs m)).map fun x => applyAcc x.1 x.2 }
        match s.meetsBad ue (s.replayKeys c (hc - c) B1) with
        | some g => s.meDieError c o g
        | none =>
        let B2 := s.replayBank c (hc - c) B1
        let t := { s with free := s.free + 2 * bankDraws }.setBank hc b
          { B2 with st := .agreed, agree := some (bits m 47 32), lastApply := some (o.qid, o.pc, o.seq) }
        done ((t.meProgress c B1.replaySteps).addWork (s.ctx o.ctx).part 2 B1.replaySteps)
  | 0x44 => done ((s.halves c).foldl (fun s h => s.setBank (c + h) b (s.bank (c + h) b).freed) s)
  | _ =>
    if s.debugOpen (s.ctx o.ctx).part then done (s.opWrite c o.qid a (readoutBytes B))
    else s.meFault c o 0x18

/-- The first held operation starts where nothing runs, it waits for no write of its queue and its bank is not BUSY (R95, R174,
R175). -/
def State.startMe (s : State) (c : Nat) (ue : List Nat) : State :=
  let e := s.me c
  if e.ops.any (fun o => decide (o.phase = .running)) then s
  else
    match e.ops.find? fun o => decide (o.phase = .held) with
    | none => s
    | some o => if s.meBlocked c o || s.meBusy c o then s else if o.isMma then s.beginPass c ue o else s.bankOp c ue o

/-! ### Acceptance -/

/-- An ME instruction that passed its checks at issue: it is accepted, the queue goes on, and it starts if it can. -/
def State.acceptMe (s : State) (c k w rcd : Nat) (t : Int) (ue : List Nat) : State :=
  let Q := s.queue k
  let o : MeOp := { qid := k, ctx := Q.ctx.getD 0, pc := Q.pc, seq := Q.seq, ins := w, regs := operandRegs Q w, rcd := rcd, t := t, phase := .held }
  let s := s.traceQueue k 3 0 (Ins.op w)
  let s := s.setQueue k (s.queue k).advance
  (s.modMe c fun e => { e with ops := e.ops ++ [o] }).startMe c ue

/-- The record of an `MMA` with its substitutions (R168). -/
def mmaRecord (Q : Queue) (w raw : Nat) : Nat :=
  let f := Ins.flags w
  let r := if bit f 2 then putField raw 200 24 ((Q.reg (Ins.sb w)).toNat) else raw
  let r := if bit f 1 then putField r 248 24 ((Q.reg (Ins.sc w)).toNat) else r
  if bit f 0 then putField r 296 24 ((Q.reg (Ins.sd w)).toNat) else r

/-- The window top of an operation (R54, R90). -/
def mmaTop (Q : Queue) (w r : Nat) : Int := if MRec.tSrc r then signed 64 (Q.reg (Ins.sa w)).toNat else MRec.t r

/-- Issue of an `MMA` in the accumulation mode that the command names; a record that cannot be read has none. -/
def issueMma (mode : Nat) (c : Core) (q : QIx) (ue : List Nat) : State → State :=
  issueOp 0x40 c q fun s k w =>
    let Q := s.queue k
    let a := Ins.addr w
    if !s.meFree c.val k then s
    else
      match (if a % 64 = 0 then s.spadKeys c.val [(a, 64)] else none) with
      | none => s.faultIssue k w 1 0x15 0
      | some keys =>
        match s.meetsBad ue keys with
        | some g => s.onDieError k Q.pc Q.seq w 1 g
        | none =>
          let r := mmaRecord Q w (leNat (s.readKeys keys))
          let t := mmaTop Q w r
          if MRec.mode r ≠ mode then s
          else if !MRec.formatOk r then s.faultIssue k w 1 0x14 0
          else if t < -512 ∨ 511 < t then s.faultIssue k w 1 0x10 0
          else if !s.mmaRangesOk c.val r then s.faultIssue k w 1 0x15 0
          else s.acceptMe c.val k w r t ue

/-- Alignment and range of a bank instruction (R87, R109, R110, R122). Where several causes hold, these, which the instruction alone
shows, are the first: before the bank's state and before the debug level (DESIGN CHOICE, log 31). -/
def State.bankOpOk (s : State) (c w : Nat) : Bool :=
  let o : MeOp := { qid := 0, ctx := 0, pc := 0, seq := 0, ins := w, regs := [], rcd := 0, t := 0, phase := .held }
  (Ins.op w = 0x43 || Ins.op w = 0x44 || decide (Ins.addr w % 64 = 0)) && (Ins.op w ≠ 0x42 || decide (bits w 151 128 % 64 = 0)) &&
  (s.spadKeys c (s.meReads c o ++ s.meWrites c o)).isSome

def issueBank (op : Nat) (c : Core) (q : QIx) (ue : List Nat) : State → State :=
  issueOp op c q fun s k w =>
    if !s.meFree c.val k then s
    else if !s.bankOpOk c.val w then s.faultIssue k w 1 0x15 0
    else s.acceptMe c.val k w 0 0 ue

def execFreshOut (c : Core) (q : QIx) (ue : List Nat) : State → Res := engines (issueMma 0 c q ue)
def execFreshHold (c : Core) (q : QIx) (ue : List Nat) : State → Res := engines (issueMma 1 c q ue)
def execAddHold (c : Core) (q : QIx) (ue : List Nat) : State → Res := engines (issueMma 2 c q ue)
def execAddOut (c : Core) (q : QIx) (ue : List Nat) : State → Res := engines (issueMma 3 c q ue)
def execAccSummary (c : Core) (q : QIx) : State → Res := engines (issueBank 0x41 c q [])
def execAccAgree (c : Core) (q : QIx) (ue : List Nat) : State → Res := engines (issueBank 0x42 c q ue)
def execAccApply (c : Core) (q : QIx) (ue : List Nat) : State → Res := engines (issueBank 0x43 c q ue)
def execAccFree (c : Core) (q : QIx) : State → Res := engines (issueBank 0x44 c q [])
def execAccRead (c : Core) (q : QIx) : State → Res := engines (issueBank 0x45 c q [])
def execMeOpStart (c : Core) (ue : List Nat) : State → Res := engines fun s => s.startMe c.val ue

/-! ### End of a pass and completion (R96, R105 to R107) -/

/-- The running operation's pass ends: in a hold mode the bank is OPEN and the operation has completed; in an output mode
its sums wait for the output stage (R96). -/
def State.endPass (s : State) (c : Nat) : State :=
  match (s.me c).ops.find? fun o => decide (o.phase = .running) with
  | none => s
  | some o =>
    if MRec.isOut o.rcd then s.setMeOp c { o with phase := .passed }
    else
      let b := MRec.bank o.rcd
      let s := (s.halves c).foldl (fun s h => s.setBank (c + h) b { s.bank (c + h) b with st := .opened }) s
      (s.dropMe c o.qid o.seq).traceQueue o.qid 4 0 0x40

/-- Where the output stage is free, the sums of the first operation that waits for it enter it, and its bank is FREE (R96). -/
def State.enterStage (s : State) (c : Nat) : State :=
  if (s.me c).ops.any (fun p => decide (p.phase = .output)) then s
  else
    match (s.me c).ops.find? fun o => decide (o.phase = .passed) with
    | none => s
    | some o =>
      let b := MRec.bank o.rcd
      let hs := s.halves c
      let tile := hs.flatMap fun h => (s.bank (c + h) b).accs
      let s := hs.foldl (fun s h => s.setBank (c + h) b (s.bank (c + h) b).freed) s
      s.setMeOp c { o with phase := .output, tile := tile }

def execArrayPassEnd (c : Core) : State → Res := engines fun s => (s.endPass c.val).enterStage c.val

/-- Post a token where a slot is free, or hold it (R105, R106). -/
def State.postToken (s : State) (c : Nat) (o : MeOp) : State :=
  if (s.me c).tokens.length < 8 then
    ((s.modMe c fun e => { e with tokens := e.tokens ++ [{ token := o.token, ctx := o.ctx, taken := false }] }).dropMe c o.qid o.seq).traceQueue
      o.qid 4 0 (MRec.tileId o.rcd)
  else s.setMeOp c { o with phase := .tokenHeld }

/-- An operation whose output is written completes: with its token, or without one (R105, R107). -/
def State.finishMe (s : State) (c : Nat) (o : MeOp) : State :=
  if MRec.post o.rcd && !MRec.strict o.rcd then s.postToken c o
  else (s.dropMe c o.qid o.seq).traceQueue o.qid 4 0 (MRec.tileId o.rcd)

/-- The epilogue of the operation in the output stage writes; a sampled operation then waits for its check (R568). -/
def State.completeMe (s : State) (c : Nat) : State :=
  let e := s.me c
  if e.full || e.ops.any (fun o => decide (o.phase = .checking)) then s
  else
    match e.ops.find? fun o => decide (o.phase = .output) with
    | none => s
    | some o =>
      let r := o.rcd
      let w := o.finishTile
      let s := w.1.foldl (fun s x => s.spadWrite c x.1 x.2) s
      let s := if MRec.statsEn r then s.spadWrite c (MRec.statsAddr r) w.2.bytes else s
      let s := s.noteWrites o.qid (s.meKeys c (s.mmaWrites c r))
      let s := s.meProgress c o.tile.length
      let o := { o with tile := [], biases := [], scales := [], token := tileToken (MRec.tileId r) (MRec.outAddr r) (MRec.outFmt r) (MRec.bank r) w.2 }
      if o.sampled then
        match s.checkers c o.ctx with
        | k :: _ =>
          { s with rel := { s.rel with jayNext := (k + 1) % 32, jaySampled := (s.rel.jaySampled + 1) % 2 ^ 64 } }.setMeOp c
            { o with phase := .checking, checker := k }
        | [] => { s with rel := { s.rel with jaySkipped := (s.rel.jaySkipped + 1) % 2 ^ 64 } }.finishMe c o
      else s.finishMe c o

def execMeOpComplete (c : Core) : State → Res := engines fun s => (s.completeMe c.val).enterStage c.val

/-- A held token is posted once a slot is free (R106). -/
def State.postHeld (s : State) (c : Nat) : State :=
  match (s.me c).ops.find? fun o => decide (o.phase = .tokenHeld) with
  | some o => if (s.me c).tokens.length < 8 then s.postToken c o else s
  | none => s

/-- The same for every ME, after slots were freed or operations restored. -/
def State.postAllHeld (s : State) : State := s.mes.foldl (fun s e => s.postHeld e.1) s

/-! ### Bank transfers (R112 to R114) -/

/-- What the receiver does with a transfer: hold it, add it, or refuse it with a cause (R113, R114); where several cases
hold, the first that R114 lists (log 31). -/
def xferVerdict (B : Bank) (t : BankXfer) : Option (Option Nat) :=
  if B.st = .agreed then
    if B.agree ≠ some t.agree then some (some 0x17)
    else if (B.accs.zip t.accs).any (fun x => decide (x.1.win ≠ x.2.win)) then some (some 0x12)
    else if termLimit < B.terms + t.terms then some (some 0x11)
    else some none
  else if B.ended = some t.agree then some (some 0x13)
  else none

/-- Change the sending transfer of a bank transfer, wherever its DE holds it. -/
def State.modSender (s : State) (t : BankXfer) (f : DeXfer → DeXfer) : State :=
  let g (x : DeXfer) : DeXfer := if x.bankWait ∧ x.qid = t.qid ∧ x.seq = t.seq then f x else x
  s.modDe t.srcCore fun e => { e with active := e.active.map g, shadow := e.shadow.map g, waiting := e.waiting.map g }

/-- The receiver refuses: it charges the queue of the bank's last `ACC_APPLY` (R114), and the sending DE records cause
0x4A (R255). -/
def State.refuseXfer (s : State) (t : BankXfer) (cause : Nat) : State :=
  let B := s.bank (t.dstCore + t.dstHalf) t.dstBank
  let s := s.modSender t fun x => { x with bankWait := false, cause := 0x4A }
  match B.lastApply with
  | some (q, pc, seq) => s.faultLate q pc seq 0 1 cause 0
  | none => s

def addAcc (a b : Acc) : Acc :=
  { a with sum := a.sum + b.sum, maxexp := maxOpt a.maxexp b.maxexp, nonfinite := a.nonfinite || b.nonfinite,
           replayed := a.replayed || b.replayed, inexact := a.inexact + b.inexact }

def State.addXfer (s : State) (t : BankXfer) : State :=
  let k := t.dstCore + t.dstHalf
  let B := s.bank k t.dstBank
  (s.setBank k t.dstBank { B with
    accs := (B.accs.zip t.accs).map fun x => addAcc x.1 x.2
    terms := B.terms + t.terms
    gotTransfer := true }).modSender t fun x => { x with bankWait := false }

def execBankTransferArrive (i : Nat) : State → Res :=
  engines fun s =>
    match s.bankFlight[i]? with
    | none => s
    | some t =>
      if t.isExport then s
      else
        let s := { s with bankFlight := dropAt s.bankFlight i }
        match xferVerdict (s.bank (t.dstCore + t.dstHalf) t.dstBank) t with
        | some (some cause) => s.refuseXfer t cause
        | _ => s.modMe t.dstCore fun e => { e with xfers := e.xfers ++ [t] }

/-- Of the held transfers, the first that its bank's state decides is added or refused. -/
def execBankTransferAdd (c : Core) : State → Res :=
  engines fun s =>
    let decided (t : BankXfer) : Bool := (xferVerdict (s.bank (t.dstCore + t.dstHalf) t.dstBank) t).isSome
    match (s.me c.val).xfers.find? decided with
    | none => s
    | some t =>
      let v := xferVerdict (s.bank (t.dstCore + t.dstHalf) t.dstBank) t
      let s := s.modMe c.val fun e => { e with xfers := dropFirst decided e.xfers }
      match v with
      | some (some cause) => s.refuseXfer t cause
      | _ => s.addXfer t

end Sys2Proof.Machine
end

