-- ==== Sys2Proof/Machine/StreamOps.lean ====
section
/-! DEFINITION. Machine/StreamOps.lean: the stream operation record, its checks, chains, reductions and the weight update
(R127 to R144, R151 to R159). -/

namespace Sys2Proof.Machine

/-! ### Operation record (R128) -/
namespace SRec
def outAddr (r : Nat) : Nat := bits r 511 487
def in2Addr (r : Nat) : Nat := bits r 486 462
def in1Addr (r : Nat) : Nat := bits r 461 437
def in0Addr (r : Nat) : Nat := bits r 436 412
def outStride (r : Nat) : Nat := bits r 411 388
def in2Stride (r : Nat) : Nat := bits r 387 364
def in1Stride (r : Nat) : Nat := bits r 363 340
def in0Stride (r : Nat) : Nat := bits r 339 316
def n (r : Nat) : Nat := bits r 315 292
def rows (r : Nat) : Nat := bits r 291 276
def outFmt (r : Nat) : Nat := bits r 275 272
def in2Fmt (r : Nat) : Nat := bits r 271 268
def in1Fmt (r : Nat) : Nat := bits r 267 264
def in0Fmt (r : Nat) : Nat := bits r 263 260
def stage (r i : Nat) : Nat := bits r (187 + 24 * i) (164 + 24 * i)
def redAddr (r : Nat) : Nat := bits r 163 139
def statsAddr (r : Nat) : Nat := bits r 138 115
def paramAddr (r : Nat) : Nat := bits r 114 91
def tokAddr (r : Nat) : Nat := bits r 90 67
def redT (r : Nat) : Int := signed 10 (bits r 66 57)
def redH (r : Nat) : Nat := if bits r 56 53 = 0 then 2 else bits r 56 53
def red (r : Nat) : Nat := bits r 52 50
def redAxis (r : Nat) : Bool := bit r 49
def outE (r : Nat) : Int := signed 8 (bits r 48 41)
def work (r : Nat) : ElFmt := if bit r 40 then .fp16 else .bf16
def tq (r : Nat) : Bool := bit r 39
def tokEn (r : Nat) : Bool := bit r 38
def statsEn (r : Nat) : Bool := bit r 37
def update (r : Nat) : Bool := bit r 36
end SRec

/-- Stage field (R133). -/
def stOp (st : Nat) : Nat := bits st 23 18
def stSrc (st : Nat) : Nat := bits st 17 16
def stImm (st : Nat) : Nat := bits st 15 0

/-- The stages that are not `NOP`, in order. -/
def SRec.stages (r : Nat) : List Nat := ((List.range 4).map (stage r)).filter fun st => decide (stOp st ≠ 0)

/-- A stage operation that exists (R134). -/
def stageKnown (op : Nat) : Bool :=
  decide (op ≤ 0x0A) || (decide (0x10 ≤ op) && decide (op ≤ 0x13)) || (decide (0x20 ≤ op) && decide (op ≤ 0x27))

/-- A stage operation that reads operand b (R130). -/
def stageReadsB (op : Nat) : Bool := (decide (1 ≤ op) && decide (op ≤ 7)) || (decide (0x10 ≤ op) && decide (op ≤ 0x12))

/-! ### Streams (R129 to R131) -/

/-- A stream of an operation: address, stride, elements per row, format code. -/
structure Stream where
  addr : Nat
  stride : Nat
  cnt : Nat
  fmt : Nat

/-- Element formats of a stream; code 6 is a reduction entry. -/
def streamFmt (code : Nat) : Option ElFmt := if code ≤ 4 then outFmtOf code else none

def streamSize (code : Nat) : Nat := match streamFmt code with | some f => f.bytes | none => 32

/-- IN1 is read at (r, j), and not only at (r, 0). -/
def SRec.fullIn1 (r : Nat) : Bool :=
  update r || (stages r).any fun st => (stageReadsB (stOp st) && decide (stSrc st = 0)) || decide (stOp st = 0x13)

def SRec.usesIn1 (r : Nat) : Bool :=
  update r || (stages r).any fun st =>
    (stageReadsB (stOp st) && (decide (stSrc st = 0) || decide (stSrc st = 2))) || decide (stOp st = 0x13)

def SRec.usesIn2 (r : Nat) : Bool :=
  (stages r).any fun st =>
    (stageReadsB (stOp st) && decide (stSrc st = 1)) || decide (stOp st = 0x05) || decide (stOp st = 0x13)

def SRec.in0 (r : Nat) : Stream := ⟨in0Addr r, in0Stride r, n r, in0Fmt r⟩
def SRec.in1 (r : Nat) : Stream := ⟨in1Addr r, in1Stride r, if fullIn1 r then n r else min 1 (n r), in1Fmt r⟩
def SRec.in2 (r : Nat) : Stream := ⟨in2Addr r, in2Stride r, n r, in2Fmt r⟩
def SRec.out (r : Nat) : Stream := ⟨outAddr r, outStride r, n r, outFmt r⟩

/-- Keys of `n` bytes at offset `off` of the scratchpad, or of the cluster's memory (R129). -/
def State.viewKeys (s : State) (c : Nat) (clm : Bool) (off n : Nat) : Option (List Nat) :=
  if n = 0 then some []
  else if 2 ^ 24 ≤ off then none
  else s.coreKeys c (off + if clm then 2 ^ 24 else 0) n

/-- Keys of row `i` of a stream. -/
def State.rowKeys (s : State) (c : Nat) (x : Stream) (i : Nat) : Option (List Nat) :=
  s.viewKeys c (bit x.addr 24) (x.addr % 2 ^ 24 + i * x.stride) (x.cnt * streamSize x.fmt)

/-- Keys of a whole stream of `rows` rows. -/
def State.streamKeys (s : State) (c rows : Nat) (x : Stream) : Option (List Nat) :=
  (List.range rows).foldr (fun i l => match s.rowKeys c x i, l with | some k, some l => some (k ++ l) | _, _ => none) (some [])

/-- First byte and length of the range that a stream spans. -/
def Stream.hull (x : Stream) (rows : Nat) : Nat × Nat :=
  if rows = 0 ∨ x.cnt = 0 then (x.addr, 0) else (x.addr, (rows - 1) * x.stride + x.cnt * streamSize x.fmt)

/-- Two streams coincide element by element. -/
def Stream.same (x y : Stream) : Bool :=
  decide (x.addr = y.addr) && decide (x.stride = y.stride) && decide (streamSize x.fmt = streamSize y.fmt)

/-- The output overlaps an input that it does not replace in place (R131). -/
def overlapFault (out inp : Stream) (rows : Nat) : Bool := overlaps (out.hull rows) (inp.hull rows) && !out.same inp

/-! ### Parameter block of a weight update (R152) -/
namespace PRec
def seed (p : Nat) : Nat := bits p 511 448
def step (p : Nat) : Nat := bits p 447 384
def firstIndex (p : Nat) : Nat := bits p 383 344
def wTid (p : Nat) : Nat := bits p 343 320
def mTid (p : Nat) : Nat := bits p 319 296
def vTid (p : Nat) : Nat := bits p 295 272
def lr (p : Nat) : Val := ElFmt.bf16.decode (bits p 271 256)
def b1 (p : Nat) : Val := ElFmt.bf16.decode (bits p 255 240)
def a1 (p : Nat) : Val := ElFmt.bf16.decode (bits p 239 224)
def b2 (p : Nat) : Val := ElFmt.bf16.decode (bits p 223 208)
def a2 (p : Nat) : Val := ElFmt.bf16.decode (bits p 207 192)
def eps (p : Nat) : Val := ElFmt.bf16.decode (bits p 191 176)
def wd (p : Nat) : Val := ElFmt.bf16.decode (bits p 175 160)
def gE (p : Nat) : Int := signed 8 (bits p 159 152)
def kind (p : Nat) : Nat := bits p 151 149
def sr (p : Nat) : Bool := bit p 148
def tapW (p : Nat) : Int := signed 10 (bits p 147 138)
def tapG (p : Nat) : Int := signed 10 (bits p 137 128)
def tapU (p : Nat) : Int := signed 10 (bits p 127 118)
def tapH (p : Nat) : Nat := if bits p 117 114 = 0 then 2 else bits p 117 114
def tapEnW (p : Nat) : Bool := bit p 113
def tapEnG (p : Nat) : Bool := bit p 112
def tapEnU (p : Nat) : Bool := bit p 111
def mOut (p : Nat) : Nat := bits p 110 86
def vAddr (p : Nat) : Nat := bits p 85 61
def vOut (p : Nat) : Nat := bits p 60 36
end PRec

/-- Second moment, and the moment outputs, as streams with `IN2_FMT` and `IN2_STRIDE` (R151). -/
def momentStream (r addr : Nat) : Stream := ⟨addr, SRec.in2Stride r, SRec.n r, SRec.in2Fmt r⟩

/-- Input streams of an operation. -/
def seInputs (r p : Nat) : List Stream :=
  if SRec.update r then
    [SRec.in0 r, SRec.in1 r] ++ (if PRec.kind p = 0 then [] else [SRec.in2 r]) ++
    (if PRec.kind p = 2 then [momentStream r (PRec.vAddr p)] else [])
  else
    [SRec.in0 r] ++ (if SRec.usesIn1 r then [SRec.in1 r] else []) ++ (if SRec.usesIn2 r then [SRec.in2 r] else [])

/-- Output streams of an operation. -/
def seOutputs (r p : Nat) : List Stream :=
  if SRec.update r then
    [SRec.out r] ++ (if PRec.kind p = 0 then [] else [momentStream r (PRec.mOut p)]) ++
    (if PRec.kind p = 2 then [momentStream r (PRec.vOut p)] else [])
  else if SRec.outFmt r = 0xF then [] else [SRec.out r]

/-! ### Checks (R130, R131, R134, R139, R143, R155, R162) -/

/-- Results of a reduction: how many, and their size. -/
def SRec.results (r : Nat) : Nat := if redAxis r then 1 else rows r
def SRec.resultSize (r : Nat) : Nat := if red r = 1 ∨ red r = 2 ∨ red r = 6 then 32 else 2

/-- Result ranges at `RED_ADDR`, as (offset, length). -/
def redSlots (r p : Nat) : List (Nat × Nat) :=
  if SRec.update r then
    [(0, if PRec.tapEnW p then 32 else 0), (32, if PRec.tapEnG p then 32 else 0), (64, if PRec.tapEnU p then 32 else 0)]
  else if SRec.red r = 0 then []
  else [(0, SRec.results r * SRec.resultSize r)]

/-- Keys of an auxiliary range; none if misaligned or beyond its memory. -/
def State.auxKeys (s : State) (c addr n align : Nat) : Option (List Nat) :=
  if n = 0 then some [] else if addr % align ≠ 0 then none else s.viewKeys c (bit addr 24) (addr % 2 ^ 24) n

/-- Auxiliary ranges of an operation: statistics, parameters, token copy, results (R131, R162). -/
def State.auxOk (s : State) (c r p : Nat) : Bool :=
  (!SRec.statsEn r || (s.auxKeys c (SRec.statsAddr r) 32 32).isSome) &&
  (!SRec.update r || (s.auxKeys c (SRec.paramAddr r) 64 64).isSome) &&
  (!(SRec.tq r && SRec.tokEn r) || (s.auxKeys c (SRec.tokAddr r) 8 8).isSome) &&
  ((redSlots r p).all fun x => x.2 = 0 || (SRec.redAddr r % 32 = 0 && (s.viewKeys c (bit (SRec.redAddr r) 24) (SRec.redAddr r % 2 ^ 24 + x.1) x.2).isSome))

def inFmtOk (code : Nat) : Bool := decide (code ≤ 4) || decide (code = 6)

def isHalf (code : Nat) : Bool := decide (code ≤ 1)

/-- Format faults (R130, R143). `tok` says that IN0 is known. -/
def seFormatOk (r p : Nat) (tok : Bool) : Bool :=
  let ins := if tok then seInputs r p else (seInputs r p).drop 1
  (ins.all fun x => inFmtOk x.fmt) && (decide (SRec.outFmt r ≤ 4) || decide (SRec.outFmt r = 0xF)) &&
  !(decide (SRec.red r = 6) && ((tok && decide (SRec.in0Fmt r ≠ 6)) || decide (SRec.outFmt r ≠ 0xF)))

/-- Chain faults (R134, R139, R143). -/
def seChainOk (r : Nat) : Bool :=
  ((SRec.stages r).all fun st => stageKnown (stOp st)) && decide (SRec.red r ≠ 7) &&
  !(decide (SRec.red r = 6) && !(SRec.stages r).isEmpty)

/-- Update parameter faults (R155); a moment output may overlap its own old moment alone. `tok` says that IN0 is known. -/
def seUpdateOk (r p : Nat) (tok : Bool) : Bool :=
  let n := SRec.rows r
  let both := (if tok then [SRec.in0 r] else []) ++ [SRec.in1 r]
  let v := momentStream r (PRec.vAddr p)
  let clear (out : Nat) (l : List Stream) : Bool := l.all fun x => !overlaps ((momentStream r out).hull n) (x.hull n)
  isHalf (SRec.outFmt r) && (!tok || isHalf (SRec.in0Fmt r)) && isHalf (SRec.in2Fmt r) && decide (PRec.kind p ≤ 2) &&
  (PRec.kind p = 0 || clear (PRec.mOut p) (both ++ if PRec.kind p = 2 then [v] else [])) &&
  (PRec.kind p ≠ 2 || clear (PRec.vOut p) (both ++ [SRec.in2 r]))

/-- The cause with which an operation faults before it reads or writes anything, in the order checked (log 31). -/
def State.seCause (s : State) (c r p : Nat) (tok : Bool) : Option Nat :=
  let ins := if tok then seInputs r p else (seInputs r p).drop 1
  let n := SRec.rows r
  if !SRec.update r ∧ !seChainOk r then some 0x24
  else if SRec.update r ∧ !(s.auxKeys c (SRec.paramAddr r) 64 64).isSome then some 0x22
  else if SRec.update r ∧ !seUpdateOk r p tok then some 0x27
  else if SRec.update r ∧ !inFmtOk (SRec.in1Fmt r) then some 0x21
  else if !SRec.update r ∧ !seFormatOk r p tok then some 0x21
  else if !SRec.update r ∧ SRec.red r ≠ 0 ∧ SRec.redAxis r ∧ termLimit < n * SRec.n r then some 0x25
  else if !((ins ++ seOutputs r p).all fun x => (s.streamKeys c n x).isSome) ∨ !s.auxOk c r p then some 0x22
  else if (SRec.update r ∨ SRec.outFmt r ≠ 0xF) ∧ ins.any (fun x => overlapFault (SRec.out r) x n) then some 0x23
  else none

/-! ### Reading streams -/

/-- Bytes of row `i` of a stream. -/
def State.streamRow (s : State) (c : Nat) (x : Stream) (i : Nat) : Bytes := s.readKeys ((s.rowKeys c x i).getD [])

def entryAt (bs : Bytes) (j : Nat) : RedEntry := RedEntry.parse (slice bs (32 * j) 32)

/-- Value of element `j` of a row. -/
def elemAt (fmt : Nat) (bs : Bytes) (j : Nat) : Val :=
  match streamFmt fmt with
  | some f => f.decode (packedAt bs (8 * f.bytes) j)
  | none => (entryAt bs j).value

/-- The rows of a stream as values. -/
def State.streamVals (s : State) (c rows : Nat) (x : Stream) : List (List Val) :=
  (List.range rows).map fun i =>
    let bs := s.streamRow c x i
    (List.range x.cnt).map (elemAt x.fmt bs)

/-- Some entry of a stream is unresolved. -/
def State.unresolved (s : State) (c rows : Nat) (x : Stream) : Bool :=
  decide (x.fmt = 6) && (List.range rows).any fun i =>
    let bs := s.streamRow c x i
    (List.range x.cnt).any fun j => (entryAt bs j).acc.ovf

def nth {α : Type} (d : α) (l : List α) (i : Nat) : α := (l[i]?).getD d
def cell (m : List (List Val)) (i j : Nat) : Val := nth none (nth [] m i) j

/-! ### Chains (R133 to R137) -/

/-- A transcendental stage on a finite argument (R136 to R138); `mx` is the largest value of its destination. -/
def transStage (op : Nat) (wf : ElFmt) (mx : Num) (a : Num) : Val × Nat :=
  let x := if a.isZero then a else wf.round a
  let ok (v : Num) : Val × Nat := (some v, 0)
  match op with
  | 0x20 => ok (Fn.exp2 x)
  | 0x21 => ok (Fn.expe x)
  | 0x22 => if x.isZero then (some mx.negate, 1) else if x.neg then (none, 0) else ok (Fn.log2 x)
  | 0x23 => if x.isZero then (some { mx with neg := x.neg }, 1) else ok (Fn.rcp x)
  | 0x24 => if x.isZero then (some mx, 1) else if x.neg then (none, 0) else ok (Fn.rsqrt x)
  | 0x25 => ok (Fn.sigmoid x)
  | 0x26 => ok (Fn.tanh x)
  | _ => ok (Fn.silu x)

def ofBool (b : Bool) : Num := if b then Num.ofInt 1 0 else Num.zero

/-- A simple stage with two operands (R134). -/
def binaryStage (op : Nat) (a b : Num) : Num :=
  match op with
  | 0x01 => a.add b
  | 0x02 => a.sub b
  | 0x03 => b.sub a
  | 0x04 => a.mul b
  | 0x06 => if a.isZero && b.isZero then { a with neg := a.neg || b.neg } else if a.lt b then a else b
  | 0x07 => if a.isZero && b.isZero then { a with neg := a.neg && b.neg } else if a.lt b then b else a
  | 0x10 => ofBool (a.lt b)
  | 0x11 => ofBool (a.le b)
  | _ => ofBool (a.eq b)

/-- Operands of an element beside a: IN1 (r, j), IN2 (r, j), IN1 (r, 0). -/
structure Operands where
  in1 : Val
  in2 : Val
  row : Val

/-- Operand b of a stage (R133). -/
def Operands.b (o : Operands) (wf : ElFmt) (st : Nat) : Val :=
  match stSrc st with
  | 0 => o.in1
  | 1 => o.in2
  | 2 => o.row
  | _ => wf.decode (stImm st)

/-- One stage, exact (R134, R137); the number counts saturations. -/
def stageValue (st : Nat) (wf : ElFmt) (mx : Num) (o : Operands) (a : Num) : Val × Nat :=
  let op := stOp st
  if 0x20 ≤ op then transStage op wf mx a
  else if op = 0x13 then (if a.isZero then o.in2 else o.in1, 0)
  else if op = 0x08 then (some a.abs, 0)
  else if op = 0x09 then (some a.negate, 0)
  else if op = 0x0A then (some (if !a.isZero && !a.neg then a else Num.zero), 0)
  else
    match o.b wf st with
    | none => (none, 0)
    | some b =>
      if op = 0x05 then
        match o.in2 with
        | none => (none, 0)
        | some c => (some ((a.mul b).add c), 0)
      else (some (binaryStage op a b), 0)

/-- The chain from a value on: each result but the last is converted to the working format (R135). -/
def runChain (wf dest : ElFmt) (o : Operands) : List Nat → Val → Nat → Val × Nat
  | [], a, n => (a, n)
  | _, none, n => (none, n)
  | [st], some a, n =>
    let r := stageValue st wf dest.maxVal o a
    (r.1, n + r.2)
  | st :: sts, some a, n =>
    let r := stageValue st wf wf.maxVal o a
    match r.1 with
    | none => (none, n + r.2)
    | some v =>
      let c := wf.convert v
      runChain wf dest o sts (wf.decode c.code) (n + r.2 + b2n c.sat)

/-! ### Reductions (R139 to R143) -/

/-- An entry whose terms have been added: replayed if a term overflowed (R140), sum 0 if one was not finite (R67). -/
def closeEntry (ts : List Val) (h : Nat) (a : Acc) : RedEntry :=
  if a.nonfinite then { acc := { a with sum := 0, ovf := false }, terms := ts.length }
  else if a.ovf then
    let b := ts.foldl Acc.reterm (a.startReplay h 0)
    { acc := { b with ovf := false }, terms := ts.length }
  else { acc := a, terms := ts.length }

/-- A sum reduction over terms on window top `t` (R140, R142). -/
def sumReduce (t : Int) (h : Nat) (ts : List Val) : RedEntry := closeEntry ts h (ts.foldl Acc.term (Acc.fresh (t - 62)))

def squareVal (v : Val) : Val := v.map fun x => x.mul x

/-- `RMAX`, `RMIN` and `RMAXABS`, as a code of the working format (R139, R142). -/
def extreme (mode : Nat) (wf : ElFmt) (vs : List Val) : Nat :=
  let xs := vs.filterMap id
  let mx := wf.maxVal
  if vs.any Option.isNone then wf.nan
  else
    match mode with
    | 3 => (wf.convert (xs.foldl (fun a x => if a.lt x then x else a) (xs.headD mx.negate))).code
    | 4 => (wf.convert (xs.foldl (fun a x => if x.lt a then x else a) (xs.headD mx))).code
    | _ => (wf.convert (xs.foldl (fun a x => if a.lt x.abs then x.abs else a) Num.zero)).code

/-- Merged entry (R143). -/
def mergeEntries (t : Int) (es : List RedEntry) : RedEntry :=
  let terms := (es.map (·.terms)).foldl (· + ·) 0
  let m := (es.map (·.acc.maxexp)).foldl maxOpt none
  let base : Acc := { maxexp := m, win := t - 62 }
  let win := (es.map (·.acc.win)).headD (t - 62)
  if es.any (·.acc.nonfinite) then { acc := { base with nonfinite := true }, terms := terms }
  else if es.all fun e => decide (e.acc.win = win) && !e.acc.ovf then
    { acc := { base with
        win := win
        sum := (es.map (·.acc.sum)).foldl (· + ·) 0
        inexact := (es.map (·.acc.inexact)).foldl (· + ·) 0 }
      terms := terms }
  else { acc := { base with ovf := true }, terms := terms }

/-- Groups of a reduction: one per row, or one for the operation. -/
def groups {α : Type} (axis : Bool) (rows : List (List α)) : List (List α) := if axis then [rows.flatten] else rows

/-! ### What an operation does -/

/-- The outcome of an operation: bytes by address, statistics, elements read and written, free values drawn; or a cause. -/
structure SeDone where
  writes : List (List Nat × Bytes) := []
  stats : Stats := {}
  elems : Nat := 0
  drawn : Nat := 0

/-- Elements that an operation reads and writes (R550). -/
def streamElems (r p : Nat) : Nat := ((seInputs r p ++ seOutputs r p).map fun x => SRec.rows r * x.cnt).foldl (· + ·) 0

def addStats (x : Stats) (e : RedEntry) : Stats :=
  { x with inexact := x.inexact + e.acc.inexact, replay := x.replay + b2n e.acc.replayed, maxexp := maxOpt x.maxexp e.acc.maxexp }

/-- An element of a chain operation. -/
structure ElemOut where
  v : Val
  sat : Nat

/-- All elements of a chain operation. -/
def State.chainElems (s : State) (c r : Nat) : List (List ElemOut) :=
  let rows := SRec.rows r
  let wf := SRec.work r
  let dest := (streamFmt (SRec.outFmt r)).getD wf
  let a0 := s.streamVals c rows (SRec.in0 r)
  let a1 := if SRec.usesIn1 r then s.streamVals c rows (SRec.in1 r) else []
  let a2 := if SRec.usesIn2 r then s.streamVals c rows (SRec.in2 r) else []
  (List.range rows).map fun i => (List.range (SRec.n r)).map fun j =>
    let x := runChain wf dest ⟨cell a1 i j, cell a2 i j, cell a1 i 0⟩ (SRec.stages r) (cell a0 i j) 0
    ⟨x.1, x.2⟩

/-- A chain selects an element that is unresolved: `u1` and `u2` say so of IN1 (r, j) and IN2 (r, j). -/
def selectsOpen (wf : ElFmt) (o : Operands) (u1 u2 : Bool) : List Nat → Val → Bool
  | [], _ => false
  | _, none => false
  | st :: sts, some a =>
    (decide (stOp st = 0x13) && (if a.isZero then u2 else u1)) ||
      selectsOpen wf o u1 u2 sts ((stageValue st wf wf.maxVal o a).1.map wf.round)

/-- IN1 as an operand b: whole rows, or their first element (R133). -/
def SRec.in1AsB (r : Nat) : List Stream :=
  let reads (k : Nat) : Bool := (stages r).any fun st => stageReadsB (stOp st) && decide (stSrc st = k)
  if reads 0 then [in1 r] else if reads 2 then [{ in1 r with cnt := min 1 (n r) }] else []

/-- IN2 as an operand b or c. -/
def SRec.in2AsB (r : Nat) : List Stream :=
  if (stages r).any fun st => (stageReadsB (stOp st) && decide (stSrc st = 1)) || decide (stOp st = 0x05) then [in2 r] else []

/-- An unresolved entry is used as a value: as a, b or c, or as the element that a `SELECT` takes (R137, R141). -/
def State.usesOpen (s : State) (c r : Nat) : Bool :=
  let rows := SRec.rows r
  let flag (x : Stream) (i j : Nat) : Bool := decide (x.fmt = 6) && (entryAt (s.streamRow c x i) j).acc.ovf
  let picks : Bool := (SRec.stages r).any fun st => decide (stOp st = 0x13)
  let a0 := s.streamVals c rows (SRec.in0 r)
  let a1 := if SRec.usesIn1 r then s.streamVals c rows (SRec.in1 r) else []
  let a2 := if SRec.usesIn2 r then s.streamVals c rows (SRec.in2 r) else []
  (([SRec.in0 r] ++ SRec.in1AsB r ++ SRec.in2AsB r).any (s.unresolved c rows)) ||
  (picks && (decide (SRec.in1Fmt r = 6) || decide (SRec.in2Fmt r = 6)) && (List.range rows).any fun i => (List.range (SRec.n r)).any fun j =>
    selectsOpen (SRec.work r) ⟨cell a1 i j, cell a2 i j, cell a1 i 0⟩ (flag (SRec.in1 r) i j) (flag (SRec.in2 r) i j)
      (SRec.stages r) (cell a0 i j))

/-- A written element: its code and saturation. -/
def outElem (r : Nat) (f : ElFmt) (v : Val) : Conv := f.convertVal (v.map fun x => x.scale (SRec.outE r))

/-- The result bytes of an ordinary reduction, and what they add to the statistics. -/
def reduceBytes (r : Nat) (vals : List (List Val)) (x : Stats) : Bytes × Stats :=
  let gs := groups (SRec.redAxis r) vals
  match SRec.red r with
  | 0 => ([], x)
  | 1 =>
    let es := gs.map (sumReduce (SRec.redT r) (SRec.redH r))
    (es.flatMap RedEntry.bytes, es.foldl addStats x)
  | 2 =>
    let es := gs.map fun g => sumReduce (SRec.redT r) (SRec.redH r) (g.map squareVal)
    (es.flatMap RedEntry.bytes, es.foldl addStats x)
  | m => (gs.flatMap fun g => leBytes 2 (extreme m (SRec.work r) g), x)

/-- Keys of the result slots. -/
def State.redKeys (s : State) (c r off n : Nat) : List Nat :=
  (s.viewKeys c (bit (SRec.redAddr r) 24) (SRec.redAddr r % 2 ^ 24 + off) n).getD []

/-- A chain operation with its reduction (R135, R139, R159), or the cause of its fault. -/
def State.doChain (s : State) (c r : Nat) : Nat ⊕ SeDone :=
  let rows := SRec.rows r
  if s.usesOpen c r then .inl 0x26
  else
    let es := s.chainElems c r
    let wf := SRec.work r
    let flat := es.flatten
    let nan := (flat.filter fun e => e.v.isNone).length
    let base : Stats := { nonfinite := nan, sat := (flat.map (·.sat)).foldl (· + ·) 0 }
    let base := flat.foldl (fun x e => match e.v with | some v => x.seen v | none => x) base
    match streamFmt (SRec.outFmt r) with
    | some f =>
      let cs := es.map fun row => row.map fun e => outElem r f e.v
      let base := { base with sat := base.sat + (cs.flatten.filter (·.sat)).length }
      let outs := ((List.range rows).zip cs).map fun x =>
        ((s.rowKeys c (SRec.out r) x.1).getD [], x.2.flatMap fun e => leBytes f.bytes e.code)
      -- a NaN element is NaN for a reduction, though INT8 has no code for it (R67, R142)
      let seen (e : ElemOut × Conv) : Val := if e.1.v.isNone then none else f.decode e.2.code
      let red := reduceBytes r ((es.zip cs).map fun row => (row.1.zip row.2).map seen) base
      .inr { writes := outs ++ [(s.redKeys c r 0 red.1.length, red.1)], stats := red.2, elems := streamElems r 0 }
    | none =>
      let red := reduceBytes r (es.map fun row => row.map fun e => e.v.map wf.round) base
      .inr { writes := [(s.redKeys c r 0 red.1.length, red.1)], stats := red.2, elems := streamElems r 0 }

/-- `MERGE` (R143), or the cause of its fault. Its statistics hold `MAXEXP` alone: it writes no element and places no term
(log 86). -/
def State.doMerge (s : State) (c r : Nat) : Nat ⊕ SeDone :=
  let rows := (List.range (SRec.rows r)).map fun i =>
    let bs := s.streamRow c (SRec.in0 r) i
    (List.range (SRec.n r)).map (entryAt bs)
  let es := (groups (SRec.redAxis r) rows).map (mergeEntries (SRec.redT r))
  if es.any fun e => decide (termLimit < e.terms) then .inl 0x25
  else
    let bs := es.flatMap RedEntry.bytes
    .inr { writes := [(s.redKeys c r 0 bs.length, bs)]
           stats := { maxexp := (es.map (·.acc.maxexp)).foldl maxOpt none }
           elems := streamElems r 0 }

/-! ### Weight update (R153 to R158) -/

/-- store() of R153. -/
def storeVal (p : Nat) (f : ElFmt) (tid idx : Nat) (x : Num) : Conv :=
  if PRec.sr p then f.stochastic x (lmix64 (PRec.seed p) (PRec.step p) tid idx % 2 ^ 16) else f.convert x

/-- What the update makes of one element. -/
structure Updated where
  w1 : Nat
  m1 : Nat
  v1 : Nat
  sat : Nat := 0
  skipped : Bool := false
  /-- New weight before rounding. -/
  raw : Val := none
  /-- Squares for the taps: weight, gradient, update. -/
  sqW : Val := none
  sqG : Val := none
  sqU : Val := none

/-- No parameter is NaN or infinite, whether the kind uses it or not (R154). -/
def paramsOk (p : Nat) : Bool :=
  [PRec.lr p, PRec.wd p, PRec.b1 p, PRec.a1 p, PRec.b2 p, PRec.a2 p, PRec.eps p].all Option.isSome

def num0 (v : Val) : Num := v.getD Num.zero

/-- The step u from w, the moment or gradient term `x` and `lr`, `wd` (R153). -/
def stepOf (p : Nat) (x w : Num) : Num := ((num0 (PRec.lr p)).mul (x.add ((num0 (PRec.wd p)).mul w))).negate

/-- Finish an element from its new weight. -/
def finishUpdate (fo : ElFmt) (w g : Num) (raw : Val) (w1 m1 v1 sat : Nat) : Updated :=
  let n := fo.decode w1
  { w1 := w1, m1 := m1, v1 := v1, sat := sat, raw := raw, sqW := squareVal n, sqG := squareVal (some g),
    sqU := squareVal (n.map fun x => x.sub w) }

/-- One element (R153, R154). Where R138 gives no reciprocal square root, the new weight is a free value (log 13). The old w of a
skipped element cannot stand unchanged in an `OUT_FMT` other than `IN0_FMT`: the model converts it, a NaN or infinity to the
canonical NaN, and counts no saturation (DESIGN CHOICE, log 115). -/
def updateElem (r p idx k : Nat) (wc : Nat) (g : Val) (mc vc : Nat) : Updated :=
  let fi := (streamFmt (SRec.in0Fmt r)).getD .bf16
  let fo := (streamFmt (SRec.outFmt r)).getD .bf16
  let fm := (streamFmt (SRec.in2Fmt r)).getD .bf16
  let kind := PRec.kind p
  match fi.decode wc, g, (if kind = 0 then some Num.zero else fm.decode mc), (if kind = 2 then fm.decode vc else some Num.zero) with
  | some w, some g0, some m, some v =>
    if !paramsOk p then { w1 := if fi = fo then wc else (fo.convert w).code, m1 := mc, v1 := vc, skipped := true }
    else
      let g := g0.scale (PRec.gE p)
      let mNew := ((num0 (PRec.b1 p)).mul m).add ((num0 (PRec.a1 p)).mul g)
      let cm := storeVal p fm (PRec.mTid p) idx mNew
      let vNew := ((num0 (PRec.b2 p)).mul v).add (((num0 (PRec.a2 p)).mul g).mul g)
      let cv := storeVal p fm (PRec.vTid p) idx vNew
      let m1 := num0 (fm.decode cm.code)
      let v1 := num0 (fm.decode cv.code)
      let go (x : Num) (mc vc sat : Nat) : Updated :=
        let raw := w.add (stepOf p x w)
        let cw := storeVal p fo (PRec.wTid p) idx raw
        finishUpdate fo w g (some raw) cw.code mc vc (sat + b2n cw.sat)
      match kind with
      | 0 => go g mc vc 0
      | 1 => go m1 cm.code vc (b2n cm.sat)
      | _ =>
        let d := (SRec.work r).round (v1.add (num0 (PRec.eps p)))
        if d.isZero || d.neg then finishUpdate fo w g none (Config.freeNat k % 2 ^ 16) cm.code cv.code (b2n cm.sat + b2n cv.sat)
        else go (m1.mul (Fn.rsqrt d)) cm.code cv.code (b2n cm.sat + b2n cv.sat)
  | w, _, _, _ => { w1 := if fi = fo then wc else (fo.convertVal w).code, m1 := mc, v1 := vc, skipped := true }

/-- A tap (R156, R158); `fixed` says that it cannot be replayed. -/
def tapEntry (t : Int) (h : Nat) (fixed : Bool) (ts : List Val) : RedEntry :=
  let a := ts.foldl Acc.term (Acc.fresh (t - 62))
  if fixed && a.ovf && !a.nonfinite then { acc := { a with sum := 0, inexact := 0 }, terms := ts.length } else closeEntry ts h a

/-- A weight update (R151 to R159). `AMAXEXP` is that of the new weights before store() rounds them, and `RED` and `RED_AXIS`
have no effect (log 86). -/
def State.doUpdate (s : State) (c r p : Nat) : Nat ⊕ SeDone :=
  let rows := SRec.rows r
  let n := SRec.n r
  let code (x : Stream) (bs : Bytes) (j : Nat) : Nat := packedAt bs (8 * streamSize x.fmt) j
  let v := momentStream r (PRec.vAddr p)
  if s.unresolved c rows (SRec.in1 r) then .inl 0x26
  else
    let es := (List.range rows).map fun i =>
      let w0 := s.streamRow c (SRec.in0 r) i
      let g0 := s.streamRow c (SRec.in1 r) i
      let m0 := if PRec.kind p = 0 then [] else s.streamRow c (SRec.in2 r) i
      let v0 := if PRec.kind p = 2 then s.streamRow c v i else []
      (List.range n).map fun j =>
        updateElem r p ((PRec.firstIndex p + i * n + j) % 2 ^ 40) (s.free + i * n + j)
          (code (SRec.in0 r) w0 j) (elemAt (SRec.in1Fmt r) g0 j) (code (SRec.in2 r) m0 j) (code v v0 j)
    let flat := es.flatten
    let kept := flat.filter fun e => !e.skipped
    let tw := tapEntry (PRec.tapW p) (PRec.tapH p) false (kept.map (·.sqW))
    let tg := tapEntry (PRec.tapG p) (PRec.tapH p) false (kept.map (·.sqG))
    let tu := tapEntry (PRec.tapU p) (PRec.tapH p) (decide (SRec.outAddr r = SRec.in0Addr r)) (kept.map (·.sqU))
    let taps := [(0, PRec.tapEnW p, tw), (32, PRec.tapEnG p, tg), (64, PRec.tapEnU p, tu)].filter fun x => x.2.1
    let st : Stats := { nonfinite := (flat.filter (·.skipped)).length, sat := (flat.map (·.sat)).foldl (· + ·) 0 }
    let st := kept.foldl (fun x e => match e.raw with | some v => x.seen v | none => x) st
    let st := taps.foldl (fun x t => addStats x t.2.2) st
    let outs (x : Stream) (f : Updated → Nat) : List (List Nat × Bytes) :=
      ((List.range rows).zip es).map fun y => ((s.rowKeys c x y.1).getD [], y.2.flatMap fun e => leBytes 2 (f e))
    .inr { writes := outs (SRec.out r) (·.w1) ++ (if PRec.kind p = 0 then [] else outs (momentStream r (PRec.mOut p)) (·.m1)) ++
             (if PRec.kind p = 2 then outs (momentStream r (PRec.vOut p)) (·.v1) else []) ++
             taps.map (fun t => (s.redKeys c r t.1 32, t.2.2.bytes))
           stats := st
           elems := streamElems r p
           drawn := rows * n }

/-- The operation that a record asks for. -/
def State.doStream (s : State) (c r p : Nat) : Nat ⊕ SeDone :=
  if SRec.update r then s.doUpdate c r p else if SRec.red r = 6 then s.doMerge c r else s.doChain c r

end Sys2Proof.Machine
end

