-- ==== Sys2Proof/Machine/StreamEngine.lean ====
section
/-! DEFINITION. Machine/StreamEngine.lean: the commands of the stream engine (R128, R143, R145 to R150, R153, R159). -/

namespace Sys2Proof.Machine

/-- Core whose engine an SE or DE instruction names (R117, R167). -/
def engineCore (c w : Nat) : Nat := c + Ins.eng w

/-- An SE instruction of the queue may issue to the engine of core `e` (R173, R174). -/
def State.seFree (s : State) (c e q : Nat) : Bool :=
  decide (s.meCount c q = 0) && decide (s.seCount (twin e) q = 0) && decide (s.seCount e q < 2) && !s.recovering e .se

def State.dropSe (s : State) (e q seq : Nat) : State :=
  s.modSe e fun x => { x with ops := x.ops.filter fun o => !(decide (o.qid = q) && decide (o.seq = seq)) }

def State.setSeOp (s : State) (e : Nat) (o : SeOp) : State :=
  s.modSe e fun x => { x with ops := x.ops.map fun p => if p.qid = o.qid ∧ p.seq = o.seq then o else p }

/-- A fault of an accepted operation: it writes nothing and takes no token (R162). -/
def State.seFault (s : State) (e : Nat) (o : SeOp) (cause : Nat) : State :=
  (s.dropSe e o.qid o.seq).faultOp o.qid o.pc o.seq o.ins 2 cause 0

def State.seDieError (s : State) (e : Nat) (o : SeOp) (g : Nat) : State :=
  ((s.dropSe e o.qid o.seq).onDieError o.qid o.pc o.seq o.ins 2 g).discardAfter o.qid o.seq

/-- The parameter block of an operation. -/
def State.seParams (s : State) (e r : Nat) : Nat :=
  if SRec.update r then leNat (s.spadRead e (SRec.paramAddr r) 64) else 0

/-- Addresses that an operation reads. -/
def State.seReadKeys (s : State) (e r p : Nat) : List Nat :=
  (seInputs r p).flatMap (fun x => (s.streamKeys e (SRec.rows r) x).getD []) ++
  (if SRec.update r then (s.auxKeys e (SRec.paramAddr r) 64 64).getD [] else [])

/-- Addresses that an operation writes. -/
def State.seWriteKeys (s : State) (e r p : Nat) : List Nat :=
  (seOutputs r p).flatMap (fun x => (s.streamKeys e (SRec.rows r) x).getD []) ++
  (redSlots r p).flatMap (fun x => (s.viewKeys e (bit (SRec.redAddr r) 24) (SRec.redAddr r % 2 ^ 24 + x.1) x.2).getD []) ++
  (if SRec.statsEn r then (s.auxKeys e (SRec.statsAddr r) 32 32).getD [] else []) ++
  (if SRec.tq r && SRec.tokEn r then (s.auxKeys e (SRec.tokAddr r) 8 8).getD [] else [])

/-- Take the oldest token that no SE has taken. -/
def takeToken : List TileTok → List TileTok := modFirst (fun t => !t.taken) fun t => { t with taken := true }

/-- The operation runs: the token's copy first, then its outputs (R145, R162). Where rows of an output overlap one another, or
outputs of the operation do, the spec does not say which bytes stay: the model writes rows in rising order, of OUT first, then of
the moment outputs, then the results, and a later write stays (DESIGN CHOICE, log 114). -/
def State.runSe (s : State) (e : Nat) (ue : List Nat) (o : SeOp) : State :=
  let r := o.rcd
  let p := s.seParams e r
  match s.seCause e r p true with
  | some cause => s.seFault e o cause
  | none =>
    match s.meetsBad ue (s.seReadKeys e r p) with
    | some g => s.seDieError e o g
    | none =>
      match s.doStream e r p with
      | .inl cause => s.seFault e o cause
      | .inr d =>
        let lead := s.leadOf e
        let tokW : List (List Nat × Bytes) :=
          match o.token with
          | some t => if SRec.tokEn r then [((s.auxKeys e (SRec.tokAddr r) 8 8).getD [], leBytes 8 t)] else []
          | none => []
        let ws := tokW ++ d.writes
        let s := ws.foldl (fun s x => s.writeAt x.1 x.2) { s with free := s.free + d.drawn }
        let s := s.noteWrites o.qid (ws.flatMap (·.1))
        let s := if o.slot then s.modMe lead fun m => { m with tokens := takeToken m.tokens } else s
        let s := s.setSeOp e { o with phase := .ran, stats := d.stats }
        (s.modSe e fun x => { x with progress := (x.progress + d.elems) % 2 ^ 64 }).addWork (s.ctx o.ctx).part 3 d.elems

/-- An earlier operation of the queue has still to write its statistics record where this one reads or writes (R175). -/
def State.seStatsDue (s : State) (e k r : Nat) : Bool :=
  let p := s.seParams e r
  let due := (s.se e).ops.flatMap fun o =>
    if o.qid = k ∧ o.phase = .ran ∧ SRec.statsEn o.rcd then (s.auxKeys e (SRec.statsAddr o.rcd) 32 32).getD [] else []
  !due.isEmpty && meets due (s.seReadKeys e r p ++ s.seWriteKeys e r p)

/-- The next operation of a queue that stands behind another becomes ready: it runs, or its wait for a token begins (R148,
R175). -/
def State.nextSe (s : State) (e q : Nat) (ue : List Nat) : State :=
  if (s.se e).ops.any fun o => decide (o.qid = q) && decide (o.phase = .token) then s
  else
    match (s.se e).ops.find? fun o => decide (o.qid = q) && decide (o.phase = .queued) with
    | none => s
    | some o =>
      if SRec.tq o.rcd then
        (s.dropSe e o.qid o.seq).modSe e fun x => { x with ops := x.ops ++ [{ o with phase := .token, turn := s.lastTurn + 1 }] }
      else if s.seStatsDue e q o.rcd then s
      else s.runSe e ue o

/-- Substituted addresses of a stream operation (R168). -/
def seRecord (Q : Queue) (w raw : Nat) : Nat :=
  let f := Ins.flags w
  let r := if bit f 2 then putField raw 437 25 ((Q.reg (Ins.sb w)).toNat) else raw
  let r := if bit f 1 then putField r 462 25 ((Q.reg (Ins.sc w)).toNat) else r
  if bit f 0 then putField r 487 25 ((Q.reg (Ins.sd w)).toNat) else r

/-- Kind of a stream operation: 0 chain, 1 `MERGE`, 2 weight update. -/
def seKind (r : Nat) : Nat := if SRec.update r then 2 else if SRec.red r = 6 then 1 else 0

/-- Acceptance: the queue goes on; the operation runs at once unless it waits for a token or stands behind one that does. -/
def State.acceptSe (s : State) (e k w r : Nat) (ue : List Nat) : State :=
  let Q := s.queue k
  let behind := (s.se e).ops.any fun o => decide (o.qid = k) && decide (o.phase ≠ .ran)
  let phase : SePhase := if behind then .queued else if SRec.tq r then .token else .queued
  let o : SeOp := { qid := k, ctx := Q.ctx.getD 0, pc := Q.pc, seq := Q.seq, ins := w, regs := operandRegs Q w, rcd := r, phase := phase,
                    turn := if phase = .token then s.lastTurn + 1 else 0 }
  let s := s.traceQueue k 3 0 (Ins.op w)
  let s := s.setQueue k (s.queue k).advance
  let s := s.modSe e fun x => { x with ops := x.ops ++ [o] }
  if behind || SRec.tq r then s else s.runSe e ue o

/-- Issue of a stream operation of the kind that the command names. -/
def issueStream (kind : Nat) (c : Core) (q : QIx) (ue : List Nat) : State → State :=
  issueOp 0x50 c q fun s k w =>
    let Q := s.queue k
    let a := Ins.addr w
    let e := engineCore c.val w
    if !s.seFree c.val e k then s
    else
      match s.auxKeys e a 64 64 with
      | none => s.faultIssue k w 2 0x22 0
      | some keys =>
        match s.meetsBad ue keys with
        | some g => s.onDieError k Q.pc Q.seq w 2 g
        | none =>
          let r := seRecord Q w (leNat (s.readKeys keys))
          if seKind r ≠ kind ∨ s.seStatsDue e k r then s
          else
            match s.seCause e r (s.seParams e r) (!SRec.tq r) with
            | some cause => s.faultIssue k w 2 cause 0
            | none => s.acceptSe e k w r ue

def execSop (c : Core) (q : QIx) (ue : List Nat) : State → Res := engines (issueStream 0 c q ue)
def execMerge (c : Core) (q : QIx) (ue : List Nat) : State → Res := engines (issueStream 1 c q ue)
def execWeightUpdate (c : Core) (q : QIx) (ue : List Nat) : State → Res := engines (issueStream 2 c q ue)

/-- No wait on the other SE of a tandem pair began before turn `n` of SE `e`; of two that began at once, that of the lead
core's SE is first (R148, R149). -/
def State.firstTurn (s : State) (e n : Nat) : Bool :=
  !s.isTandem e || (s.se (twin e)).ops.all fun o => decide (o.phase ≠ .token) || decide (n < o.turn) || (decide (n = o.turn) && decide (e % 2 = 0))

/-- The wait that began first takes the oldest token (R145, R148, R149), once no earlier operation of its queue has still to write
its statistics record where this one reads or writes (R175). It waits at issue, which a mode change has stopped (R26). -/
def State.takeTile (s : State) (e : Nat) (ue : List Nat) : State :=
  let lead := s.leadOf e
  match ((s.me lead).tokens.take 8).find? (fun t => !t.taken), (s.se e).ops.find? (fun o => decide (o.phase = .token)) with
  | some t, some o =>
    if !s.firstTurn e o.turn ∨ s.power.modeChange.isSome then s else
    let r := putField (putField o.rcd 412 25 (bits t.token 47 24)) 260 4 (bits t.token 23 20)
    if s.seStatsDue e o.qid r then s else
    (s.runSe e ue { o with token := some t.token, slot := true, rcd := r }).nextSe e o.qid ue
  | _, _ => s

def execTileTokenTake (c : Core) (ue : List Nat) : State → Res :=
  engines fun s => s.takeTile c.val ue

/-- The oldest operation that has run completes: its statistics record, its tile-queue slot, a token that the ME holds, and
the next operation of its queue (R106, R147, R159, R175). -/
def State.completeSe (s : State) (e : Nat) : State :=
  match (s.se e).ops.find? fun o => decide (o.phase = .ran) with
  | none => s
  | some o =>
    let lead := s.leadOf e
    let s := if SRec.statsEn o.rcd then s.opWrite e o.qid (SRec.statsAddr o.rcd) o.stats.bytes else s
    let s := (s.dropSe e o.qid o.seq).traceQueue o.qid 4 0 0x50
    let s :=
      match o.token with
      | some t => if o.slot then (s.modMe lead fun m => { m with tokens := dropFirst (fun x => x.taken && decide (x.token = t)) m.tokens }).postHeld lead else s
      | none => s
    s.nextSe e o.qid []

def execSeOpComplete (c : Core) : State → Res := engines fun s => s.completeSe c.val

end Sys2Proof.Machine
end

