-- ==== Sys2Proof/Machine/Sync.lean ====
section
/-! DEFINITION. Machine/Sync.lean: what a synchronisation object does with an operation it takes (R201, R206 to R218, R223),
and how a refused one is charged (R207, R226). -/

namespace Sys2Proof.Machine

/-! ### Waiters -/

/-- Satisfied clients are told: a queue by a notice that carries `CAUSAL` (R220), a hub service by its grant. -/
def State.notify (s : State) (causal : Nat) : List Waiter → State
  | [] => s
  | w :: ws =>
    let t :=
      match w.who with
      | .queue q => s.modQueue q fun Q => { Q with notice := some causal }
      | c => { s with sync := { s.sync with granted := s.sync.granted ++ [c] } }
    t.notify causal ws

/-- A counter serves its waiters in order while the head's n does not exceed the count (R210, R211). -/
def serveCounter (count : Nat) : List Waiter → Nat × List Waiter × List Waiter
  | [] => (count, [], [])
  | w :: ws =>
    if w.n ≤ count then
      let r := serveCounter (count - w.n) ws
      (r.1, w :: r.2.1, r.2.2)
    else (count, [], w :: ws)

/-- A wait for generation `a` is satisfied when (GEN − a) mod 2^32 lies from 1 to 2^31 (R216). -/
def released (gen a : Nat) : Bool :=
  let d := (gen + 2 ^ 32 - a % 2 ^ 32) % 2 ^ 32
  decide (1 ≤ d) && decide (d ≤ 2 ^ 31)

/-- Every participant has arrived for the current generation. -/
def SyncObj.full (o : SyncObj) : Bool := decide (o.bmCur % 2 ^ o.partic = 2 ^ o.partic - 1)

/-- One release (R216). -/
def SyncObj.release (o : SyncObj) : SyncObj := { o with gen := (o.gen + 1) % 2 ^ 32, bmCur := o.bmNext, bmNext := 0 }

/-- Release while the current bitmap is full; the second release empties both bitmaps. -/
def SyncObj.settle (o : SyncObj) : SyncObj :=
  if o.full then (if o.release.full then o.release.release else o.release) else o

/-! ### Checks (R201, R223) -/

/-- A refusal: its cause code and bits [31:16] of its `DETAIL` (R228). -/
abbrev SyncErr := Nat × Nat

/-- Object access (R201): a local operation needs the owning context, a remote one the partition of its session. -/
def accessErr (o : SyncObj) (ctx part : Nat) (remote : Bool) : Option SyncErr :=
  if o.kind = .free then some (0x33, 0)
  else if o.part ≠ part then some (0x33, 2)
  else if !remote && decide (o.ctx ≠ ctx) then some (0x33, 1)
  else none

def kindErr (o : SyncObj) (k : ObjKind) : Option SyncErr := if o.kind = k then none else some (0x32, o.kind.code)

/-- Queue and core of a refused producer, packed as for cause 0x06 (R228). -/
def producerErr (q : Nat) : SyncErr := (0x39, q % 4 * 256 + q / 4)

/-- The declared producer of a counter or flag (R223). -/
def declaredErr (o : SyncObj) (q : Nat) (remote : Bool) : Option SyncErr :=
  if !o.prodDecl then none
  else if o.prodExt then (if remote then none else some (producerErr q))
  else if remote || decide (4 * o.prodCore + o.prodQ ≠ q) then some (producerErr q)
  else none

/-- The declared producer of a participant of a barrier (R223). -/
def participantErr (o : SyncObj) (i q : Nat) (remote : Bool) : Option SyncErr :=
  let d := Tbl.get 0 o.prodTab i
  if d = 0 then none else if remote || decide (d ≠ q + 1) then some (producerErr q) else none

/-- The first check that refuses. -/
def firstErr : List (Option SyncErr) → Option SyncErr
  | [] => none
  | some e :: _ => some e
  | none :: l => firstErr l

/-! ### Operations -/

/-- What an operation leaves: the object, and the waiters that it satisfied; or its refusal. -/
abbrev Taken := SyncErr ⊕ (SyncObj × List Waiter)

/-- A counter add, by `SIG` or by a bound signal (R209, R210). -/
def SyncObj.addCount (o : SyncObj) (n : Nat) : Taken :=
  if o.count + n ≤ 65535 then
    let r := serveCounter (o.count + n) o.waiters
    .inr ({ o with count := r.1, waiters := r.2.2 }, r.2.1)
  else .inl (0x31, o.count)

def SyncObj.decCount (o : SyncObj) (n : Nat) : Taken :=
  if n ≤ o.count then .inr ({ o with count := o.count - n }, []) else .inl (0x30, o.count)

/-- A wait joins the tail; it is served when it is at the head (R209, R211). -/
def SyncObj.acquire (o : SyncObj) (w : Waiter) : Taken :=
  let r := serveCounter o.count (o.waiters ++ [w])
  .inr ({ o with count := r.1, waiters := r.2.2 }, r.2.1)

/-- `FSET` satisfies every pending wait (R212, R213). -/
def SyncObj.setFlag (o : SyncObj) : Taken := .inr ({ o with count := 1, waiters := [] }, o.waiters)

def SyncObj.clearFlag (o : SyncObj) : Taken := .inr ({ o with count := 0 }, [])

def SyncObj.awaitFlag (o : SyncObj) (w : Waiter) : Taken :=
  if o.count = 1 then .inr (o, [w]) else .inr ({ o with waiters := o.waiters ++ [w] }, [])

/-- After an arrival: releases, and the waits they satisfy (R216). -/
def SyncObj.afterArrival (o : SyncObj) : SyncObj × List Waiter :=
  let o := o.settle
  ({ o with waiters := o.waiters.filter fun w => !(released o.gen w.gen) }, o.waiters.filter fun w => released o.gen w.gen)

/-- An arrival of participant `i` for generation `a` (R215), with the wait of a `BAR`. -/
def SyncObj.arrive (o : SyncObj) (i a : Nat) (wait : Option Waiter) : Taken :=
  let d := (a + 2 ^ 32 - o.gen) % 2 ^ 32
  let go (o : SyncObj) : Taken := .inr ({ o with waiters := o.waiters ++ wait.toList }.afterArrival)
  if d = 0 then
    if o.bmCur.testBit i then .inl (0x35, i) else go { o with bmCur := o.bmCur + 2 ^ i }
  else if d = 1 then
    if o.bmNext.testBit i then .inl (0x35, i) else go { o with bmNext := o.bmNext + 2 ^ i }
  else if d = 2 then .inl (0x34, o.gen % 2 ^ 16)
  else if d = 2 ^ 32 - 1 then .inl (0x35, i)
  else .inl (0x36, o.gen % 2 ^ 16)

/-- A `BAR` that waits without arriving (R215). -/
def SyncObj.waitOnly (o : SyncObj) (w : Waiter) : Taken :=
  let d := (w.gen + 2 ^ 32 - o.gen) % 2 ^ 32
  if d = 0 ∨ d = 1 then .inr ({ o with waiters := o.waiters ++ [w] }, [])
  else if d = 2 ^ 32 - 1 then .inr (o, [w])
  else .inl (0x36, o.gen % 2 ^ 16)

def SyncOp.isWait (o : SyncOp) : Bool := decide (o.opc = 0x71) || decide (o.opc = 0x75) || decide (o.opc = 0x76)

/-- The operation at its object, every check before its effect. Where an operation breaks several checks, the spec does not say which cause
is reported: the model tries access, kind, index and producer in this order, and then those of the effect itself (DESIGN CHOICE, log 31). -/
def SyncObj.take (o : SyncObj) (p : SyncOp) : Taken :=
  let remote := p.remote.isSome
  let access := accessErr o p.ctx p.part remote
  let w : Waiter := { who := .queue p.qid, n := p.n, gen := p.gen }
  let guarded (es : List (Option SyncErr)) (t : Taken) : Taken :=
    match firstErr es with
    | some e => .inl e
    | none => t
  match p.opc with
  | 0x70 => guarded [access, kindErr o .counter, declaredErr o p.qid remote] (o.addCount p.n)
  | 0x71 => guarded [access, kindErr o .counter] (o.acquire w)
  | 0x72 => guarded [access, kindErr o .counter] (o.decCount p.n)
  | 0x73 => guarded [access, kindErr o .flag, declaredErr o p.qid remote] o.setFlag
  | 0x74 => guarded [access, kindErr o .flag] o.clearFlag
  | 0x75 => guarded [access, kindErr o .flag] (o.awaitFlag w)
  | _ =>
    let index := if p.idx < o.partic then none else some (0x37, o.partic)
    if p.opc = 0x76 ∧ p.waitOnly then guarded [access, kindErr o .barrier, index] (o.waitOnly w)
    else
      guarded [access, kindErr o .barrier, index, participantErr o p.idx p.qid remote]
        (o.arrive p.idx p.gen (if p.opc = 0x76 then some w else none))

/-- `DETAIL` of a synchronisation fault (R228). -/
def syncDetail (obj : Nat) (e : SyncErr) : Nat := obj + e.2 % 2 ^ 16 * 2 ^ 16

/-- An object takes an operation: the state after it, and the refusal if it is one (R206, R207). -/
def State.takeOp (s : State) (p : SyncOp) : State × Option SyncErr :=
  let o := s.obj p.obj
  match o.take p with
  | .inl e => (s.setObj p.obj { o with lastErr := e.1 }, some e)
  | .inr (o', ws) =>
    let o' := { o' with causal := max o'.causal p.causal }
    ((s.setObj p.obj o').notify o'.causal ws, none)

/-- Charge a refused operation of a queue of the module (R207). -/
def State.chargeOp (s : State) (p : SyncOp) (e : SyncErr) : State :=
  let d := syncDetail p.obj e
  if p.isWait then s.faultOp p.qid p.pc p.seq 0 4 e.1 d else s.faultLate p.qid p.pc p.seq 0 4 e.1 d

/-- The arrival of a local operation. -/
def State.arriveOp (s : State) (p : SyncOp) : State :=
  let r := s.takeOp p
  match r.2 with
  | some e => r.1.chargeOp p e
  | none =>
    if p.isWait then r.1.modQueue p.qid fun Q => { Q with wait := Q.wait.map fun w => { w with arrived := true } } else r.1

/-- The bound signal of a COPY or FILL has been taken or refused, and the command completes (R458). -/
def State.signalDone (s : State) (id status : Nat) : State :=
  { s with cmds := s.cmds.map fun c => if c.id = id ∧ c.sigOut then { c.complete status 0 with sigOut := false } else c }

/-- A bound signal at its object (R209, R212, R221, R223): refused ones are charged to the queue that started the
transfer, but for an object of a faulted context, which only records the cause (R226). -/
def State.takeBound (s : State) (b : BoundSig) : State :=
  let o := s.obj b.obj
  let kind := if b.kind = 2 then ObjKind.flag else ObjKind.counter
  let t : Taken :=
    match firstErr [accessErr o b.ctx b.part false, kindErr o kind, declaredErr o b.qid false] with
    | some e => .inl e
    | none => if b.kind = 2 then o.setFlag else o.addCount b.n
  match t with
  | .inl e =>
    let s := s.setObj b.obj { o with lastErr := e.1 }
    if b.origin = 1 then s.signalDone b.cmd St.noPermission
    else if (s.ctx b.ctx).st = .faulted then s
    else s.faultLate b.qid b.pc b.seq 0 4 e.1 (syncDetail b.obj e)
  | .inr (o', ws) =>
    let o' := { o' with causal := max o'.causal b.causal }
    let s := (s.setObj b.obj o').notify o'.causal ws
    if b.origin = 1 then s.signalDone b.cmd St.ok else s

/-- A wait leaves its object as if it had never issued (R191): behind it, waits that can now be satisfied are (R211). -/
def State.unwait (s : State) (obj : Nat) (who : Client) : State :=
  let o := s.obj obj
  if o.waiters.any fun v => decide (v.who = who) then
    let ws := o.waiters.filter fun v => decide (v.who ≠ who)
    let r := if o.kind = .counter ∧ o.frozen = false then serveCounter o.count ws else (o.count, [], ws)
    (s.setObj obj { o with count := r.1, waiters := r.2.2 }).notify o.causal r.2.1
  else s

/-! ### Arrivals (R206, R221) -/

def execSyncOpArrive (i : Nat) : State → Res :=
  engines fun s =>
    match s.sync.flight[i]? with
    | none => s
    | some p => { s with sync := { s.sync with flight := dropAt s.sync.flight i } }.arriveOp p

/-- A bound signal reaches its object; the object of a suspended context takes it once the context has resumed (R225, log 94). -/
def execBoundSignal (i : Nat) : State → Res :=
  engines fun s =>
    match s.sync.bound[i]? with
    | none => s
    | some b =>
      if (s.obj b.obj).kind ≠ .free ∧ (s.ctx (s.obj b.obj).ctx).st = .suspended then s
      else { s with sync := { s.sync with bound := dropAt s.sync.bound i } }.takeBound b

/-- A refusal of a remote operation reaches the sending queue (R203): cause 0x3A, `DETAIL`[31:16] the receiver's cause.
While the sender's context is suspended the refusal waits for its resumption (log 94). -/
def execRemoteRefusal (i : Nat) : State → Res :=
  engines fun s =>
    match s.sync.refusals[i]? with
    | none => s
    | some r =>
      if (s.ctx r.ctx).st = .suspended then s
      else
        let s := { s with sync := { s.sync with refusals := dropAt s.sync.refusals i } }
        if (s.queue r.qid).ctx = some r.ctx then s.faultLate r.qid r.pc r.seq 0 4 0x3A (syncDetail r.obj (0x3A, r.cause)) else s

end Sys2Proof.Machine
end

