-- ==== Sys2Proof/Machine/Fab.lean ====
section
/-! DEFINITION. Machine/Fab.lean: routes, flits and sessions of the fabric (R301, R302, R311 to R318, R324 to R331): what
sending a message, acknowledging one and losing a session bring about. -/

namespace Sys2Proof.Machine

/-! ### Torus (R41, R295, R311, R312) -/

/-- This module's ID. -/
def State.myId (s : State) : Nat := s.fab.moduleId % 2 ^ 11

/-- Coordinate of a module ID in dimension 0 (x), 1 (y) or 2 (z). -/
def coord (id d : Nat) : Nat :=
  match d with
  | 0 => bits id 10 7
  | 1 => bits id 6 3
  | _ => bits id 2 0

def withCoord (id d v : Nat) : Nat :=
  match d with
  | 0 => id - coord id 0 * 128 + v * 128
  | 1 => id - coord id 1 * 8 + v * 8
  | _ => id - coord id 2 + v

/-- Size of a dimension. -/
def torusSize (dims d : Nat) : Nat :=
  match d with
  | 0 => bits dims 15 12 + 1
  | 1 => bits dims 11 8 + 1
  | _ => bits dims 7 5 + 1

/-- Coordinates of a module lie in the torus. -/
def inTorus (dims id : Nat) : Bool := (List.range 3).all fun d => decide (coord id d < torusSize dims d)

/-- Neighbour in a dimension; `minus` goes down. -/
def neighbour (dims id d : Nat) (minus : Bool) : Nat :=
  let n := torusSize dims d
  withCoord id d ((coord id d + (if minus then n - 1 else 1)) % n)

/-- The link out of a module in a direction is marked failed at either of its ends (R314). -/
def linkFailed (dims : Nat) (map : List Nat) (id d : Nat) (minus : Bool) : Bool :=
  map.contains (8 * id + 2 * d + b2n minus) || map.contains (8 * neighbour dims id d minus + 2 * d + b2n (!minus))

/-- No failed link on `k` hops from a module. -/
def hopsOk (dims : Nat) (map : List Nat) (d : Nat) (minus : Bool) : Nat → Nat → Bool
  | _, 0 => true
  | id, k + 1 => !linkFailed dims map id d minus && hopsOk dims map d minus (neighbour dims id d minus) k

/-- Direction in one dimension; none if neither way is free (R311). -/
def direction (dims : Nat) (map : List Nat) (src dst d : Nat) : Option Bool :=
  let n := torusSize dims d
  let k := (coord dst d + n - coord src d % n) % n
  if k = 0 then some false
  else
    let plus := hopsOk dims map d false src k
    let minus := hopsOk dims map d true src (n - k)
    if plus && (decide (2 * k ≤ n) || !minus) then some false else if minus then some true else none

/-- `DIRS` of a route: x in bit 2, y in bit 1, z in bit 0 of the field. -/
def route (dims : Nat) (map : List Nat) (src dst : Nat) : Option Nat :=
  let y := withCoord src 0 (coord dst 0)
  let z := withCoord y 1 (coord dst 1)
  match direction dims map src dst 0, direction dims map y dst 1, direction dims map z dst 2 with
  | some a, some b, some c => some (4 * b2n a + 2 * b2n b + b2n c)
  | _, _, _ => none

/-- Port by which a flit leaves a module; none where it is delivered (R311). -/
def nextPort (me dst dirs : Nat) : Option Nat :=
  match (List.range 3).find? fun d => decide (coord me d ≠ coord dst d) with
  | none => none
  | some d => some (2 * d + bits dirs (2 - d) (2 - d))

/-- A hop by port `w` crosses its dimension's dateline link (R312). -/
def crossesDateline (dims me w : Nat) : Bool :=
  let d := w / 2
  if w % 2 = 0 then decide (coord me d + 1 = torusSize dims d) else decide (coord me d = 0)

/-- Dateline class of a flit that leaves by port `w`: kept within a dimension, set on crossing (R312). -/
def nextDl (dims me w : Nat) (from_ : Option Nat) (dl : Nat) : Nat :=
  if crossesDateline dims me w then 1 else if from_.any (fun p => decide (p / 2 = w / 2)) then dl else 0

/-! ### Flits of a message (R301, R302, R316) -/

def msgHeader (m : FabMsg) : Bytes :=
  leBytes 16 (pack [(120, 8, m.op), (104, 16, m.tag), (88, 16, m.status), (64, 24, m.len), (0, 64, m.addr)])

/-- The flits of a message: 240 payload bytes each, 224 on an encrypted port. -/
def msgFlits (m : FabMsg) (encrypted : Bool) (dl : Nat) : List Flit :=
  let n := flitRoom encrypted
  let body := msgHeader m ++ m.data
  let ps := pieces n (body.length / n + 1) body
  ((List.range ps.length).zip ps).map fun x =>
    { type := 1, vc := m.vc, dl := dl, dst := m.dst, src := m.src, spart := m.spart, dpart := m.dpart, sseq := m.sseq,
      lseq := 0, lack := 0, crVc := 0, crDl := 0, crN := 0, len := x.2.length, first := decide (x.1 = 0),
      last := decide (x.1 + 1 = ps.length), dirs := m.dirs, keyId := 0, payload := x.2, intact := true }

/-! ### Sessions (R318, R326) -/

def sessPart (k : Nat) : Nat := k / 6144
def sessCls (k : Nat) : Nat := k % 6144 / 2048
def sessPeer (k : Nat) : Nat := k % 2048

/-- Unacknowledged messages that a class allows (R326). -/
def sessWindow (cls : Nat) : Nat := if cls = 0 then 64 else 256

/-- Change a DE transfer by queue and sequence number, wherever its DE holds it. -/
def State.modXfer (s : State) (core q seq : Nat) (f : DeXfer → DeXfer) : State :=
  let g (x : DeXfer) : DeXfer := if x.qid = q ∧ x.seq = seq then f x else x
  s.modDe core fun e => { e with active := e.active.map g, shadow := e.shadow.map g, waiting := e.waiting.map g }

/-- A checkpoint loses a target; the first one counts (R401). -/
def Ckpt.lose (c : Ckpt) (i : Nat) : Ckpt := if c.lost.isSome then c else { c with lost := some i }

/-- What a message belonged to is lost where the message fails: the checkpoint ends LOST, the slot is LOST (R390, R395, R401). -/
def State.loseService (s : State) : SvcRef → State
  | .ckpt p seq i => s.modPart p fun P => { P with ckpt := P.ckpt.map fun c => if c.seq = seq then c.lose i else c }
  | .slot p h round j => s.modPart p fun P => { P with
      policies := P.policies.map fun x => if x.h = h ∧ x.round = round ∧ !x.gone.contains j then { x with gone := x.gone ++ [j] } else x }

/-- The bulk session to a module has failed: a checkpoint that has a target there is lost (R401). -/
def State.loseTargets (s : State) (p m : Nat) : State :=
  s.modPart p fun P => { P with ckpt := P.ckpt.map fun c =>
    match (List.range c.mods.length).find? fun i => decide (c.mods[i]? = some m) with
    | some i => c.lose i
    | none => c }

/-- A message is lost with its session or refused: its DE transfer faults with cause 0x46 or 0x45, its queue with a remote
refusal, and what it carried for a service is lost (R203, R264, R325, R327). -/
def State.failOutstanding (s : State) (o : Outstanding) (cause : Nat) : State :=
  let s :=
    match o.de with
    | some (core, q, _, seq) =>
      s.modXfer core q seq fun x =>
        { x with remote := x.remote - 1, cause := if x.cause = 0 then (if o.msg.op = 0x02 then 0x45 else 0x46) else x.cause }
    | none => s
  let s := (o.svc.map s.loseService).getD s
  match o.sig with
  | some (q, pc, seq) =>
    { s with sync := { s.sync with refusals := s.sync.refusals ++ [{ qid := q, ctx := o.ctx, pc := pc, seq := seq, obj := o.msg.addr % 2 ^ 16, cause := cause }] } }
  | none => s

/-- A session fails (R315, R327): what is outstanding on it fails. One that was OPENING or CLOSING is CLOSED with that (R319). -/
def State.failSession (s : State) (k : Nat) : State :=
  let S := s.session k
  let lost := S.out ++ S.waitq
  let s := s.modSession k fun S => if S.st = .closing ∨ S.st = .opening then {} else
    { S with st := .failed, out := [], waitq := [], holding := false, resends := 0, held := [] }
  let s := if sessCls k = 2 then s.loseTargets (sessPart k) (sessPeer k) else s
  lost.foldl (fun s o => s.failOutstanding o 0x46) s

/-- Sessions of a peer that are not CLOSED. -/
def State.sessionsTo (s : State) (peer : Nat) : List Nat :=
  (s.fab.sessions.filter fun x => decide (sessPeer x.1 = peer) && decide (x.2.st ≠ .closed)).map (·.1)

/-- Put a message's flits into the output queue of its route's port (R311, R313). -/
def State.inject (s : State) (m : FabMsg) : State :=
  match nextPort s.myId m.dst m.dirs with
  | none => s
  | some w =>
    let p := s.port w
    if p.st = .failed then s
    else
      let dl := nextDl s.fab.dims s.myId w none 0
      s.modPort w fun p => { p with txq := p.txq ++ (msgFlits m p.encrypted dl).map fun f => (0, f) }

/-- A message leaves on the route in its `DIRS`. -/
def State.emit (s : State) (m : FabMsg) : State := (s.out (.message m)).inject m

/-- Send a message: the route is chosen now; with none, every session to the module fails (R311, R315). -/
def State.sendMsg (s : State) (m : FabMsg) : State :=
  let m := { m with src := s.myId }
  match route s.fab.dims s.fab.linkMap s.myId m.dst with
  | none => (s.sessionsTo m.dst).foldl State.failSession s
  | some d => s.emit { m with dirs := d }

/-- `DETAIL` of a trace record of a fabric message (R579). -/
def fabDetail (peer cls sseq : Nat) : Nat := pack [(0, 11, peer), (11, 2, cls), (13, 14, sseq)]

/-- Send messages that wait for room in a session's window, at most `n` of them. -/
def State.pumpSession (s : State) (k : Nat) : Nat → State
  | 0 => s
  | n + 1 =>
    let S := s.session k
    match S.waitq with
    | [] => s
    | o :: os =>
      if S.st ≠ .opened ∨ sessWindow (sessCls k) ≤ S.out.length then s
      else
        let m := { o.msg with sseq := S.txSeq, spart := sessPart k, dpart := S.rpart, src := s.myId, dst := sessPeer k, vc := sessCls k }
        let m := { m with dirs := (route s.fab.dims s.fab.linkMap m.src m.dst).getD 0 }
        let s := s.modSession k fun S =>
          { S with waitq := os, out := S.out ++ [{ o with msg := m }], txSeq := (S.txSeq + 1) % 2 ^ 14 }
        let s := s.traceHub (sessPart k) 7 3 m.sseq 0 0 (fabDetail m.dst (sessCls k) m.sseq)
        ((s.sendMsg m).addWork (sessPart k) 5 m.data.length).pumpSession k n

/-- Hand a message to a session; it waits there for the window (R326). -/
def State.sessionSend (s : State) (k : Nat) (o : Outstanding) : State :=
  let s := s.modSession k fun S => { S with waitq := S.waitq ++ [o] }
  s.pumpSession k (s.session k).waitq.length

/-- A message without its session fields. -/
def bareMsg (op addr len : Nat) (data : Bytes) : FabMsg :=
  { op := op, src := 0, dst := 0, spart := 0, dpart := 0, vc := 0, sseq := 0, tag := 0, status := 0, addr := addr, len := len,
    dirs := 0, data := data }

/-- Next tag of a read (R316). -/
def State.takeTag (s : State) : Nat × State :=
  (s.fab.nextTag, { s with fab := { s.fab with nextTag := (s.fab.nextTag + 1) % 2 ^ 16 } })

/-! ### Acknowledgements (R325, log 32) -/

/-- Key of the session that a message to this hub belongs to. -/
def sessAt (m : FabMsg) : Nat := State.sessKey m.dpart m.vc m.src

/-- The reply to a message on VC3; `addr` names the class that it answers. -/
def answerMsg (m : FabMsg) (op status : Nat) : FabMsg :=
  { bareMsg op m.vc 0 [] with dst := m.src, spart := m.dpart, dpart := m.spart, vc := 3, sseq := m.sseq, tag := m.tag, status := status }

/-- The session has sent no `ACK` in this microsecond, and owes none from before. -/
def Session.mayAck (S : Session) (now : Nat) : Bool := decide (S.lastAck ≠ some now) && S.ackDue.isEmpty

/-- An earlier message than another of its session. -/
def earlierMsg (d m : FabMsg) : Bool := decide ((m.sseq + 2 ^ 14 - d.sseq) % 2 ^ 14 < 2 ^ 13)

/-- One more `ACK` is due. It covers what is due for earlier messages, but for refusals, each of which has its own; one that a later
message's covers need not be sent. -/
def dueAck (due : List (FabMsg × Nat)) (m : FabMsg) (cause : Nat) : List (FabMsg × Nat) :=
  if cause = 0 ∧ due.any fun d => decide (d.2 = 0) && !earlierMsg d.1 m then due
  else due.filter (fun d => decide (d.2 ≠ 0)) ++ [(m, cause)]

def ackStatus (cause : Nat) : Nat := if cause = 0 then 0 else 0x0100 + cause

/-- Acknowledge a message, or refuse it with a cause. A session sends at most one `ACK` each microsecond, a refusal among them: a later
one is due at its end. -/
def State.ackMsg (s : State) (m : FabMsg) (cause : Nat) : State :=
  let k := sessAt m
  if (s.session k).mayAck s.clockUs then
    (s.modSession k fun S => { S with lastAck := some s.clockUs }).sendMsg (answerMsg m 0x05 (ackStatus cause))
  else s.modSession k fun S => { S with ackDue := dueAck S.ackDue m cause }

/-- Send the oldest `ACK` that a session owes. -/
def State.sendAck (s : State) (now k : Nat) : State :=
  match (s.session k).ackDue with
  | d :: l => (s.modSession k fun S => { S with lastAck := some now, ackDue := l }).sendMsg (answerMsg d.1 0x05 (ackStatus d.2))
  | [] => s

/-- What a session does with an arriving message (R324, R331). -/
inductive Arrival where
  | notOpen
  | duplicate
  | early
  | next
deriving DecidableEq, Repr

def State.arrival (s : State) (m : FabMsg) : Arrival :=
  let S := s.session (sessAt m)
  if S.st ≠ .opened ∨ S.rpart ≠ m.spart then .notOpen
  else if m.sseq = S.rxSeq then .next
  else if (S.rxSeq + 2 ^ 14 - m.sseq) % 2 ^ 14 ≤ 256 then .duplicate
  else .early

/-- The session expects the next message (R324). -/
def State.expectNext (s : State) (m : FabMsg) : State :=
  s.modSession (sessAt m) fun S => { S with rxSeq := (S.rxSeq + 1) % 2 ^ 14 }

/-- A message is delivered: the partition's causal count rises (R324, R580). -/
def State.delivered (s : State) (m : FabMsg) : State :=
  let s := s.modPart m.dpart fun P => { P with causal := (P.causal + 1) % 2 ^ 32 }
  s.traceHub m.dpart 8 3 m.sseq 0 0 (fabDetail m.src m.vc m.sseq)

/-- Take a message off the list of those that the flit layer delivered. -/
def State.takeRx (s : State) (m : FabMsg) : State :=
  { s with fab := { s.fab with rx := dropFirst (fun x => decide (x = m)) s.fab.rx } }

/-! ### Shard versions (R376) -/

/-- A write into a registered shard raises its version. -/
def touchShards (ranges : List (Nat × Nat)) (l : List Shard) : List Shard :=
  l.map fun h => if ranges.any (overlaps (h.base, h.len)) then { h with ver := (h.ver + 1) % 2 ^ 32 } else h

def State.raiseShards (s : State) (p : Nat) (ranges : List (Nat × Nat)) : State :=
  if (s.part p).shards.any (fun h => ranges.any (overlaps (h.base, h.len))) then
    s.modPart p fun P => { P with shards := touchShards ranges P.shards }
  else s

end Sys2Proof.Machine
end

