-- ==== Sys2Proof/Machine/DmaOps.lean ====
section
/-! DEFINITION. Machine/DmaOps.lean: the checks of a DMA operation at acceptance, the elements of a transfer and what it
moves (R229 to R248, R255). -/

namespace Sys2Proof.Machine

/-- A format that the operation allows (R233). -/
def dmaFmtOk (op fmt : Nat) : Bool :=
  match fmt with
  | 0 | 1 | 2 | 3 | 4 | 6 => decide (op ≤ 3)
  | 5 | 8 => decide (op ≤ 2)
  | 7 => decide (op ≤ 1)
  | _ => false

/-! ### Ranges (R240, R241) -/

/-- Every byte of a range of host-window offsets lies in maps that allow the access. -/
def State.hostCovered (s : State) (p : Nat) (write : Bool) : Nat → Nat → Nat → Bool
  | 0, _, _ => false
  | k + 1, a, n =>
    if n = 0 then true
    else
      match s.hostMap p a with
      | none => false
      | some m =>
        (if write then m.wr else m.rd) &&
        (let l := m.winOff + m.len - a
         n ≤ l || s.hostCovered p write k (a + l) (n - l))

/-- Objects of a range belong to the partition (R201). -/
def State.objectsOwned (s : State) (p off n : Nat) : Bool :=
  decide (off + n ≤ 128 * 65536) &&
  (span (off / 32768) ((off + n - 1) / 32768 + 1 - off / 32768)).all fun r => (s.part p).syncRanges.testBit r

/-- A range lies within its space and the partition (R239, R240). -/
def State.dmaRangeOk (s : State) (p a n : Nat) (write : Bool) : Bool :=
  if n = 0 then true
  else
    let lo := a % 2 ^ 56
    match a / 2 ^ 56 with
    | 0x00 => decide (a + n ≤ 2 ^ 44) && s.ownsRange p a n
    | 0x01 =>
      match s.place a with
      | some (.spad core off) => decide (off + n ≤ s.spadLimit core) && s.hasCluster p (clusterOf core)
      | some (.clm k off) => decide (off + n ≤ clmBytes) && s.hasCluster p k
      | _ => false
    | 0x02 => !write && s.objectsOwned p lo n
    | 0x03 => decide (lo < 2 ^ 48) && s.hostCovered p write 257 lo n
    | 0x80 =>
      !(bit lo 44) && decide (lo % 2 ^ 42 + n ≤ dieBytes) &&
      decide ((s.session (State.sessKey p 2 (lo / 2 ^ 45))).st = .opened)
    | 0x82 =>
      !write && decide (lo % 2 ^ 45 + n ≤ 128 * 65536) &&
      decide ((s.session (State.sessKey p 2 (lo / 2 ^ 45))).st = .opened)
    | _ => false

/-- Spaces that a side may lie in (R239). -/
def spaceOk (d : Nat) (src : Bool) : Bool :=
  if src then
    let sp := DRec.srcAddr d / 2 ^ 56
    if DRec.fmt d = 7 then decide (sp = 3) else [0x00, 0x01, 0x02, 0x03, 0x80, 0x82].contains sp
  else
    let sp := DRec.dstAddr d / 2 ^ 56
    if DRec.op d = 3 then [0x00, 0x01].contains sp
    else if DRec.fmt d = 7 then [0x00, 0x01, 0x80].contains sp
    else [0x00, 0x01, 0x03, 0x80].contains sp

/-! ### Checks at acceptance (R233, R234, R239 to R241, R244, R253, R255) -/

def circOk (c : Nat) : Bool := decide (c = 0) || (decide (12 ≤ c) && decide (c ≤ 40))

/-- Reserved fields of descriptor and shape are zero, and the codes exist. -/
def descriptorOk (d : Nat) : Bool :=
  decide (DRec.op d ≤ 4) && decide (bits d 217 64 = 0) && decide (DRec.sigKind d ≠ 3) && !DRec.compl d &&
  !(decide (DRec.sigKind d = 2) && decide (DRec.sigN d ≠ 0)) && circOk (DRec.srcCirc d) && circOk (DRec.dstCirc d)

def shapeOk (d h : Nat) : Bool :=
  dmaFmtOk (DRec.op d) (DRec.fmt d) && decide (bits h 1003 960 = 0) && decide (bits h 671 640 = 0) && decide (bits h 255 0 = 0) &&
  ((List.range 4).all fun i => Shape.n h i = 0 || decide (Shape.e h i ≠ 0)) &&
  (!DRec.listed d || decide (Shape.n h 3 = 1)) && (decide (DRec.op d ≤ 1) || decide (Shape.padMask h = 0))

def sideAligned (d h : Nat) : Bool :=
  decide (DRec.srcAddr d % srcSize d = 0) && (Shape.srcStrides h).all (fun x => decide (x % srcSize d = 0)) &&
  decide (DRec.dstAddr d % dstSize d = 0) && (Shape.dstStrides h).all (fun x => decide (x % dstSize d = 0))

def circularOk (d h : Nat) : Bool :=
  (DRec.srcCirc d = 0 || decide (sideSpan d h true ≤ 2 ^ DRec.srcCirc d)) &&
  (DRec.dstCirc d = 0 || decide (sideSpan d h false ≤ 2 ^ DRec.dstCirc d))

/-- A strict `XFER` stays within the extents of every dimension that clamps (R240). -/
def strictOk (d h : Nat) : Bool :=
  !(decide (DRec.op d = 0) && DRec.strict d) || (Shape.box h).any (· = 0) ||
  (List.range 4).all fun i =>
    Shape.n h i = 0 || (Shape.padMask h).testBit i || (decide (0 ≤ Shape.c h i) && decide (Shape.c h i + Shape.n h i ≤ Shape.e h i))

/-- The cause with which a `DMA` instruction faults at acceptance (R240, log 31); `c` is the issuing core, `a` its
descriptor's scratchpad address. R255 names no fault for a half other than 0 of a core that is not tandem: the model takes a
descriptor fault (DESIGN CHOICE, log 121). -/
def State.dmaCause (s : State) (c p a d h : Nat) : Option Nat :=
  if !descriptorOk d then some 0x40
  else if DRec.op d = 4 then
    let dc := DRec.dstCore d
    if (DRec.srcHalf d = 1 ∧ !s.isTandem c) ∨ (DRec.dstHalf d = 1 ∧ !s.isTandem dc) then some 0x40
    else if !s.hasCluster p (clusterOf dc) ∨ s.leadOf dc ≠ dc then some 0x41
    else none
  else
    let dst := sideRange d h false
    let src := sideRange d h true
    if !shapeOk d h then some 0x40
    else if !spaceOk d true ∨ !spaceOk d false then some 0x41
    else if !sideAligned d h then some 0x42
    else if DRec.listed d ∧ DRec.listAddr d % 16 ≠ 0 then some 0x42
    else if !circularOk d h then some 0x43
    else if overlaps dst (spadKey (s.leadOf c) a, 8) then some 0x40
    else if !s.dmaRangeOk p src.1 src.2 false ∨ !s.dmaRangeOk p dst.1 dst.2 true ∨
        (s.spadKeys c [(DRec.listAddr d, if DRec.listed d then 16 * DRec.listLen d else 0)]).isNone then some 0x41
    else if !strictOk d h then some 0x44
    else none

/-! ### Elements (R235, R236) -/

/-- What becomes of an element: copied, padded, or out of bounds. -/
inductive ElKind where
  | plain | pad | clamped | bounds
deriving DecidableEq, Repr

structure Element where
  src : Option Nat
  dst : Option Nat
  kind : ElKind
  /-- Its place in the order of transfer. -/
  ord : Nat := 0
  /-- Of a block that the reuse buffer serves: the place of the element as it was read (R243). -/
  again : Option Nat := none

/-- place() of R235. -/
def placeAddr (base : Nat) (xs : List Int) (strides : List Nat) (es circ : Nat) : Nat :=
  let off : Int := (xs.headD 0) * (es : Int) + (((xs.drop 1).zip strides).map fun (x : Int × Nat) => x.1 * (x.2 : Int)).foldl (· + ·) 0
  let lin := unsigned 64 ((base : Int) + off)
  if circ = 0 then lin else base / 2 ^ circ * 2 ^ circ + lin % 2 ^ circ

/-- Resolution of the coordinates of the indexed tensor (R236). -/
def resolve (d h : Nat) (xs : List Int) : List Int × ElKind :=
  let ext := Shape.extents h
  let bad := (List.range 4).filter fun i => decide (xs.getD i 0 < 0) || decide (((ext.getD i 0 : Nat) : Int) ≤ xs.getD i 0)
  if bad.isEmpty then (xs, .plain)
  else if bad.any fun i => (Shape.padMask h).testBit i then (xs, .pad)
  else if DRec.strict d then (xs, .bounds)
  else ((xs.zip ext).map fun x => max 0 (min x.1 ((x.2 : Int) - 1)), .clamped)

def indices3 (a b c : Nat) : List (Nat × Nat × Nat) :=
  (List.range c).flatMap fun k => (List.range b).flatMap fun j => (List.range a).map fun i => (i, j, k)

/-- Element from its dense position and the coordinates of the indexed tensor. -/
def elementAt (d h : Nat) (dense coords : List Int) : Element :=
  let r := resolve d h coords
  let at_ (src : Bool) (xs : List Int) : Nat :=
    if src then placeAddr (DRec.srcAddr d) xs (Shape.srcStrides h) (srcSize d) (DRec.srcCirc d)
    else placeAddr (DRec.dstAddr d) xs (Shape.dstStrides h) (dstSize d) (DRec.dstCirc d)
  if DRec.indexedSrc d then
    { src := if r.2 = .pad then none else some (at_ true r.1)
      dst := if r.2 = .pad && DRec.dstSlice d then none else some (at_ false dense)
      kind := r.2 }
  else { src := some (at_ true dense), dst := some (at_ false r.1), kind := r.2 }

/-- Block list entry `j` (R242). -/
def listEntry (bs : Bytes) (j : Nat) : Int × Int × Int :=
  let w := leNat (slice bs (16 * j) 16)
  (signed 32 (bits w 31 0), signed 32 (bits w 63 32), signed 32 (bits w 95 64))

/-- The entries that a buffer of the 8 most recently read distinct blocks serves, each with the entry at which it was read
(R243); `seen` is what the buffer holds, newest first. An entry of which nothing is read, all padding, takes no place. -/
def reused {α : Type} [DecidableEq α] : List (α × Nat) → Nat → List (α × Bool) → List (Option Nat)
  | _, _, [] => []
  | seen, j, (a, reads) :: l =>
    match seen.find? fun x => decide (x.1 = a) with
    | some x => some x.2 :: reused seen (j + 1) l
    | none => none :: reused (if reads then ((a, j) :: seen).take 8 else seen) (j + 1) l

/-- The elements of list entry `j` (R235, R242). -/
def blockElements (d h : Nat) (list : Bytes) (j : Nat) : List Element :=
  let l := listEntry list j
  let n := Shape.n h
  let c := Shape.c h
  let ix := indices3 (n 0) (n 1) (n 2)
  ((List.range ix.length).zip ix).map fun (k : Nat × (Nat × Nat × Nat)) =>
    let i := k.2
    { elementAt d h [(i.1 : Int), (i.2.1 : Int), (i.2.2 : Int), (j : Int)]
      [c 0 + l.1 * (n 0 : Int) + (i.1 : Int), c 1 + l.2.1 * (n 1 : Int) + (i.2.1 : Int),
       c 2 + l.2.2 * (n 2 : Int) + (i.2.2 : Int), c 3] with ord := j * ix.length + k.1 }

/-- The list entries of a `GATHER` that it does not read again, with those at which it has read their blocks: blocks of more
than 16 KiB are never kept (R243). -/
def reuseFlags (d h : Nat) (list : Bytes) : List (Option Nat) :=
  let entries := List.range (DRec.listLen d)
  if DRec.op d = 1 ∧ Shape.n h 0 * Shape.n h 1 * Shape.n h 2 * srcSize d ≤ 16384 then
    reused [] 0 (entries.map fun j => (listEntry list j, (blockElements d h list j).any fun el => el.src.isSome))
  else entries.map fun _ => none

/-- The elements of a transfer in transfer order (R235); `list` is the block list. -/
def elements (d h : Nat) (list : Bytes) : List Element :=
  let n := Shape.n h
  let c := Shape.c h
  if DRec.op d = 0 then
    (List.range (n 3)).flatMap fun (i3 : Nat) => (indices3 (n 0) (n 1) (n 2)).map fun (i : Nat × Nat × Nat) =>
      elementAt d h [(i.1 : Int), (i.2.1 : Int), (i.2.2 : Int), (i3 : Int)]
        [c 0 + (i.1 : Int), c 1 + (i.2.1 : Int), c 2 + (i.2.2 : Int), c 3 + (i3 : Int)]
  else
    let size := n 0 * n 1 * n 2
    ((List.range (DRec.listLen d)).zip (reuseFlags d h list)).flatMap fun (x : Nat × Option Nat) =>
      (blockElements d h list x.1).map fun el => { el with again := x.2.map fun r => r * size + el.ord % size }

/-- Ranges that elements read from memory, element by element, and that they write. -/
def elementReads (d : Nat) (els : List Element) : List (Nat × Nat) :=
  (els.filter fun el => el.again.isNone).filterMap fun el => el.src.map (·, srcSize d)

def elementWrites (d : Nat) (els : List Element) : List (Nat × Nat) := els.filterMap fun el => el.dst.map (·, dstSize d)

/-! ### Reading and writing by address -/

/-- Local keys of `n` bytes at an address of space 0x00 or 0x01. -/
def State.addrKeys (s : State) (a n : Nat) : List Nat :=
  match s.place a with
  | some (.mem k) => span k n
  | some (.spad core off) => (span off n).map (s.spadByte core)
  | some (.clm k off) => span (clmKey k off) n
  | _ => []

/-- Bytes that have arrived from another module. -/
def gotBytes (got : List (Nat × Bytes)) (a n : Nat) : Bytes :=
  match got.find? fun g => decide (g.1 ≤ a) && decide (a + n ≤ g.1 + g.2.length) with
  | some g => slice g.2 (a - g.1) n
  | none => leBytes n 0

/-- The `n` bytes that a transfer reads at an address; none where the host map is gone, or the unit is no more the
partition's, or is being cleared (R263, R293). -/
def State.dmaRead (s : State) (p : Nat) (got : List (Nat × Bytes)) (a n : Nat) : Option Bytes :=
  match s.place a with
  | some (.mem k) => if s.owns p k then some (s.readKeys (span k n)) else none
  | some (.objects off) => some (slice (s.obj (off / 128)).bytes (off % 128) n)
  | some (.host off) =>
    match s.hostMap p off with
    | some m => if m.rd then some (s.hostRead (s.part p).hostPort (m.host + (off - m.winOff)) n) else none
    | none => none
  | some (.remMem _ _) => some (gotBytes got a n)
  | some (.remObj _ _) => some (gotBytes got a n)
  | _ => some (s.readKeys (s.addrKeys a n))

/-- binary32 to bfloat16 (R248): code, saturated, not finite. -/
def ingress (v : Nat) : Nat × Bool × Bool :=
  let e := bits v 30 23
  let m := bits v 22 0
  let neg := bit v 31
  if e = 255 then (if m ≠ 0 then 0x7FC0 else if neg then 0xFF80 else 0x7F80, false, true)
  else
    let x : Num := if e = 0 then ⟨neg, m, -149⟩ else ⟨neg, m + 2 ^ 23, (e : Int) - 150⟩
    let c := ElFmt.bf16.convert x
    (c.code, c.sat, false)

/-- A pad element (R236, R248). -/
def padBytes (d h : Nat) : Bytes :=
  if DRec.fmt d = 6 then leBytes 32 (pack [(112, 16, 0x8000), (96, 16, Shape.padValue h)])
  else leBytes (dstSize d) (Shape.padValue h)

/-! ### Scatter-add (R245) -/

/-- The destination entry after one addition, or the cause of its fault. -/
def addInto (w : Int) (ent : RedEntry) (d : Nat) (v : Bytes) : Nat ⊕ RedEntry :=
  let a := ent.acc
  if a.win ≠ w then .inl 0x47
  else if DRec.fmt d = 6 then
    let x := RedEntry.parse v
    if termLimit < ent.terms + x.terms then .inl 0x48
    else
      let a := { a with maxexp := maxOpt a.maxexp x.acc.maxexp }
      let terms := ent.terms + x.terms
      if x.acc.nonfinite then .inr { acc := { a with nonfinite := true }, terms := terms }
      else if x.acc.ovf ∨ x.acc.win ≠ w then .inr { acc := { a with ovf := true }, terms := terms }
      else .inr { acc := { a with sum := a.sum + x.acc.sum, inexact := a.inexact + x.acc.inexact }, terms := terms }
  else if termLimit < ent.terms + 1 then .inl 0x48
  else
    let f := (streamFmt (DRec.fmt d)).getD .bf16
    .inr { acc := a.term (f.decode (leNat v)), terms := ent.terms + 1 }

/-! ### The run of a transfer -/

/-- What a transfer has done so far. -/
structure XRun where
  s : State
  written : Nat := 0
  /-- Elements read from the source. -/
  reads : Nat := 0
  clamps : Nat := 0
  sat : Bool := false
  nonfinite : Bool := false
  cause : Nat := 0
  keys : List Nat := []
  ranges : List (Nat × Nat) := []
  /-- Bytes for other modules, by address. -/
  remote : List (Nat × Bytes) := []
  /-- Elements of a `GATHER` as they were read, by their place (R243). -/
  kept : List (Nat × Bytes) := []

/-- A read met an uncorrectable granule: cause 0x45 (R272, R273). -/
def XRun.bad (x : XRun) (g : Nat) : XRun :=
  { x with cause := 0x45, s := if g < 2 ^ 56 then x.s.moduleUe g else x.s.markBad g }

/-- Write an element. -/
def XRun.put (x : XRun) (p a : Nat) (bs : Bytes) : XRun :=
  let y := { x with written := x.written + 1 }
  match x.s.place a with
  | some (.host off) =>
    match x.s.hostMap p off with
    | some m =>
      let h := (x.s.part p).hostPort
      let a := m.host + (off - m.winOff)
      if m.wr then { y with s := x.s.hostWrite h a bs, keys := x.keys ++ span (hostRange + hostKey h a) bs.length } else { x with cause := 0x41 }
    | none => { x with cause := 0x41 }
  | some (.remMem _ _) => { y with remote := x.remote ++ [(a, bs)] }
  | some (.mem k) =>
    if x.s.owns p k then { y with s := x.s.writeAt (span k bs.length) bs, keys := x.keys ++ span k bs.length } else { x with cause := 0x41 }
  | _ =>
    let ks := x.s.addrKeys a bs.length
    { y with s := x.s.writeAt ks bs, keys := x.keys ++ ks }

/-- Add an element into a reduction entry, which keeps its sum where it becomes non-finite. -/
def XRun.addEl (x : XRun) (p : Nat) (ue : List Nat) (d a : Nat) (bs : Bytes) : XRun :=
  let ks := x.s.addrKeys a 32
  if x.s.isMem a && !x.s.owns p a then { x with cause := 0x41 }
  else
  match x.s.meetsBad ue ks with
  | some g => x.bad g
  | none =>
    match addInto (DRec.addT d - 62) (RedEntry.parse (x.s.readKeys ks)) d bs with
    | .inl c => { x with cause := c }
    | .inr e => { x with s := x.s.writeAt ks e.raw, written := x.written + 1, keys := x.keys ++ ks }

/-- The bytes of an element at `sa`: those read before where the reuse buffer serves it (R243). -/
def XRun.read (x : XRun) (p d : Nat) (got : List (Nat × Bytes)) (el : Element) (sa : Nat) : Option Bytes :=
  match el.again with
  | some o => (x.kept.find? fun k => decide (k.1 = o)).map (·.2)
  | none => x.s.dmaRead p got sa (srcSize d)

/-- An element has been read: it counts, and a `GATHER` keeps it. -/
def XRun.note (x : XRun) (d : Nat) (el : Element) (bs : Bytes) : XRun :=
  if el.again.isSome then x
  else { x with
    reads := x.reads + 1
    kept := if DRec.op d = 1 then (el.ord, bs) :: x.kept else x.kept }

/-- One element, read and written in its turn: on sides that overlap, a later element reads what an earlier one wrote. -/
def XRun.step (p : Nat) (ue : List Nat) (d h : Nat) (got : List (Nat × Bytes)) (x : XRun) (el : Element) : XRun :=
  if x.cause ≠ 0 then x
  else if el.kind = .bounds then { x with cause := 0x44 }
  else
    let x := if el.kind = .clamped then { x with clamps := x.clamps + 1 } else x
    match el.src, el.dst with
    | _, none => x
    | none, some a => x.put p a (padBytes d h)
    | some sa, some a =>
      match (if el.again.isSome then none else x.s.meetsBad ue (x.s.addrKeys sa (srcSize d))) with
      | some g => x.bad g
      | none =>
        match x.read p d got el sa with
        | none => { x with cause := 0x41 }
        | some bs =>
          let x := x.note d el bs
          if DRec.op d = 3 then x.addEl p ue d a bs
          else if DRec.fmt d = 7 then
            let r := ingress (leNat bs)
            { x with sat := x.sat || r.2.1, nonfinite := x.nonfinite || r.2.2 }.put p a (leBytes 2 r.1)
          else x.put p a bs

/-- Bytes that a transfer has read and written (R550): a scatter-add reads each entry that it writes. -/
def XRun.bytes (x : XRun) (d : Nat) : Nat :=
  x.reads * srcSize d + x.written * (if DRec.op d = 3 then 2 * dstSize d else dstSize d)

/-- Of these, bytes that passed a host port (R633). -/
def XRun.hostBytes (x : XRun) (d : Nat) : Nat :=
  (if DRec.srcAddr d / 2 ^ 56 = 3 then x.reads * srcSize d else 0) + (if DRec.dstAddr d / 2 ^ 56 = 3 then x.written * dstSize d else 0)

/-- Adjacent pieces joined, in order. -/
def joinPieces : List (Nat × Bytes) → List (Nat × Bytes)
  | [] => []
  | (a, b) :: l =>
    match joinPieces l with
    | (c, e) :: r => if a + b.length = c then (a, b ++ e) :: r else (a, b) :: (c, e) :: r
    | [] => [(a, b)]

/-- Pieces of at most 65,536 bytes (R317). -/
def cutPieces (l : List (Nat × Bytes)) : List (Nat × Bytes) :=
  l.flatMap fun x =>
    let ps := pieces 65536 (x.2.length / 65536 + 1) x.2
    ((List.range ps.length).zip ps).map fun y => (x.1 + 65536 * y.1, y.2)

/-- Addresses in other modules that a transfer reads, as ranges. -/
def remoteReads (d h : Nat) (list : Bytes) : List (Nat × Nat) :=
  let sp := DRec.srcAddr d / 2 ^ 56
  if sp = 0x80 ∨ sp = 0x82 then
    let rs := elementReads d (elements d h list)
    (cutPieces (joinPieces (rs.map fun r => (r.1, List.replicate r.2 0)))).map fun x => (x.1, x.2.length)
  else []

/-- Address that a message names at its destination (R260, R317). -/
def remoteAddr (a : Nat) : Nat := if a / 2 ^ 56 = 0x82 then 2 * 2 ^ 56 + a % 2 ^ 45 else a % 2 ^ 44

def moduleOfAddr (a : Nat) : Nat := a % 2 ^ 56 / 2 ^ 45

end Sys2Proof.Machine
end

