-- ==== Sys2Proof/Machine/Dma.lean ====
section
/-! DEFINITION. Machine/Dma.lean: the commands of the DMA engine: acceptance, start, status word, bound completion and
faults of a transfer (R229 to R231, R249 to R255, R259). -/

namespace Sys2Proof.Machine

/-! ### Intake (R173, R174, R229, R232) -/

/-- A `DMA` instruction of the queue may issue to the DE of core `e`: every earlier ME and SE instruction has completed,
and a register set is free. -/
def State.deFree (s : State) (c e q : Nat) : Bool :=
  decide (s.meCount c q = 0) && decide (s.seCount c q = 0) && decide (s.seCount (twin c) q = 0) &&
  (s.de e).shadow.isNone && !s.recovering e .de

/-- The descriptor with the substituted addresses. -/
def dmaDescriptor (Q : Queue) (w raw : Nat) : Nat :=
  let f := Ins.flags w
  let d := if bit f 2 then putField raw 448 64 (Q.reg (Ins.sb w)).toNat else raw
  if bit f 1 then putField d 384 64 (Q.reg (Ins.sc w)).toNat else d

/-- A record of `n` bytes in the scratchpad, 64-byte aligned; or the cause that it faults with, and what was bad. -/
def State.dmaRecord (s : State) (e : Nat) (ue : List Nat) (a n : Nat) : (Nat × Option Nat) ⊕ Nat :=
  if a % 64 ≠ 0 then .inl (0x42, none)
  else
    match s.auxKeys e a n 64 with
    | none => .inl (0x41, none)
    | some keys =>
      match s.meetsBad ue keys with
      | some g => .inl (0x45, some g)
      | none => .inr (leNat (s.readKeys keys))

def State.dmaRefuse (s : State) (q w a : Nat) (x : Nat × Option Nat) : State :=
  (match x.2 with | some g => s.markBad g | none => s).faultIssue q w 3 x.1 a

/-! ### Messages of a transfer -/

/-- Send on a session; where it is not open, the message fails at once: as on a FAILED session (R327), or as the far end
refuses a message without a session (R331, log 36). -/
def State.sendOrFail (s : State) (k : Nat) (o : Outstanding) : State :=
  if (s.session k).st = .opened then s.sessionSend k o
  else s.failOutstanding o (if (s.session k).st = .failed then 0x46 else 0x41)

/-- What a transfer's messages are charged to. -/
def DeXfer.owner (t : DeXfer) (e : Nat) : Nat × Nat × Nat × Nat := (e, t.qid, t.pc, t.seq)

def State.sendWrite (s : State) (e p : Nat) (t : DeXfer) (x : Nat × Bytes) : State :=
  s.sendOrFail (State.sessKey p (DRec.cls t.desc) (moduleOfAddr x.1))
    { msg := bareMsg 0x01 (remoteAddr x.1) x.2.length x.2, de := some (t.owner e) }

def State.sendRead (s : State) (e p : Nat) (t : DeXfer) (x : Nat × Nat) : State :=
  let r := s.takeTag
  let s := r.2.modXfer e t.qid t.seq fun t => { t with reads := t.reads ++ [(r.1, x.1)] }
  s.sendOrFail (State.sessKey p 2 (moduleOfAddr x.1))
    { msg := { bareMsg 0x02 (remoteAddr x.1) x.2 [] with tag := r.1 }, de := some (t.owner e) }

/-! ### Start (R230, R235 to R248, R255) -/

/-- The block list of a transfer. -/
def State.blockList (s : State) (e : Nat) (t : DeXfer) : List Nat :=
  if DRec.listed t.desc then (span (DRec.listAddr t.desc) (16 * DRec.listLen t.desc)).map (s.spadByte e) else []

/-- The transfer moves its elements; what other modules answered is in `t.got`. -/
def State.runXfer (s : State) (e : Nat) (ue : List Nat) (t : DeXfer) : State :=
  let p := t.part s
  let list := s.readKeys (s.blockList e t)
  let x := (elements t.desc t.shape list).foldl (XRun.step p ue t.desc t.shape t.got) { s := s }
  let msgs := cutPieces (joinPieces x.remote)
  let t' := { t with
    started := true
    cause := x.cause
    written := x.written
    clamps := x.clamps
    sat := x.sat
    nonfinite := x.nonfinite
    remote := msgs.length
    reads := []
    got := []
    ranges := runs x.keys }
  let s := (x.s.corrected ue).modDe e fun E => { E with active := some t', progress := (E.progress + x.bytes t.desc) % 2 ^ 64 }
  let s := (s.addWork p 4 (x.bytes t.desc)).addWork p 6 (x.hostBytes t.desc)
  msgs.foldl (fun s m => s.sendWrite e p t' m) (s.noteWrites t.qid x.keys)

/-- Bytes that a bank transfer carries (R112). -/
def bankBytes : Nat := 6208

/-- A bank leaves for its receiver (R112, R255), or for the exchange unit (R354). -/
def State.startBank (s : State) (e : Nat) (t : DeXfer) : State :=
  let d := t.desc
  let lead := s.leadOf e
  let k := lead + DRec.srcHalf d
  let B := s.bank k (DRec.srcBank d)
  let put (s : State) (t : DeXfer) : State := s.modDe e fun E => { E with active := some t }
  if B.st ≠ .agreed then put s { t with started := true, cause := 0x49 }
  else
    let x : BankXfer :=
      { srcCore := e, qid := t.qid, ctx := t.ctx, pc := t.pc, seq := t.seq, dstCore := DRec.dstCore d,
        dstBank := DRec.dstBank d, dstHalf := DRec.dstHalf d,
        isExport := decide (DRec.dstCore d = lead) && decide (DRec.dstBank d = DRec.srcBank d) && decide (DRec.dstHalf d = DRec.srcHalf d)
        accs := B.accs.map Acc.outward, terms := B.terms, agree := B.agree.getD 0 }
    let s := s.setBank k (DRec.srcBank d) B.freed
    let s := (s.modDe e fun E => { E with progress := (E.progress + bankBytes) % 2 ^ 64 }).addWork (t.part s) 4 bankBytes
    put { s with bankFlight := s.bankFlight ++ [x] } { t with started := true, written := 256, bankWait := true }

/-- Every part of a transfer finds a way from the die of its engine; one that finds none never starts (R20, R22, log 90). -/
def State.routed (s : State) (e : Nat) (t : DeXfer) : Bool :=
  let d := t.desc
  if DRec.op d = 4 then (s.dieRoute (dieOf e) (dieOf (DRec.dstCore d))).isSome
  else [sideRange d t.shape true, sideRange d t.shape false].all fun r =>
    decide (r.2 = 0) || (s.finds (dieOf e) r.1 && s.finds (dieOf e) (r.1 + r.2 - 1))

/-- The transfer in the active set starts: a block list is read; data of other modules is asked for first. -/
def State.startXfer (s : State) (e : Nat) (ue : List Nat) : State :=
  match (s.de e).active with
  | none => s
  | some t =>
    if t.started || !s.routed e t then s
    else if DRec.op t.desc = 4 then s.startBank e t
    else
      match s.meetsBad ue (s.blockList e t) with
      | some g => (s.markBad g).modDe e fun E => { E with active := some { t with started := true, cause := 0x45 } }
      | none =>
        match remoteReads t.desc t.shape (s.readKeys (s.blockList e t)) with
        | [] => s.runXfer e ue t
        | rs =>
          let s := s.modDe e fun E => { E with active := some { t with started := true, remote := rs.length } }
          rs.foldl (fun s r => s.sendRead e (t.part s) t r) s

/-! ### Acceptance -/

/-- `OWN` in the status word of a descriptor (R229, R249). -/
def State.setOwn (s : State) (e a : Nat) (own : Bool) : State :=
  let b := (Mem.byte s.mem.cells (s.spadByte e (a + 7))).toNat
  s.spadWrite e (a + 7) [BitVec.ofNat 8 (b % 128 + 128 * b2n own)]

/-- The DE accepts the transfer; with an empty active set it starts (R230). -/
def State.acceptDma (s : State) (e k w a d h : Nat) (ue : List Nat) : State :=
  let Q := s.queue k
  let s := s.traceQueue k 3 0 (Ins.op w)
  let t : DeXfer :=
    { qid := k, ctx := Q.ctx.getD 0, pc := Q.pc, seq := Q.seq, ins := w, regs := operandRegs Q w,
      causal := (s.queue k).causal, descAddr := a, desc := d, shape := h }
  let s := (s.setQueue k (s.queue k).advance).setOwn e a true
  if (s.de e).active.isNone then (s.modDe e fun E => { E with active := some t }).startXfer e ue
  else s.modDe e fun E => { E with shadow := some t }

/-- Issue of a `DMA` instruction of the operation that the command names; a reserved operation is any command's. -/
def issueDma (op : Nat) (c : Core) (q : QIx) (ue : List Nat) : State → State :=
  issueOp 0x60 c q fun s k w =>
    let e := engineCore c.val w
    let a := Ins.addr w
    if !s.deFree c.val e k then s
    else
      match s.dmaRecord e ue a 64 with
      | .inl x => s.dmaRefuse k w a x
      | .inr raw =>
        let d := dmaDescriptor (s.queue k) w raw
        let p := (s.ctx ((s.queue k).ctx.getD 0)).part
        if DRec.op d ≠ op ∧ DRec.op d ≤ 4 then s
        else if !descriptorOk d then s.faultIssue k w 3 0x40 a
        else
          match (if DRec.op d = 4 then .inr 0 else s.dmaRecord e ue (DRec.shapeAddr d) 128) with
          | .inl x => s.dmaRefuse k w a x
          | .inr h =>
            match s.dmaCause e p a d h with
            | some cause => s.faultIssue k w 3 cause a
            | none => s.acceptDma e k w a d h ue

def execXfer (c : Core) (q : QIx) (ue : List Nat) : State → Res := engines (issueDma 0 c q ue)
def execGather (c : Core) (q : QIx) (ue : List Nat) : State → Res := engines (issueDma 1 c q ue)
def execScatter (c : Core) (q : QIx) (ue : List Nat) : State → Res := engines (issueDma 2 c q ue)
def execScatterAdd (c : Core) (q : QIx) (ue : List Nat) : State → Res := engines (issueDma 3 c q ue)
def execBank (c : Core) (q : QIx) : State → Res := engines (issueDma 4 c q [])

/-! ### The shadow transfer (R230, R231) -/

def rangesMeet (a b : List (Nat × Nat)) : Bool := a.any fun x => b.any (overlaps x)

/-- The later transfer must wait for the bound completion of the earlier one (R231). -/
def DeXfer.conflicts (later earlier : DeXfer) : Bool :=
  rangesMeet (later.sides.1 ++ later.sides.2) earlier.sides.2 || rangesMeet later.sides.2 earlier.sides.1

/-- The shadow transfer becomes active and starts; one that a recovery put back into the active set starts there. -/
def execShadowStart (c : Core) (ue : List Nat) : State → Res :=
  engines fun s =>
    let E := s.de c.val
    match E.active, E.shadow with
    | none, some t =>
      if E.waiting.any t.conflicts then s
      else (s.modDe c.val fun E => { E with active := some t, shadow := none }).startXfer c.val ue
    | some t, _ => if E.waiting.any t.conflicts then s else s.startXfer c.val ue
    | none, none => s

/-! ### Status word (R249, R250) -/

/-- The status word that a transfer leaves: sticky bits and counts gather, `OWN` as given. -/
def DeXfer.status (t : DeXfer) (old cause : Nat) (own : Bool) : Nat :=
  pack [(63, 1, b2n own), (62, 1, b2n (bit old 62 || decide (0 < t.clamps))), (61, 1, b2n (bit old 61 || t.sat)),
    (60, 1, b2n (bit old 60 || t.nonfinite)), (48, 8, cause), (32, 16, satAdd 16 (bits old 47 32) t.clamps), (0, 32, t.written)]

/-- Write the status word; `OWN` stays where the shadow transfer has the same descriptor (R250). A transfer with `COMPL` = 1
has none (R253). -/
def State.writeStatus (s : State) (e : Nat) (t : DeXfer) (cause : Nat) : State :=
  let old := leNat (s.spadRead e t.descAddr 8)
  let own := (s.de e).shadow.any fun u => decide (u.descAddr = t.descAddr)
  if DRec.compl t.desc then s else s.spadWrite e t.descAddr (leBytes 8 (t.status old cause own))

def execStatusWordWrite (c : Core) : State → Res :=
  engines fun s =>
    match (s.de c.val).active with
    | none => s
    | some t =>
      if t.started = false ∨ t.cause ≠ 0 ∨ !t.reads.isEmpty ∨ t.bankWait then s
      else
        let s := (s.writeStatus c.val t 0).traceQueue t.qid 5 0 t.descAddr
        s.modDe c.val fun E => { E with active := none, waiting := E.waiting ++ [t] }

/-! ### Bound completion (R202, R221, R251) -/

/-- A `SYNC` message (R317). -/
def syncMsg (obj opc n idx gen : Nat) : FabMsg :=
  bareMsg 0x04 (pack [(0, 16, obj), (16, 8, opc), (24, 16, n), (40, 8, idx)]) 8 (leBytes 8 (gen % 2 ^ 32))

/-- The bound signal of a transfer: to the object's die, or as a remote operation; with `COMPL` = 1, which only the hub's own
transfers have, a pulse to an event line of the hub instead (R253, log 95). -/
def State.raiseBound (s : State) (t : DeXfer) : State :=
  let d := t.desc
  let p := t.part s
  let n := if DRec.sigKind d = 1 then DRec.sigN d else 0
  if DRec.compl d then { s with sync := { s.sync with pulses := s.sync.pulses ++ [DRec.pulse d] } }
  else if DRec.sigKind d = 0 then s
  else if DRec.sigRemote d then
    s.sendOrFail (State.sessKey p 0 (DRec.sigModule d))
      { msg := syncMsg (DRec.sigObj d) (if DRec.sigKind d = 1 then 0x70 else 0x73) n 0 0, sig := some (t.qid, t.pc, t.seq), ctx := t.ctx }
  else
    { s with sync := { s.sync with bound := s.sync.bound ++ [
      { obj := DRec.sigObj d, kind := DRec.sigKind d, n := n, qid := t.qid, ctx := t.ctx, part := p, pc := t.pc, seq := t.seq,
        causal := t.causal, origin := 0 }] } }

/-- Every write of the `i`-th transfer that awaits its bound completion is visible. -/
def execBoundCompletion (c : Core) (i : Nat) : State → Res :=
  engines fun s =>
    match (s.de c.val).waiting[i]? with
    | none => s
    | some t =>
      if t.remote ≠ 0 ∨ t.cause ≠ 0 then s
      else
        let s := s.modDe c.val fun E => { E with waiting := dropAt E.waiting i }
        let s := s.traceQueue t.qid 6 0 t.descAddr
        (s.raiseShards (t.part s) t.ranges).raiseBound t

/-! ### Faults after acceptance (R254) -/

/-- The shadow transfer of a context is discarded without effect. -/
def State.dropShadow (s : State) (e x : Nat) : State :=
  s.modDe e fun E => { E with shadow := E.shadow.filter fun t => decide (t.ctx ≠ x) }

/-- What a faulted transfer has written is undefined (R254). -/
def State.undefineXfer (s : State) (t : DeXfer) : State := t.ranges.foldl (fun s r => s.havocWritten (span r.1 r.2)) s

/-- Charge the fault of a transfer to its queue (R194, R259). -/
def State.chargeXfer (s : State) (e : Nat) (t : DeXfer) : State :=
  ((s.undefineXfer t).dropShadow e t.ctx).faultLate t.qid t.pc t.seq t.ins 3 t.cause t.descAddr

/-- A transfer that met a fault stops: in the active set, or awaiting its bound completion. -/
def execDmaTransferFault (c : Core) : State → Res :=
  engines fun s =>
    let e := c.val
    match (s.de e).active.filter fun t => decide (t.cause ≠ 0) with
    | some t => ((s.writeStatus e t t.cause).modDe e fun E => { E with active := none }).chargeXfer e t
    | none =>
      match (s.de e).waiting.find? fun t => decide (t.cause ≠ 0) with
      | some t =>
        let old := leNat (s.spadRead e t.descAddr 8)
        let s := if DRec.compl t.desc then s else s.spadWrite e t.descAddr (leBytes 8 (putField old 48 8 t.cause))
        (s.modDe e fun E => { E with waiting := dropFirst (fun t => decide (t.cause ≠ 0)) E.waiting }).chargeXfer e t
      | none => s

end Sys2Proof.Machine
end

