-- ==== Sys2Proof/Machine/Memory.lean ====
section
/-! DEFINITION. Machine/Memory.lean: the commands of the module memory: patrol (R274, R275), sparing copies (R276 to R284)
and the clearing of units (R293, R294). -/

namespace Sys2Proof.Machine

/-! ### Patrol (R272, R274 to R276) -/

/-- A codeword of a line that reads as uncorrectable from before. -/
def State.badIn (s : State) (a : Nat) : Option Nat := s.meetsBad [] (span a 256)

/-- A patrol read of a line of the die's memory, which sub-channel `ch` serves: clean, one codeword corrected, or one
uncorrectable; which one of the line is open (log 16). A line that was uncorrectable is found so again. -/
def execPatrolScrub (d : Die) (ch line : Nat) (found : Fin 3) : State → Res :=
  engines fun s =>
    let a := d.val * 2 ^ 42 + 256 * line
    if dieBytes ≤ 256 * line ∨ (s.memUnit (unitOf a)).st = .free ∨ (s.lineAt a).1 ≠ ch then s
    else
      let s := if found.val = 1 then s.countCe d.val ch else s
      match s.badIn a with
      | some g => s.patrolUe g
      | none =>
        if found.val = 2 then
          let x := s.freeNum 3
          x.2.moduleUe (a + 32 * x.1)
        else s

/-- A patrol period ends: a WATCH sub-channel without a new uncorrectable line and below half of the threshold returns
to ACTIVE. -/
def execPatrolPeriodEnd (d : Die) (ch : Nat) : State → Res :=
  engines fun s =>
    if 256 ≤ ch then s
    else
      s.modSubch d.val ch fun x =>
        { x with
          st := if x.st = 1 ∧ x.newUe = false ∧ 2 * x.ce < s.mem.ceThreshold then 0 else x.st
          ce := 0
          newUe := false }

/-! ### Sparing copies (R276, R277, R280) -/

/-- Pending sub-channels in ascending order. -/
def DieMem.pending (d : DieMem) : List Nat := (d.subch.filter fun c => decide (c.2.st = 2)).map (·.1)

/-- After seven events a sub-channel that would be spared FAILED instead (R277). -/
def State.failSubch (s : State) (d c : Nat) : State :=
  ((s.modSubch d c fun x => { x with st := 5 }).modDie d fun x => { x with degraded := true }).cperSparing d c 5

/-- A copy starts, but not in a change of mode (R281). -/
def execSparingCopyStart (d : Die) : State → Res :=
  engines fun s =>
    let D := s.die d.val
    match D.pending with
    | [] => s
    | c :: _ =>
      if D.copying || s.power.modeChange.isSome then s
      else if 7 ≤ D.events.length then s.failSubch d.val c
      else s.startSparing d.val c

/-- Lines that the copy cannot correct: those found now, those known, and those of the poison list, in ascending physical
order. -/
def State.copyBad (s : State) (d f : Nat) (bad : List Nat) : List Nat :=
  let found := bad.filter fun g => decide (g < 2 ^ 56)
  let known := s.mem.bad.filter fun g => decide (g < 2 ^ 56) && decide (g / 2 ^ 42 = d)
  let here := (nub ((found ++ known ++ (s.die d).poison).map fun g => g / 256 * 256)).filter fun g =>
    decide (g / 2 ^ 42 = d) && decide ((s.lineAt g).1 = f)
  here.mergeSort fun a b => decide ((s.lineAt a).2 ≤ (s.lineAt b).2)

/-- Lines that a copy moves in a microsecond, at no more than 5.33 GB/s (R281, log 100). -/
def copyLines : Nat := 20

/-- The copy pointer moves on in a microsecond, over lines that need no correction; what it comes to is left to the end of
the copy (R280, log 100). -/
def State.copyOn (s : State) (d : Nat) : State :=
  let D := s.die d
  match D.events.find? D.runs with
  | none => s
  | some e =>
    let p := min e.live (e.ptr + copyLines)
    if (s.copyBad d e.f []).any fun g => decide ((s.lineAt g).2 < p) then s
    else s.modDie d fun x => { x with events := x.events.map fun y => if y = e then { e with ptr := p } else y }

/-- Every copy goes on while memory runs and no change of mode is in progress (R281). -/
def State.copiesOn (s : State) : State :=
  if s.powered && s.power.modeChange.isNone then (List.range 4).foldl State.copyOn s else s

/-- The copy of the running event ends: SPARED, or FAILED where the poison list of 4,096 lines would overflow. -/
def State.endCopy (s : State) (d : Nat) (e : Sparing) (bad : List Nat) : State :=
  let lines := s.copyBad d e.f bad
  let listed := (s.die d).poison
  let new := lines.filter fun g => !listed.contains g
  let put (s : State) (ls : List Nat) (e' : Sparing) : State :=
    let s := s.modDie d fun x => { x with
      poison := x.poison ++ ls.filter fun g => !x.poison.contains g
      events := x.events.map fun y => if y = e then e' else y }
    { s with mem := { s.mem with bad := s.mem.bad.filter fun g => !ls.contains (g / 256 * 256) } }
  let record (s : State) (ls : List Nat) : State :=
    ls.foldl (fun s g => s.cper { event := 0x0006, detail := g, survives := false, die := d }) s
  match new[4096 - listed.length]? with
  | none =>
    let s := (record (put s lines { e with complete := true }) lines).modSubch d e.f fun x => { x with st := 4 }
    (s.raiseFills d e).cperSparing d e.f 4
  | some g =>
    let p := (s.lineAt g).2
    let before := lines.takeWhile (· ≠ g)
    let s := record (put s before { e with ptr := p }) (before ++ [g])
    (s.raiseFills d { e with live := p }).failSubch d e.f

def execSparingCopyEnd (d : Die) (bad : List Nat) : State → Res :=
  engines fun s =>
    match (s.die d.val).events.find? (s.die d.val).runs with
    | none => s
    | some e => if s.power.modeChange.isSome then s else (s.corrected bad).endCopy d.val e bad

/-! ### Clearing of units (R292 to R294, R390, R518, R519) -/

/-- A core of a context is active: a queue in RUNNING, WAITING or ENDING, or an engine with an accepted operation. -/
def State.coreActive (s : State) (x k : Nat) : Bool :=
  ((s.ctx x).queues.any fun q => decide (q / 4 = k) &&
    (decide ((s.queue q).st = .running) || decide ((s.queue q).st = .waiting) || decide ((s.queue q).st = .ending))) ||
  !(s.me k).ops.isEmpty || !(s.se k).ops.isEmpty || (s.de k).active.isSome || (s.de k).shadow.isSome

/-- A clear for partition `p` on die `d` takes at most a quarter of the bandwidth (R294). -/
def State.slowClear (s : State) (d p : Nat) : Bool :=
  s.ctxs.any fun c => decide (c.2.st = .resident) && decide (c.2.part ≠ p) &&
    c.2.cores.any fun k => decide (dieOf k = d) && s.coreActive c.1 k

/-- Units enter CLEARING: each waits its turn on its die. -/
def State.enterClearing (s : State) (us : List Nat) (f : MemUnit → MemUnit) : State :=
  us.foldl (fun s u =>
    (s.modUnit u fun x => { f x with st := .clearing }).modDie (u / 155) fun x => { x with clearQ := x.clearQ ++ [u] }) s

/-- Nothing of a DESTROYING partition is left (R519). -/
def State.partGone (s : State) (p : Nat) : Bool :=
  (s.unitsOf p).isEmpty && s.fab.sessions.all (fun x => decide (sessPart x.1 ≠ p)) && s.ctxs.all fun c => decide (c.2.part ≠ p)

/-- Every unit of the partition is clear. -/
def State.allClear (s : State) (p : Nat) : Bool := (s.unitsOf p).all fun u => decide ((s.memUnit u).st = .owned)

/-- Units of a partition that are not being cleared. -/
def State.ownedUnits (s : State) (p : Nat) : List Nat := (s.unitsOf p).filter fun u => decide ((s.memUnit u).st = .owned)

/-- A STOP_INTERFACE goes on (R535): once the contexts are gone the units are cleared, and then it is answered,
unless a reset of the function has aborted its exchange (R531). -/
def State.settleStop (s : State) (p : Nat) : State :=
  let s :=
    if (s.part p).stopping = 1 then
      (s.enterClearing (s.ownedUnits p) fun x => { x with toOwned := true }).modPart p fun P => { P with stopping := 2 }
    else s
  if (s.part p).stopping = 2 ∧ s.allClear p then
    let t := s.modPart p fun P => { P with stopping := 0, tdi := 0, stopMute := false }
    if (s.part p).stopMute then t else t.out (.tdisp (partName p) 2 true)
  else s

/-- Release of a partition goes on (R519): once its contexts are gone its units are cleared to FREE; then it is FREE. -/
def State.settleRelease (s : State) (p : Nat) : State :=
  let s := s.enterClearing (s.ownedUnits p) fun x => { x with toOwned := false, lent := none, revoking := false }
  if s.partGone p then s.setPart p {} else s

/-- A CLEARING partition whose last unit is clear is READY (R518); a STOP_INTERFACE or a release goes on. -/
def State.settlePart (s : State) (p : Nat) : State :=
  let P := s.part p
  let idle := s.ctxs.all fun c => decide (c.2.part ≠ p)
  match P.st with
  | .clearing => if s.allClear p then s.modPart p fun P => { P with st := .ready } else s
  | .ready => if idle then s.settleStop p else s
  | .destroying => if idle then s.settleRelease p else s
  | .free => s

def execUnitClearStart (d : Die) : State → Res :=
  engines fun s =>
    let D := s.die d.val
    match D.clearing, D.clearQ with
    | none, u :: us =>
      let slow := s.slowClear d.val (s.memUnit u).part
      s.modDie d.val fun x => { x with clearQ := us, clearing := some (u, slow) }
    | _, _ => s

end Sys2Proof.Machine
end

