-- ==== Sys2Proof/Machine/Links.lean ====
section
/-! DEFINITION. Machine/Links.lean: the link layer of a Walien port: training, securing, lanes, flits, credits, retry and
link state (R295 to R314, R333 to R337). -/

namespace Sys2Proof.Machine

/-! ### Buffers and credits (R306, R308) -/

/-- Receive-buffer slots of a VC. -/
def bufferSize (vc : Nat) : Nat :=
  match vc with
  | 0 => 16
  | 3 => 8
  | _ => 128

/-- Key of a VC and dateline class. -/
def bufKey (vc dl : Nat) : Nat := 2 * vc + dl

/-- Credits at link up. -/
def fullCredits : Table Nat := (List.range 8).map fun k => (k, bufferSize (k / 2))

/-- What a flit in an output queue holds: a receive-buffer slot of port `w`, class `dl`. -/
def slotTag (w dl : Nat) : Nat := 1 + 2 * w + dl

/-- Input that an entry of an output queue came by: 0 local, port + 1 otherwise. -/
def inputOf (tag : Nat) : Nat := (tag + 1) / 2

/-- Free the receive-buffer slot that an entry holds; its credit is owed to the other end. -/
def State.freeSlot (s : State) (tag vc : Nat) : State :=
  if tag = 0 then s
  else
    let k := bufKey vc ((tag - 1) % 2)
    s.modPort ((tag - 1) / 2) fun p =>
      { p with rxUsed := Tbl.upd 0 p.rxUsed k (· - 1), owed := Tbl.upd 0 p.owed k (· + 1) }

/-- A link that starts afresh has full credits, empty buffers and no key, and numbers its flits from 0 (log 101). -/
def Port.fresh (p : Port) : Port :=
  { p with
    encrypted := false
    keyId := 0
    slots := 0
    rxSlots := 0
    ctl := []
    retry := []
    replay := []
    nextLseq := 0
    expLseq := 0
    tries := []
    retryDue := false
    secWait := false
    retraining := false
    rerouted := false
    tagFails := 0
    rxUsed := []
    owed := []
    credits := fullCredits
    deficit1 := 0
    deficit2 := 0 }

/-! ### Failure and link state (R305, R313, R314) -/

def State.cperPort (s : State) (event w x : Nat) (survives : Bool) : State :=
  s.cper { event := event, detail := pack [(0, 8, w), (8, 8, x)], survives := survives }

/-- Bitmap of this module's FAILED ports, and of those that traffic routes around (R333). -/
def State.failedPorts (s : State) : Nat :=
  ((List.range 6).filter fun w => decide ((s.port w).st = .failed) || (s.port w).rerouted).foldl (fun a w => a + 2 ^ w) 0

/-- Ports of module `id` that a map holds as failed. -/
def mapSet (map : List Nat) (id failed : Nat) : List Nat :=
  map.filter (fun k => decide (k / 8 ≠ id)) ++ ((List.range 6).filter fun w => failed.testBit w).map (8 * id + ·)

/-- Put the flits of a message into the output queue of a port, in the dateline class of that hop (R312). -/
def State.putFlits (s : State) (w : Nat) (m : FabMsg) : State :=
  s.modPort w fun p => { p with txq := p.txq ++ (msgFlits m p.encrypted (nextDl s.fab.dims s.myId w none 0)).map fun f => (0, f) }

/-- A link-state message goes out of every UP port but the one that it came by. -/
def State.floodTo (s : State) (m : FabMsg) (from_ : Option Nat) : State :=
  (List.range 6).foldl (fun s w =>
    if (s.port w).st = .up ∧ from_ ≠ some w then s.putFlits w { m with dst := (s.port w).peerId } else s) s

/-- A new map: the sessions of modules that have become unreachable fail (R315). -/
def State.setMap (s : State) (map : List Nat) : State :=
  let s := { s with fab := { s.fab with linkMap := map } }
  let gone := s.fab.sessions.filter fun x =>
    decide (x.2.st ≠ .closed) && decide (x.2.st ≠ .failed) && (route s.fab.dims map s.myId (sessPeer x.1)).isNone
  gone.foldl (fun s x => s.failSession x.1) s

/-- Announce the ports of this module (R314). -/
def State.announce (s : State) : State :=
  let f := s.failedPorts
  let m := { bareMsg 0x20 f 0 [] with src := s.myId, vc := 3 }
  ((s.setMap (mapSet s.fab.linkMap s.myId f)).out (.message m)).floodTo m none

/-- Flits that wait in a port's output queue, and those that came by it and wait elsewhere, are discarded. -/
def State.dropFlits (s : State) (w : Nat) : State :=
  let own := (s.port w).txq
  let s := own.foldl (fun s e => s.freeSlot e.1 e.2.vc) (s.modPort w fun p => { p with txq := [] })
  (List.range 6).foldl (fun s v =>
    s.modPort v fun p => { p with txq := p.txq.filter fun e => decide (inputOf e.1 ≠ w + 1) }) s

/-- A port enters FAILED. -/
def State.failPort (s : State) (w : Nat) : State :=
  let s := (s.dropFlits w).modPort w fun p => { p.fresh with st := .failed, lanes := 0 }
  (s.cperPort 0x0008 w 0 false).announce

/-! ### Training and identity (R296, R297, R333 to R336) -/

/-- The neighbour that R295 gives for a port, and its port. -/
def State.expectedPeer (s : State) (w : Nat) : Nat × Nat :=
  (neighbour s.fab.dims s.myId (w / 2) (w % 2 = 1), if w % 2 = 0 then w + 1 else w - 1)

/-- The identity that a port sends while it trains. -/
def State.identity (s : State) (w : Nat) : LinkCtl :=
  .identity s.myId (s.fab.moduleId.testBit 15) w (s.fab.external.testBit w)

/-- A port begins to train. -/
def State.beginTraining (s : State) (w : Nat) : State :=
  s.modPort w fun p => { p.fresh with st := .training, lanes := 0, ctl := [s.identity w] }

/-- The messages of a securing exchange wait to be sent (R334). -/
def State.secure (s : State) (w : Nat) : State :=
  s.modPort w fun p => { p with ctl := p.ctl ++ securing (decide (s.myId < p.peerId)) }

/-- A link is encrypted if either end marks it rack-external (R333). -/
def State.marked (s : State) (w : Nat) : Bool := s.fab.external.testBit w || (s.port w).peerExt

/-- A trained port whose link is to be encrypted passes SECURING first (R334). -/
def State.enterSecuring (s : State) (w : Nat) : State :=
  (s.modPort w fun p => { p with st := .securing, secWait := false }).secure w

/-- A trained port compares its neighbour, after SECURING where the link is to be encrypted; where it is not as its ends mark it, and
flits of the old form wait for their acknowledgement, it trains afresh. Once it is up again, traffic takes it again (R333). -/
def State.checkPort (s : State) (w : Nat) : State :=
  let p := s.port w
  if s.marked w ≠ p.encrypted then
    if p.encrypted || p.retry.any (fun f => decide (f.type = 1)) then s.beginTraining w else s.enterSecuring w
  else
  let st :=
    if !s.fab.moduleId.testBit 15 ∨ !p.peerValid then PortSt.waitId
    else if torusSize s.fab.dims (w / 2) = 1 ∨ s.expectedPeer w ≠ (p.peerId, p.peerPort) then .miswired
    else .up
  let t := s.modPort w fun p => { p with st := st, rerouted := p.rerouted && decide (st ≠ .up) }
  if p.rerouted ∧ st = .up then t.announce else t

/-- Repeat the check on ports that hold a neighbour's identity. -/
def State.recheckPorts (s : State) : State :=
  (List.range 6).foldl (fun s w =>
    let t := (s.port w).st
    if t = .up ∨ t = .miswired ∨ t = .waitId then s.checkPort w else s) s

/-- A port that has trained afresh goes on to the check. -/
def State.trained (s : State) (w : Nat) : State :=
  (s.modPort w fun p => { p with
    credits := fullCredits
    rxUsed := []
    owed := []
    encrypted := false
    keyId := 0
    slots := 0
    rxSlots := 0
    retraining := false }).checkPort w

/-- Lanes of a port that leaves out pairs: at most 8, 6 or 4. -/
def pairLanes (off : Nat) : Nat := 8 - 2 * ((List.range 4).filter fun j => off.testBit j).length

/-- Leave out one more pair for each of `picks`: which pair is left to the ends (log 101). -/
def leaveOut (off : Nat) : List Nat → Nat
  | [] => off
  | k :: ks =>
    let on := (List.range 4).filter fun j => !off.testBit j
    leaveOut (off + match on[k % on.length]? with | some j => 2 ^ j | none => 0) ks

/-- The width that training gives, of what the report says and what this end leaves out (R594). -/
def State.trainWidth (s : State) (w lanes : Nat) : State :=
  let off := (s.port w).pairsOff
  let n := (pairLanes off - lanes) / 2
  let picks := (List.range n).map fun i => Config.freeNat (s.free + i)
  { s with free := s.free + n }.modPort w fun p => { p with lanes := min lanes (pairLanes off), pairsOff := leaveOut off picks }

/-- UP ports whose marking changes retrain, and traffic routes around them (R333). -/
def State.retrainMarked (s : State) (ws : List Nat) : State :=
  if ws.isEmpty then s
  else (ws.foldl (fun s w => (s.beginTraining w).modPort w fun p => { p with rerouted := true }) s).announce

/-- A port ends training with what the link control flits said. One that retrains learns it, and goes on when the retrain ends; one in
WAIT_ID or UP learns it anew, as of an end that has a new ID or marking (R297, R333). -/
def execLinkUp (w : WPort) (rep : LinkReport) : State → Res :=
  fabric fun s =>
    let p := s.port w
    let learn (p : Port) : Port :=
      { p with peerId := rep.peerId % 2 ^ 11, peerValid := rep.peerValid, peerPort := rep.peerPort % 8, peerExt := rep.peerExternal }
    if p.st = .training ∧ p.retraining = false ∧ p.lowPower = false then
      ((s.modPort w learn).trainWidth w rep.lanes).trained w
    else if p.retraining then s.modPort w learn
    else if p.st = .waitId ∨ p.st = .up then
      let s := s.modPort w learn
      if p.st = .up ∧ s.marked w ≠ p.encrypted then s.retrainMarked [w.val] else s.checkPort w
    else s

/-- Key and nonce base of a direction, 0 from the end with the lower module ID, by HKDF from the shared secret and the hash of the
transcript (R334). -/
def linkKey (secret : Nat) (transcript : Bytes) (dir : Nat) : LinkKey :=
  { key := Config.hkdf secret transcript (2 * dir) % 2 ^ 256, base := Config.hkdf secret transcript (2 * dir + 1) % 2 ^ 96 }

/-- A fresh key in either direction. The shared secret is a free value, and so is the other end's part of the transcript
(log 11, log 13). -/
def State.freshKeys (s : State) (w : Nat) : State :=
  let starts := decide (s.myId < (s.port w).peerId)
  let transcript := Config.sha3 ((securing starts).flatMap LinkCtl.payload ++ freeBytes (s.free + 1) 64)
  let secret := Config.freeNat s.free
  { s with free := s.free + 65 }.modPort w fun p =>
    { p with
      encrypted := true
      slots := 0
      rxSlots := 0
      txKey := linkKey secret transcript (b2n !starts)
      rxKey := linkKey secret transcript (b2n starts) }

def execLinkSecuring (w : WPort) (ok : Bool) (reason : Nat) : State → Res :=
  fabric fun s =>
    let p := s.port w
    if p.st ≠ .securing ∨ p.secWait then s
    else if ok then (s.freshKeys w).checkPort w
    else (s.modPort w fun p => { p with secWait := true }).cperPort 0x0009 w reason false

/-- The exchange of a port whose verification failed starts again. -/
def execSecuringRetry (w : WPort) : State → Res :=
  fabric fun s =>
    if (s.port w).st = .securing ∧ (s.port w).secWait then (s.modPort w fun p => { p with secWait := false }).secure w else s

/-- Flit slots that a key serves (R336). -/
def keySlots : Nat := 2 ^ 36

/-- A message of a key exchange waits to be sent, which it is under the current key (R336). -/
def Port.exchanging (p : Port) : Bool := p.ctl.contains .encapsKey || p.ctl.contains .ciphertext

/-- At the agreed flit slot, once the key has served its slots and the exchange under it is over, the ends switch to the fresh key. -/
def execRekey (w : WPort) : State → Res :=
  fabric fun s =>
    let p := s.port w
    if (p.st = .up ∨ p.st = .waitId) ∧ p.encrypted ∧ keySlots ≤ p.slots ∧ !p.exchanging then (s.freshKeys w).modPort w fun p => { p with keyId := 1 - p.keyId % 2 } else s

/-- A write of `FAB_PORT_EXTERNAL` (R333). -/
def State.setExternal (s : State) (v : Nat) : State :=
  let old := s.fab.external
  let s := { s with fab := { s.fab with external := v } }
  s.retrainMarked ((List.range 6).filter fun w => decide ((s.port w).st = .up) && decide (old.testBit w ≠ v.testBit w))

/-! ### Lanes (R299, R300) -/

/-- Drops of a pair within the last hour, this one among them. -/
def recentDrops (drops : List (Nat × Nat)) (pair now : Nat) : Nat :=
  (drops.filter fun d => decide (d.1 = pair) && decide (now < d.2 + 3600000000)).length

/-- The port has active lanes and link control over them. -/
def Port.linked (p : Port) : Bool :=
  decide (p.st = .up) || decide (p.st = .waitId) || decide (p.st = .securing) || (decide (p.st = .training) && p.retraining)

/-- The ends agree in link control on a new width: it holds from the number of that LINKCTL flit on (log 101). -/
def Port.agreeWidth (p : Port) (off : Nat) : Port := { p with ctl := p.ctl ++ [.width off ((p.nextLseq + p.ctl.length) % 4096)] }

/-- The pairs that the port leaves out. -/
def Port.atWidth (p : Port) (off : Nat) : Port := { p with pairsOff := off, lanes := pairLanes off }

/-- Pairs left out once every width agreed has been switched to. -/
def Port.agreedOff (p : Port) : Nat :=
  p.ctl.foldl (fun off c => match c with | .width o _ => o | _ => off) p.pairsOff

/-- A bad lane drops its pair; with four lanes left it fails the port. A MISWIRED port carries nothing, and agrees on nothing: it
narrows at once (log 101). -/
def execLaneBad (w : WPort) (lane : Fin 8) : State → Res :=
  fabric fun s =>
    let p := s.port w
    let j := lane.val / 2
    let off := p.agreedOff
    if (!p.linked ∧ p.st ≠ .miswired) ∨ off.testBit j then s
    else if pairLanes off ≤ 4 then s.failPort w
    else
      let drops := p.drops ++ [(j, s.clockUs)]
      let dead := if 3 ≤ recentDrops drops j s.clockUs ∧ !p.pairsDead.testBit j then p.pairsDead + 2 ^ j else p.pairsDead
      let narrow (p : Port) : Port := if p.st = .miswired then p.atWidth (off + 2 ^ j) else p.agreeWidth (off + 2 ^ j)
      let s := s.modPort w fun p => { narrow p with drops := drops, pairsDead := dead }
      s.cperPort 0x0008 w (pairLanes off - 2) true

/-- The dropped pairs whose bit is 1 in `passed` carried their test: the port widens. -/
def execLanePairTest (w : WPort) (passed : Nat) : State → Res :=
  fabric fun s =>
    let p := s.port w
    if p.st ≠ .up ∧ p.st ≠ .waitId then s
    else
      let js := (List.range 4).filter fun j => p.agreedOff.testBit j && passed.testBit j && !p.pairsDead.testBit j
      if js.isEmpty then s
      else s.modPort w fun p => p.agreeWidth (js.foldl (fun a j => a - 2 ^ j) p.agreedOff)

/-! ### Sending (R304, R306, R308 to R310) -/

/-- What a flit carries in its header whatever its type: `LACK`, a credit return, and the key in use. -/
def Port.stamp (p : Port) (f : Flit) : Flit × Port :=
  let k := ((List.range 8).find? fun k => decide (0 < Tbl.get 0 p.owed k)).getD 0
  let n := min 31 (Tbl.get 0 p.owed k)
  ({ f with lack := (p.expLseq + 4095) % 4096, crVc := k / 2, crDl := k % 2, crN := n, keyId := p.keyId },
   { p with owed := Tbl.upd 0 p.owed k (· - n), slots := p.slots + 1 })

/-- A flit that is not routed. -/
def plainFlit (type : Nat) : Flit :=
  { type := type, vc := 0, dl := 0, dst := 0, src := 0, spart := 0, dpart := 0, sseq := 0, lseq := 0, lack := 0, crVc := 0, crDl := 0,
    crN := 0, len := 0, first := false, last := false, dirs := 0, keyId := 0, payload := [], intact := true }

/-- The first flit of a VC and class that holds a credit, by the rotation among inputs. -/
def Port.pickIn (p : Port) (vc dl : Nat) : Option (Nat × Flit) :=
  if Tbl.get 0 p.credits (bufKey vc dl) = 0 then none
  else
    let turn := p.inTurn / 8 ^ vc % 8
    (List.range 7).findSome? fun i => p.txq.find? fun e =>
      decide (e.2.vc = vc) && decide (e.2.dl = dl) && decide (inputOf e.1 = (turn + i) % 7)

/-- The flit of a VC that goes next: the dateline classes alternate. -/
def Port.pickVc (p : Port) (vc : Nat) : Option (Nat × Flit) :=
  let t := p.dlTurn / 2 ^ vc % 2
  match p.pickIn vc t with
  | some e => some e
  | none => p.pickIn vc (1 - t)

/-- The flit that the arbitration gives the slot, and the port with the deficits that it leaves. -/
def Port.pick (p : Port) (weights : Nat) : Option (Nat × Flit) × Port :=
  match p.pickVc 3, (if p.vc0Tokens = 0 then none else p.pickVc 0), p.pickVc 1, p.pickVc 2 with
  | some e, _, _, _ => (some e, p)
  | _, some e, _, _ => (some e, { p with vc0Tokens := p.vc0Tokens - 1 })
  | _, _, some a, some b =>
    if 0 < p.deficit1 then (some a, { p with deficit1 := p.deficit1 - 1 })
    else if 0 < p.deficit2 then (some b, { p with deficit2 := p.deficit2 - 1 })
    else (some a, { p with deficit1 := weights / 256 % 256 - 1, deficit2 := weights % 256 })
  | _, _, some a, none => (some a, p)
  | _, _, none, some b => (some b, p)
  | _, _, none, none => (none, p)

/-- What a flit slot takes of a queued flit: one that is longer than the port's flits goes in parts (log 101). -/
def Port.cut (p : Port) (f : Flit) : Flit × Option Flit :=
  let n := flitRoom p.encrypted
  if f.len ≤ n then (f, none)
  else
    ({ f with len := n, last := false, payload := f.payload.take n },
     some { f with len := f.len - n, first := false, payload := f.payload.drop n })

/-- Replace the first entry of an output queue that is `e`, by what is left of it. -/
def takeEntry (e : Nat × Flit) (rest : Option Flit) : List (Nat × Flit) → List (Nat × Flit)
  | [] => []
  | x :: xs => if x = e then (match rest with | some f => (e.1, f) :: xs | none => xs) else x :: takeEntry e rest xs

/-- The port after a routed flit leaves: its turns pass on, a credit is spent, the flit stays in the retry buffer. -/
def Port.sent (p : Port) (e : Nat × Flit) : Port :=
  let v := e.2.vc
  let c := p.cut e.2
  let t := p.dlTurn / 2 ^ v % 2
  let u := p.inTurn / 8 ^ v % 8
  { p with
    txq := takeEntry e c.2 p.txq
    credits := Tbl.upd 0 p.credits (bufKey v e.2.dl) (· - 1)
    dlTurn := p.dlTurn - t * 2 ^ v + (1 - e.2.dl % 2) * 2 ^ v
    inTurn := p.inTurn - u * 8 ^ v + (inputOf e.1 + 1) % 7 * 8 ^ v
    retry := p.retry ++ [{ c.1 with lseq := p.nextLseq }]
    nextLseq := (p.nextLseq + 1) % 4096 }

/-- The port after a link control flit leaves; a width that it agrees is switched to (R299, R300). -/
def Port.sentCtl (p : Port) (f : Flit) (c : LinkCtl) (rest : List LinkCtl) : Port :=
  let q := { p with ctl := rest, retry := p.retry ++ [f], nextLseq := (p.nextLseq + 1) % 4096 }
  match c with
  | .width off _ => q.atWidth off
  | _ => q

/-- The flit that a port replays next: one that is not UP has link control alone (R339), and one that retrains replays after it
(R305). -/
def Port.toReplay (p : Port) : Option Flit :=
  if p.retraining then none else p.replay.find? fun f => decide (p.st = .up) || decide (f.type = 3)

/-- A link control flit. -/
def ctlFlit (c : LinkCtl) (lseq : Nat) : Flit :=
  let bs := c.payload.take 224
  { plainFlit 3 with lseq := lseq, len := bs.length, payload := bs }

/-- A flit leaves, as fields and as bytes; a key that has now served its slots is exchanged under link control (R336). -/
def State.sendFlit (s : State) (w : WPort) (p : Port) (f : Flit) : State :=
  let r := p.stamp f
  let due := r.2.encrypted && decide (r.2.slots = keySlots)
  let c : LinkCtl := if s.myId < p.peerId then .encapsKey else .ciphertext
  ((s.modPort w fun _ => if due then { r.2 with ctl := r.2.ctl ++ [c] } else r.2).out (.flit w r.1)).out (.frame w (p.frame r.1))

/-- One flit slot of a trained or training port: a due `RETRY` first, then a replay, then link control, then, on a port that is UP,
the arbitration, else `IDLE`. A port that is not UP carries link control alone. -/
def execFlitSend (w : WPort) : State → Res :=
  fabric fun s =>
    let p := s.port w
    if !p.linked ∧ p.st ≠ .training then s
    else if p.retryDue then s.sendFlit w { p with retryDue := false } (plainFlit 2)
    else
      match p.toReplay with
      | some f => s.sendFlit w { p with replay := p.replay.erase f, tries := Tbl.upd 0 p.tries f.lseq (· + 1) } f
      | none =>
        if 1024 ≤ p.retry.length then s.sendFlit w p (plainFlit 0)
        else
          match p.ctl with
          | c :: cs => let f := ctlFlit c p.nextLseq; s.sendFlit w (p.sentCtl f c cs) f
          | [] =>
            match (if p.st = .up then p.pick s.fab.vcWeights else (none, p)) with
            | (some e, p') =>
              let c := p.cut e.2
              let t := s.sendFlit w (p'.sent e) { c.1 with lseq := p.nextLseq }
              if c.2.isSome then t else t.freeSlot e.1 e.2.vc
            | (none, p') => s.sendFlit w p' (plainFlit 0)

def execVc0TokenRefill (w : WPort) : State → Res :=
  fabric fun s => s.modPort w fun p => { p with vc0Tokens := min 64 (p.vc0Tokens + s.fab.vc0Cap) }

/-! ### Receiving (R303 to R306, R311 to R313, R337) -/

/-- A flit slot of the other direction passes (R335). -/
def Port.slotIn (p : Port) : Port := { p with rxSlots := p.rxSlots + 1 }

/-- `LACK` releases the retry buffer, and returned credits are taken. -/
def Port.heed (p : Port) (f : Flit) : Port :=
  let n := match p.retry with | [] => 0 | g :: _ => (f.lack + 1 + 4096 - g.lseq) % 4096
  let p := { p with credits := Tbl.upd 0 p.credits (bufKey f.crVc f.crDl) (· + f.crN) }
  if 0 < n ∧ n ≤ p.retry.length then
    let rest := p.retry.drop n
    { p with retry := rest, replay := p.replay.filter rest.contains, tries := p.tries.filter fun x => rest.any fun g => decide (g.lseq = x.1) }
  else p

/-- The tag check of the flit that an encrypted port expects fails (R337): a flit without a link sequence number is not sent again. -/
def Port.tagMiss (p : Port) (f : Flit) : Bool :=
  p.encrypted && f.tagBad && (decide (f.type = 1) || decide (f.type = 3)) && decide (f.lseq = p.expLseq)

/-- A flit that fails its checks: a `RETRY` is due, and 16 tag failures in a row of one flit fail the port. -/
def State.spoiled (s : State) (w : Nat) (f : Flit) : State :=
  let s := s.modPort w fun p => { p with retryDue := true, tagFails := if p.tagMiss f then p.tagFails + 1 else p.tagFails }
  if 16 ≤ (s.port w).tagFails then s.failPort w else s

/-- The flit passes its checks, and its type is one of R303. -/
def sound (f : Flit) : Bool := f.intact && decide (f.type < 4)

/-- Operations of messages that the hub knows (R317). -/
def knownMsg (op : Nat) : Bool :=
  (decide (1 ≤ op) && decide (op ≤ 6)) || (decide (0x10 ≤ op) && decide (op ≤ 0x13)) || decide (op = 0x20) ||
  (decide (0x30 ≤ op) && decide (op ≤ 0x3A))

/-- The message whose payload, header first, has arrived whole. -/
def closeMsg (m : FabMsg) : FabMsg :=
  let h := leNat (slice m.data 0 16)
  { m with op := bits h 127 120, tag := bits h 119 104, status := bits h 103 88, len := bits h 87 64, addr := bits h 63 0,
           data := m.data.drop 16 }

/-- A flit for this module joins its message; a whole message is delivered to the hub, or discarded and counted. -/
def State.assemble (s : State) (f : Flit) : State :=
  let k := ((f.src * 8 + f.spart) * 8 + f.dpart) * 4 + f.vc
  let none_ : FabMsg := bareMsg 0xFF 0 0 []
  let old := Tbl.get none_ s.fab.assembly k
  let m : FabMsg :=
    if f.first then
      { bareMsg 0 0 0 (f.payload.take f.len) with src := f.src, dst := f.dst, spart := f.spart, dpart := f.dpart, vc := f.vc, sseq := f.sseq, dirs := f.dirs }
    else { old with data := old.data ++ f.payload.take f.len }
  if m.op = 0xFF then s
  else if f.last then
    let c := closeMsg m
    let fab := { s.fab with assembly := Tbl.del s.fab.assembly k }
    if knownMsg c.op then { s with fab := { fab with rx := fab.rx ++ [c] } }
    else { s with fab := { fab with discarded := fab.discarded + 1 } }
  else { s with fab := { s.fab with assembly := Tbl.put s.fab.assembly k m } }

/-- An accepted `MSG` flit takes a receive-buffer slot, and is delivered, forwarded, or discarded before a FAILED link. -/
def State.forward (s : State) (w : Nat) (f : Flit) : State :=
  let s := s.modPort w fun p => { p with rxUsed := Tbl.upd 0 p.rxUsed (bufKey f.vc f.dl) (· + 1) }
  let tag := slotTag w f.dl
  match nextPort s.myId f.dst f.dirs with
  | none => (s.freeSlot tag f.vc).assemble f
  | some v =>
    if (s.port v).st = .failed then s.freeSlot tag f.vc
    else s.modPort v fun p => { p with txq := p.txq ++ [(tag, { f with dl := nextDl s.fab.dims s.myId v (some w) f.dl })] }

/-- A flit of one of the types `ts` reaches a port that has link control: a spoiled one, and one of no type of R303, fails its checks; of
a sound one the acknowledgement and the credits are taken, then what `take` does. -/
def State.receive (s : State) (w : Nat) (f : Flit) (type : Nat) (take : State → State) : State :=
  let p := s.port w
  if (!p.linked ∧ p.st ≠ .training) ∨ (f.type ≠ type ∧ f.type < 4) then s
  else
    let s := s.modPort w Port.slotIn
    if !sound f then s.spoiled w f else take (s.modPort w fun p => p.heed f)

/-- A flit with a link sequence number is accepted in order, or discarded. -/
def State.accept (s : State) (w : Nat) (f : Flit) (take : State → State) : State :=
  if f.lseq ≠ (s.port w).expLseq then s
  else take (s.modPort w fun p => { p with tagFails := 0, expLseq := (p.expLseq + 1) % 4096 })

/-- A message flit; a port that is not UP counts its slot, and accepts link control alone (R335, R339). -/
def execMsgFlitReceive (w : WPort) (f : Flit) : State → Res :=
  fabric fun s => s.receive w f 1 fun s => if (s.port w).st = .up then s.accept w f fun s => s.forward w f else s

def execIdleFlitReceive (w : WPort) (f : Flit) : State → Res :=
  fabric fun s => s.receive w f 0 id

/-- A link control flit: it takes its place in the link sequence; what it carries comes about at LINK_UP, LINK_SECURING,
LANE_BAD and LANE_PAIR_TEST. -/
def execLinkctlFlitReceive (w : WPort) (f : Flit) : State → Res :=
  fabric fun s => s.receive w f 3 fun s => s.accept w f id

/-- Replay from the oldest unacknowledged flit; a flit that 16 replays have not brought across makes the port retrain at its
width, with its retry buffer, or where it trains for the first time begin again to count (R304, R305). -/
def State.replayPort (s : State) (w : Nat) : State :=
  let p := s.port w
  if p.retry.isEmpty then s
  else if p.retry.any fun f => decide (16 ≤ Tbl.get 0 p.tries f.lseq) then
    s.modPort w fun p => { p with
      st := .training
      retraining := p.retraining || decide (p.st ≠ .training)
      replay := []
      tries := []
      ctl := p.ctl ++ [s.identity w] }
  else s.modPort w fun p => { p with replay := p.retry }

def execRetryFlitReceive (w : WPort) (f : Flit) : State → Res :=
  fabric fun s => s.receive w f 2 fun s => s.replayPort w

def execReplayTimeout (w : WPort) : State → Res :=
  fabric fun s =>
    if ((s.port w).linked ∨ (s.port w).st = .training) ∧ (s.port w).retraining = false then s.replayPort w else s

/-- Pairs that a FAILED port leaves out as it comes back: where what is left is under four lanes, it has tried all but those that stay
dropped until the next start (R300, log 101). -/
def Port.backOff (p : Port) : Nat := if pairLanes p.pairsOff < 4 then p.pairsDead else p.pairsOff

/-- A retrain ends: the port goes on with its retry buffer, through SECURING where its link is encrypted, or leaves FAILED, or enters
it. -/
def execPortRetrainEnd (w : WPort) (ok : Bool) : State → Res :=
  fabric fun s =>
    let p := s.port w
    if p.retraining = false ∧ p.rerouted = false then s
    else if p.st = .failed then
      if ok ∧ 4 ≤ pairLanes p.backOff then
        ((s.modPort w fun p => { p.fresh.atWidth p.backOff with st := .training, ctl := [s.identity w] }).trained w).announce
      else s.modPort w fun p => { p with retraining := false }
    else if p.st ≠ .training then s
    else if !ok then s.failPort w
    else if p.retraining then
      let s := s.modPort w fun p => { p with retraining := false, replay := p.retry }
      if s.marked w then s.enterSecuring w else s.checkPort w
    else if pairLanes p.backOff < 4 then s.failPort w
    else (s.modPort w fun p => p.atWidth p.backOff).trained w

def execFailedPortRetry (w : WPort) : State → Res :=
  fabric fun s => if (s.port w).st = .failed then s.modPort w fun p => { p with retraining := true } else s

/-- A flooded port state updates the map and is forwarded where it says something new (R314). -/
def execLinkState (w : WPort) (m : FabMsg) : State → Res :=
  fabric fun s =>
    let s := s.takeRx m
    let map := mapSet s.fab.linkMap m.src (m.addr % 64)
    if m.op ≠ 0x20 ∨ m.src = s.myId ∨ s.fab.linkMap.filter (fun k => decide (k / 8 = m.src)) = map.filter (fun k => decide (k / 8 = m.src)) then s
    else (s.setMap map).floodTo m (some w.val)

end Sys2Proof.Machine
end

