-- ==== Sys2Proof/Machine/Sessions.lean ====
section
/-! DEFINITION. Machine/Sessions.lean: the messages of the fabric (R315 to R332): opening and closing sessions, writes,
reads, remote synchronisation operations and their acknowledgements. A message that the flit layer delivered is taken off
its list; another is taken as brought from outside (log 17). -/

namespace Sys2Proof.Machine

/-! ### Opening and closing (R319 to R323, R330) -/

/-- Keys of the three sessions of a pair. -/
def pairKeys (p peer : Nat) : List Nat := [State.sessKey p 0 peer, State.sessKey p 1 peer, State.sessKey p 2 peer]

/-- A message of VC3 between a partition of this module and one of a peer. -/
def ctlMsg (op p peer rpart addr status : Nat) : FabMsg :=
  { bareMsg op addr 0 [] with dst := peer, spart := p, dpart := rpart, vc := 3, status := status }

/-- Partition of a peer module that a partition's list names, none if it names none (R501). -/
def Partition.peer (P : Partition) (m : Nat) : Option Nat :=
  let e := Tbl.get 0 P.peers m
  if e < 8 ∨ P.voidPeers.contains m then none else some (e % 8)

/-- This module opens the pair where its ID is the lower one (R320); without an ID it opens none (R43, R501). -/
def State.openPair (s : State) (p peer : Nat) : State :=
  match (s.part p).peer peer with
  | none => s
  | some r =>
    if s.fab.moduleId.testBit 15 ∧ s.myId < peer ∧ s.powered ∧ (s.part p).st = .ready then
      let s := (pairKeys p peer).foldl (fun s k =>
        (if (s.session k).st = .closed then s else s.failSession k).modSession k fun _ => { st := .opening, rpart := r }) s
      let s := { s with fab := { s.fab with openRetry := Tbl.del s.fab.openRetry (2048 * p + peer) } }
      s.sendMsg (ctlMsg 0x10 p peer r 0 0)
    else s

/-- A pair's sessions are OPEN with every `SSEQ` at 0 (R321). -/
def State.pairOpened (s : State) (p peer r : Nat) : State :=
  (pairKeys p peer).foldl (fun s k => (if (s.session k).st = .closed then s else s.failSession k).modSession k fun _ => { st := .opened, rpart := r }) s

/-- A CLOSING session with nothing outstanding is CLOSED (R319); what it holds for a frozen object is delivered first, and what it has
to acknowledge is acknowledged (R330). -/
def State.settleClosing (s : State) (k : Nat) : State :=
  let S := s.session k
  if S.st = .closing ∧ S.out.isEmpty ∧ S.waitq.isEmpty ∧ S.held.isEmpty ∧ S.ackDue.isEmpty then
    (s.modSession k fun _ => {}).settlePart (sessPart k)
  else s

/-- A microsecond begins: of the `ACK`s that are due, each session sends one (R325). -/
def State.acksOn (s : State) (now : Nat) : State :=
  if s.linksOn then
    s.fab.sessions.foldl (fun s x => if x.2.ackDue.isEmpty then s else (s.sendAck now x.1).settleClosing x.1) s
  else s

/-- Kentis closes a pair (R330): nothing new is sent, and what is outstanding drains. -/
def State.closePair (s : State) (p peer : Nat) : State :=
  let r := (s.session (State.sessKey p 0 peer)).rpart
  let one (s : State) (k : Nat) : State :=
    let S := s.session k
    if S.st = .opened then
      S.waitq.foldl (fun s o => s.failOutstanding o 0x46) (s.modSession k fun S => { S with st := .closing, waitq := [] })
    else if S.st = .closing then s
    else s.modSession k fun _ => {}
  let open_ := (pairKeys p peer).any fun k => decide ((s.session k).st = .opened)
  let s := (pairKeys p peer).foldl one s
  (pairKeys p peer).foldl State.settleClosing (if open_ then s.sendMsg (ctlMsg 0x12 p peer r 0 0) else s)

/-- The module turns an open request away with NOT_READY (R322). -/
def State.openBusy (s : State) : Bool :=
  !s.power.ready || !s.powered || !s.fab.moduleId.testBit 15 || decide (256 ≤ s.fab.openQ.length)

/-- The request names a partition of this module whose list names the requester (R321). -/
def State.namesPeer (s : State) (m : FabMsg) : Bool :=
  decide ((s.part m.dpart).st = .ready) && decide ((s.part m.dpart).peer m.src = some m.spart)

/-- The sessions of a pair whose request the queue accepts are OPENING (R319). -/
def State.awaitOpen (s : State) (m : FabMsg) : State :=
  if !s.namesPeer m then s
  else (pairKeys m.dpart m.src).foldl (fun s k =>
    if (s.session k).st = .closed ∨ (s.session k).st = .failed then s.modSession k fun _ => { st := .opening, rpart := m.spart } else s) s

/-- A refused open closes the sessions that wait for it (R319). -/
def State.openRefused (s : State) (p peer : Nat) : State :=
  (pairKeys p peer).foldl (fun s k => if (s.session k).st = .opening then s.modSession k fun _ => {} else s) s

def execOpenReq (m : FabMsg) : State → Res :=
  fabric fun s =>
    let s := s.takeRx m
    if m.op ≠ 0x10 then s
    else if s.openBusy then s.sendMsg (ctlMsg 0x11 m.dpart m.src m.spart (m.src % 64 * 4) St.notReady)
    else
      let q := s.fab.openQ ++ [m]
      { s.awaitOpen m with fab := { (s.awaitOpen m).fab with openQ := q, openHigh := max s.fab.openHigh q.length } }

/-- Kentis serves the oldest request (R321, R323). -/
def execOpenQueueServe : State → Res :=
  fabric fun s =>
    match s.fab.openQ with
    | [] => s
    | m :: ms =>
      let s := { s with fab := { s.fab with openQ := ms } }
      if s.namesPeer m then (s.pairOpened m.dpart m.src m.spart).sendMsg (ctlMsg 0x11 m.dpart m.src m.spart 0 St.ok)
      else (s.openRefused m.dpart m.src).sendMsg (ctlMsg 0x11 m.dpart m.src m.spart 0 St.noPeer)

/-- The reply opens the sessions, schedules a retry, or closes them (R319, R322). -/
def execOpenReply (m : FabMsg) : State → Res :=
  fabric fun s =>
    let s := s.takeRx m
    let k := State.sessKey m.dpart 0 m.src
    if m.op ≠ 0x11 ∨ (s.session k).st ≠ .opening ∨ (s.session k).rpart ≠ m.spart then s
    else if m.status = St.ok then s.pairOpened m.dpart m.src m.spart
    else if m.status = St.notReady then
      { s with fab := { s.fab with openRetry := Tbl.upd 0 s.fab.openRetry (2048 * m.dpart + m.src) (· + 1) } }
    else s.openRefused m.dpart m.src

/-- The time to retry has come: the hint after a first NOT_READY, 256 ms after a later one (R322). -/
def execOpenRetry (p : Part) (peer : Nat) : State → Res :=
  fabric fun s =>
    let k := State.sessKey p.val 0 peer
    if (s.session k).st = .opening ∧ Tbl.get 0 s.fab.openRetry (2048 * p.val + peer) ≠ 0 then
      s.sendMsg (ctlMsg 0x10 p.val peer (s.session k).rpart 0 0)
    else s

/-- The pair may be opened: all its sessions are CLOSED, or one of them has FAILED and none is opening or closing (R319). -/
def State.mayOpen (s : State) (p peer : Nat) : Bool :=
  let ts := (pairKeys p peer).map fun k => (s.session k).st
  ts.all (fun t => decide (t = .closed)) ||
    (ts.contains .failed && ts.all fun t => decide (t ≠ .opening) && decide (t ≠ .closing))

/-- Kentis opens a pair that its peer list names, and reopens one of which a session FAILED (R319, R320). -/
def execSessionReopen (p : Part) (peer : Nat) : State → Res :=
  fabric fun s => if s.mayOpen p.val peer then s.openPair p.val peer else s

/-- The peer closes: earlier messages are delivered, later ones refused (R330, R331). -/
def execClose (m : FabMsg) : State → Res :=
  fabric fun s =>
    let s := s.takeRx m
    if m.op ≠ 0x12 then s
    else
      let ks := (pairKeys m.dpart m.src).filter fun k => decide ((s.session k).rpart = m.spart)
      let s := ks.foldl (fun s k =>
        let S := s.session k
        if S.st = .opened ∨ S.st = .closing then
          (S.waitq.foldl (fun s o => s.failOutstanding o 0x46) (s.modSession k fun S => { S with st := .closing, waitq := [] })).settleClosing k
        else s.modSession k fun _ => {}) s
      s.sendMsg (ctlMsg 0x13 m.dpart m.src m.spart 0 0)

def execCloseReply (m : FabMsg) : State → Res :=
  fabric fun s =>
    let s := s.takeRx m
    if m.op ≠ 0x13 then s
    else
      let s := (pairKeys m.dpart m.src).foldl (fun s k => s.settleClosing k) s
      s.settlePart m.dpart

/-! ### Writes and reads (R264, R325, R389, R605) -/

/-- A unit is lent to the partition at the far end of the session. -/
def State.lentTo (s : State) (p module part a : Nat) : Bool :=
  let u := s.memUnit (unitOf a)
  decide (u.st = .owned) && decide (u.part = p) && u.lent.any fun l => decide (l.1 = module) && decide (l.2.1 = part)

/-- Every unit of a range belongs to the receiving partition, and a lent one to the session of its borrower. -/
def State.remoteOwns (s : State) (m : FabMsg) (a n : Nat) : Bool :=
  n = 0 || (decide (a / 2 ^ 42 = (a + n - 1) / 2 ^ 42) && decide (a % 2 ^ 42 + n ≤ dieBytes) &&
    (span (unitOf a) (unitOf (a + n - 1) + 1 - unitOf a)).all fun u =>
      s.owns m.dpart (unitBase u) || s.lentTo m.dpart m.src m.spart (unitBase u))

/-- Keys that a remote access of `n` bytes reaches, or none where it is refused. -/
def State.remoteKeys (s : State) (m : FabMsg) (n : Nat) : Option (List Nat) :=
  if !s.powered then none
  else if n = 0 then some []
  else
    match s.place m.addr with
    | some (.mem a) => if s.remoteOwns m a n then some (span a n) else none
    | some (.spad core off) =>
      if off + n ≤ s.spadLimit core ∧ s.hasCluster m.dpart (clusterOf core) then some ((span off n).map (s.spadByte core)) else none
    | some (.clm k off) => if off + n ≤ clmBytes ∧ s.hasCluster m.dpart k then some (span (clmKey k off) n) else none
    | _ => none

/-- The write of a `WRITE`; none where it is refused. -/
def State.remoteWrite (s : State) (m : FabMsg) : Option State :=
  match s.remoteKeys m m.data.length with
  | none => none
  | some keys => some ((s.writeAt keys m.data).raiseShards m.dpart [(m.addr, m.data.length)])

/-- A message for memory or an object of a die gets there: not through a failed hub link (R22), and no write to module memory
while a change of mode holds it (R26), and nothing past an exchange message that its session holds (R384). Until then it stays with the hub, which has its credits (log 90). -/
def State.admits (s : State) (m : FabMsg) : Bool :=
  !s.powered ||
  !((s.part m.dpart).xheld.any fun e => decide (sessAt e = sessAt m)) &&
  match m.op with
  | 0x01 => s.hubWrites m.addr
  | 0x02 => s.hubReaches m.addr
  | 0x04 => s.hubReaches (2 * 2 ^ 56 + 128 * bits m.addr 15 0)
  | _ => true

/-- A message that reaches its die is taken from the hub. -/
def arriving (m : FabMsg) (f : State → State) : State → Res :=
  fabric fun s => if s.admits m then f (s.takeRx m) else s

def execFabWrite (m : FabMsg) : State → Res :=
  arriving m fun s =>
    if m.op ≠ 0x01 then s
    else
      match s.arrival m with
      | .notOpen => s.ackMsg m 0x41
      | .duplicate => s.ackMsg m 0
      | .early => s
      | .next =>
        let s := (s.expectNext m).delivered m
        match s.remoteWrite m with
        | some t => t.ackMsg m 0
        | none => s.ackMsg m 0x41

/-- The data of a read, or its error. -/
def State.remoteRead (s : State) (m : FabMsg) : State × Nat × Bytes :=
  if m.addr / 2 ^ 56 = 2 then
    if s.powered ∧ s.objectsOwned m.dpart (m.addr % 2 ^ 56) m.len then
      (s, 0, (span (m.addr % 2 ^ 56) m.len).map fun o => ((s.obj (o / 128)).bytes[o % 128]?).getD 0)
    else (s, 0x141, [])
  else
    match s.remoteKeys m m.len with
    | none => (s, 0x141, [])
    | some keys =>
      match s.meetsBad [] keys with
      | some g => (if g < 2 ^ 56 then s.moduleUe g else s, 0x145, [])
      | none => (s, 0, s.readKeys keys)

/-- A read is acknowledged by its response; a refused one has an `ACK` of its own (R325). -/
def State.answerRead (s : State) (m : FabMsg) : State :=
  let r := s.remoteRead m
  if r.2.1 = 0x141 then r.1.ackMsg m 0x41
  else r.1.sendMsg { answerMsg m 0x03 r.2.1 with vc := 2, addr := m.addr, len := r.2.2.length, data := r.2.2 }

def execReadReq (m : FabMsg) : State → Res :=
  arriving m fun s =>
    if m.op ≠ 0x02 then s
    else
      match s.arrival m with
      | .notOpen => s.ackMsg m 0x41
      | .duplicate => s.answerRead m
      | .early => s
      | .next => ((s.expectNext m).delivered m).answerRead m

/-- Remove the outstanding messages that `p` selects. -/
def State.takeOut (s : State) (k : Nat) (p : Outstanding → Bool) : State :=
  let s := s.modSession k fun S => { S with out := S.out.filter fun o => !(p o), resends := 0, holding := false }
  (s.pumpSession k (s.session k).waitq.length).settleClosing k

/-- Data of a read reaches its transfer, which runs once all of it is there. -/
def State.readArrived (s : State) (o : Outstanding) (data : Bytes) : State :=
  match o.de with
  | none => s
  | some (e, q, _, seq) =>
    let s := s.modXfer e q seq fun t =>
      let a := ((t.reads.find? fun r => decide (r.1 = o.msg.tag)).map (·.2)).getD 0
      { t with reads := t.reads.filter fun r => decide (r.1 ≠ o.msg.tag), got := t.got ++ [(a, data)], remote := t.remote - 1 }
    match (s.de e).active with
    | some t => if t.qid = q ∧ t.seq = seq ∧ t.reads.isEmpty ∧ t.cause = 0 then s.runXfer e [] t else s
    | none => s

def execReadResp (m : FabMsg) : State → Res :=
  fabric fun s =>
    let s := s.takeRx m
    let k := State.sessKey m.dpart 2 m.src
    if m.op ≠ 0x03 then s
    else
      match (s.session k).out.find? fun o => decide (o.msg.op = 0x02) && decide (o.msg.tag = m.tag) with
      | none => s
      | some o =>
        let s := s.takeOut k fun x => decide (x = o)
        if m.status / 256 = 1 then s.failOutstanding o 0x45 else s.readArrived o m.data

/-! ### Remote synchronisation operations (R201 to R203, R225, R317, R328) -/

/-- The operation that a `SYNC` carries. -/
def syncOpOf (s : State) (m : FabMsg) : SyncOp :=
  { opc := bits m.addr 23 16, obj := bits m.addr 15 0, n := bits m.addr 39 24, idx := bits m.addr 47 40,
    gen := leNat (slice m.data 0 4), qid := 0, ctx := 0, part := m.dpart, pc := 0, seq := 0,
    causal := (s.part m.dpart).causal, remote := some (m.src, m.spart) }

/-- The object that a `SYNC` addresses is frozen (R225, R226, R605). -/
def State.syncFrozen (s : State) (m : FabMsg) : Bool :=
  let o := bits m.addr 15 0
  if s.powered then (s.obj o).frozen else decide ((Tbl.get {} s.power.keptObjs o).kind ≠ .free)

/-- The object takes or refuses the operation, and the message is acknowledged (R203, R325). -/
def State.takeSync (s : State) (m : FabMsg) : State :=
  let s := s.delivered m
  let p := syncOpOf s m
  if p.opc ≠ 0x70 ∧ p.opc ≠ 0x73 ∧ p.opc ≠ 0x77 then s.ackMsg m 0x38
  else
    let r := s.takeOp p
    match r.2 with
    | some e => r.1.ackMsg m e.1
    | none => r.1.ackMsg m 0

def holdMsg (m : FabMsg) : FabMsg := answerMsg m 0x06 0

/-- Held messages of a session are delivered in order, up to one whose object is still frozen. -/
def State.drainHeld (s : State) (k : Nat) : Nat → State
  | 0 => s
  | n + 1 =>
    match (s.session k).held with
    | [] => s
    | m :: ms => if s.syncFrozen m then s else ((s.modSession k fun S => { S with held := ms }).takeSync m).drainHeld k n

/-- Objects have been unfrozen or freed: what was held for them is delivered. -/
def State.releaseHeld (s : State) : State :=
  s.fab.sessions.foldl (fun s x => if x.2.held.isEmpty then s else (s.drainHeld x.1 x.2.held.length).settleClosing x.1) s

def execSync (m : FabMsg) : State → Res :=
  arriving m fun s =>
    let k := sessAt m
    if m.op ≠ 0x04 then s
    else
      match s.arrival m with
      | .notOpen => s.ackMsg m 0x41
      | .duplicate => if (s.session k).held.any fun x => decide (x.sseq = m.sseq) then s.sendMsg (holdMsg m) else s.ackMsg m 0
      | .early => s
      | .next =>
        let s := s.expectNext m
        if !(s.session k).held.isEmpty || s.syncFrozen m then
          (s.modSession k fun S => { S with held := S.held ++ [m] }).sendMsg (holdMsg m)
        else s.takeSync m

/-! ### Acknowledgements (R325 to R328) -/

/-- An acknowledged message is done: a transfer counts one message less. -/
def State.acked (s : State) (o : Outstanding) : State :=
  match o.de with
  | some (e, q, _, seq) => s.modXfer e q seq fun t => { t with remote := t.remote - 1 }
  | none => s

/-- A cumulative acknowledgement: everything up to `SSEQ` but reads, which their responses acknowledge. -/
def execAck (m : FabMsg) : State → Res :=
  fabric fun s =>
    let s := s.takeRx m
    let k := State.sessKey m.dpart (m.addr % 4) m.src
    let covered (o : Outstanding) : Bool := decide ((m.sseq + 2 ^ 14 - o.msg.sseq) % 2 ^ 14 < 256) && decide (o.msg.op ≠ 0x02 ∨ o.msg.sseq = m.sseq ∧ m.status / 256 = 1)
    let done := (s.session k).out.filter covered
    if m.op ≠ 0x05 ∨ done.isEmpty then s
    else
      let s := s.takeOut k covered
      done.foldl (fun s o =>
        if m.status / 256 = 1 ∧ o.msg.sseq = m.sseq then s.failOutstanding o (m.status % 256) else s.acked o) s

def execHold (m : FabMsg) : State → Res :=
  fabric fun s =>
    let s := s.takeRx m
    let k := State.sessKey m.dpart (m.addr % 4) m.src
    if m.op = 0x06 ∧ (s.session k).out.any (fun o => decide (o.msg.sseq = m.sseq)) then
      s.modSession k fun S => { S with holding := true }
    else s

/-- 100 µs without progress: what is outstanding is sent again on the route that it had; after 16 resends the session
fails (R311, R327). -/
def execSessionResendTimeout (p : Part) (cls peer : Nat) : State → Res :=
  fabric fun s =>
    let k := State.sessKey p.val cls peer
    let S := s.session k
    if (S.st ≠ .opened ∧ S.st ≠ .closing) ∨ S.out.isEmpty ∨ S.holding then s
    else if 16 ≤ S.resends then (s.failSession k).settlePart p.val
    else
      let s := s.modSession k fun S => { S with resends := S.resends + 1 }
      S.out.foldl (fun s o => s.emit o.msg) s

end Sys2Proof.Machine
end

