-- ==== Sys2Proof/Machine/SyncIssue.lean ====
section
/-! DEFINITION. Machine/SyncIssue.lean: issue of the synchronisation instructions (R168, R178, R200, R202, R209, R212, R214). -/

namespace Sys2Proof.Machine

/-- Object that the word names: SA[15:0] or `IMM`[15:0]. -/
def syncObjOf (Q : Queue) (w : Nat) : Nat :=
  (if bit (Ins.flags w) 1 then (Q.reg (Ins.sa w)).toNat else Ins.imm w) % 2 ^ 16

/-- The operation that a queue issues. -/
def State.opOf (s : State) (k w : Nat) : SyncOp :=
  let Q := s.queue k
  let c := Q.ctx.getD 0
  let bar := Ins.op w = 0x76 ∨ Ins.op w = 0x77
  let counter := Ins.op w ≤ 0x72
  { opc := Ins.op w
    obj := syncObjOf Q w
    n := if counter then Ins.aux w % 2 ^ 16 else 0
    idx := if bar then Ins.aux w % 2 ^ 8 else 0
    gen := if bar then (Q.reg (Ins.sb w)).toNat % 2 ^ 32 else 0
    waitOnly := decide (Ins.op w = 0x76) && bit (Ins.flags w) 2
    qid := k
    ctx := c
    part := (s.ctx c).part
    pc := Q.pc
    seq := Q.seq
    causal := Q.causal }

/-- The instruction has issued: its record is written, the queue goes on, and a wait holds it. -/
def State.issued (s : State) (k : Nat) (p : SyncOp) : State :=
  if p.isWait then s.setQueue k { (s.queue k).advance with st := .waiting, wait := some { op := p } }
  else s.setQueue k (s.queue k).advance

/-- Remote operations: `SIG`, `FSET` and `BARNB` on the signal session of the module that the word names (R202, R203). -/
def State.sendSync (s : State) (p : SyncOp) (module : Nat) : State :=
  s.sendOrFail (State.sessKey p.part 0 module)
    { msg := syncMsg p.obj p.opc p.n p.idx p.gen, sig := some (p.qid, p.pc, p.seq), ctx := p.ctx }

def issueSync (op : Nat) (c : Core) (q : QIx) : State → State :=
  issueOp op c q fun s k w =>
    let remote := bit (Ins.flags w) 0
    let obj := syncObjOf (s.queue k) w
    if remote ∧ op ≠ 0x70 ∧ op ≠ 0x73 ∧ op ≠ 0x77 then s.faultIssue k w 4 0x38 (syncDetail obj (0x38, op))
    else
      let s := s.traceQueue k 1 0 obj
      let p := s.opOf k w
      let s := s.issued k p
      if remote then s.sendSync p (bits (Ins.imm w) 26 16)
      else { s with sync := { s.sync with flight := s.sync.flight ++ [p] } }

def execSig (c : Core) (q : QIx) : State → Res := engines (issueSync 0x70 c q)
def execWaitacq (c : Core) (q : QIx) : State → Res := engines (issueSync 0x71 c q)
def execDec (c : Core) (q : QIx) : State → Res := engines (issueSync 0x72 c q)
def execFset (c : Core) (q : QIx) : State → Res := engines (issueSync 0x73 c q)
def execFclr (c : Core) (q : QIx) : State → Res := engines (issueSync 0x74 c q)
def execFwait (c : Core) (q : QIx) : State → Res := engines (issueSync 0x75 c q)
def execBar (c : Core) (q : QIx) : State → Res := engines (issueSync 0x76 c q)
def execBarnb (c : Core) (q : QIx) : State → Res := engines (issueSync 0x77 c q)

end Sys2Proof.Machine
end

