-- ==== Sys2Proof/Machine/Exchange.lean ====
section
/-! DEFINITION. Machine/Exchange.lean: parameters, geometry, blocks and rings of the exchange unit (R340 to R383). Where the
chapter gives no layout of a message's data or no order of its messages, log 18 says what the model takes. -/

namespace Sys2Proof.Machine

/-! ### Instance block (R464) and round block (R345) -/
namespace IBlk
def srcAddr (b : Nat) : Nat := bits b 2047 1984
def dstAddr (b : Nat) : Nat := bits b 1983 1920
def stageAddr (b : Nat) : Nat := bits b 1919 1856
def agreeAddr (b : Nat) : Nat := bits b 1855 1792
def grecAddr (b : Nat) : Nat := bits b 1791 1728
def paramAddr (b : Nat) : Nat := bits b 1727 1664
def statusAddr (b : Nat) : Nat := bits b 1663 1600
def statsAddr (b : Nat) : Nat := bits b 1599 1536
def verAddr (b : Nat) : Nat := bits b 1535 1472
def arrivalAddr (b : Nat) : Nat := bits b 1471 1408
def routeAddr (b : Nat) : Nat := bits b 1407 1344
def rounds (b : Nat) : Nat := bits b 511 480
def tokens (b : Nat) : Nat := bits b 479 448
def rowBytes (b : Nat) : Nat := bits b 447 416
def count (b : Nat) : Nat := bits b 415 387
def tensor (b : Nat) : Nat := bits b 383 360
def epoch (b : Nat) : Nat := bits b 359 344
def agreeBase (b : Nat) : Nat := bits b 343 328
def timeoutMs (b : Nat) : Nat := bits b 327 312
def doneN (b : Nat) : Nat := bits b 311 296
def trigObj (b : Nat) : Nat := bits b 295 280
def agreeObj (b : Nat) : Nat := bits b 279 264
def pieceObj (b : Nat) : Nat := bits b 263 248
def doneObj (b : Nat) : Nat := bits b 247 232
def capacity (b : Nat) : Nat := bits b 231 216
def experts (b : Nat) : Nat := bits b 215 203
def kRoute (b : Nat) : Nat := bits b 202 199
def noiseT (b : Nat) : Int := signed 10 (bits b 198 189)
def owner (b : Nat) : Nat := 4 * bits b 188 181 + bits b 180 179
def ctx (b : Nat) : Nat := bits b 178 169
def pair (b : Nat) : Nat := bits b 168 163
def op (b : Nat) : Nat := bits b 162 159
def group (b : Nat) : Nat := bits b 158 155
def bfx (b : Nat) : Bool := bit b 154
def srcKind (b : Nat) : Nat := bits b 153 152
def srcFmt (b : Nat) : Nat := bits b 151 150
def dstFmt (b : Nat) : Nat := bits b 149 148
def verMode (b : Nat) : Nat := bits b 147 146
def noiseEn (b : Nat) : Bool := bit b 145
/-- `ALL_REDUCE` or `REDUCE_SCATTER`. -/
def reduces (b : Nat) : Bool := decide (op b = 1) || decide (op b = 2)
def tiles (b : Nat) : Nat := count b / 256
end IBlk

namespace RBlk
def step (r : Nat) : Nat := bits r 511 448
def expAddr (r : Nat) : Nat := bits r 447 384
def t (r : Nat) : Int := signed 10 (bits r 383 374)
def h (r : Nat) : Nat := if bits r 373 370 = 0 then 2 else bits r 373 370
def bfxH (r : Nat) : Nat := bits r 369 367
end RBlk

/-- The signature of a round (R344, R465): the equal parameters, then those of the round block. -/
def roundSig (b r : Nat) : Nat :=
  let expert := if IBlk.op b = 6 ∨ IBlk.op b = 7 then
    leBytes 2 (IBlk.experts b) ++ leBytes 2 (IBlk.capacity b) ++ leBytes 1 (IBlk.kRoute b) ++ leBytes 4 (IBlk.tokens b) ++ leBytes 4 (IBlk.rowBytes b) else []
  crc32c (leBytes 1 (IBlk.op b) ++ leBytes 1 (IBlk.group b) ++ leBytes 2 (IBlk.epoch b) ++ leBytes 1 (b2n (IBlk.bfx b)) ++
    leBytes 3 (IBlk.tensor b) ++ leBytes 1 (IBlk.srcKind b) ++ leBytes 1 (IBlk.srcFmt b) ++ leBytes 4 (IBlk.count b) ++
    leBytes 1 (IBlk.dstFmt b) ++ leBytes 2 (IBlk.agreeBase b) ++ leBytes 4 (IBlk.rounds b) ++ leBytes 2 (IBlk.timeoutMs b) ++
    leBytes 1 (b2n (IBlk.noiseEn b)) ++ leBytes 2 (bits b 198 189) ++ leBytes 1 (IBlk.verMode b) ++ expert ++
    leBytes 8 (RBlk.step r) ++ leBytes 2 (bits r 383 374) ++ leBytes 1 (bits r 373 370) ++ leBytes 1 (bits r 369 367))

/-! ### Geometry (R340, R358) -/

def Layout.size (l : Layout) (d : Nat) : Nat :=
  match d with
  | 0 => l.px
  | 1 => l.py
  | _ => l.pz

def Layout.members (l : Layout) : Nat := l.px * l.py * l.pz

/-- Coordinate of a rank in the box; x runs fastest. -/
def Layout.pos (l : Layout) (r d : Nat) : Nat :=
  match d with
  | 0 => r % l.px
  | 1 => r / l.px % l.py
  | _ => r / (l.px * l.py)

/-- The rank with coordinate `d` changed to `v`. -/
def Layout.withRank (l : Layout) (r d v : Nat) : Nat :=
  match d with
  | 0 => r - l.pos r 0 + v
  | 1 => r - l.pos r 1 * l.px + v * l.px
  | _ => r - l.pos r 2 * (l.px * l.py) + v * (l.px * l.py)

/-- Module of a rank; the box may wrap around the torus. -/
def Layout.module (l : Layout) (dims r : Nat) : Nat :=
  (List.range 3).foldl (fun id d => withCoord id d ((coord l.origin d + l.pos r d) % torusSize dims d)) l.origin

def Layout.modules (l : Layout) (dims : Nat) : List Nat := (List.range l.members).map (l.module dims)

/-- Rank of a module, none outside the box. -/
def Layout.rankOf (l : Layout) (dims id : Nat) : Option Nat :=
  (List.range l.members).find? fun r => decide (l.module dims r = id)

def State.rankIn (s : State) (l : Layout) : Nat := (l.rankOf s.fab.dims s.myId).getD 0

/-- Half `k` of the slice of rank `r` of `n` blocks among `p` members: first block, and the block after the last. -/
def halfSlice (n p r k : Nat) : Nat × Nat :=
  let lo := r * n / p
  let hi := (r + 1) * n / p
  let mid := lo + (hi - lo + 1) / 2
  if k = 0 then (lo, mid) else (mid, hi)

/-! ### Rings (R370) -/

/-- Neighbour of a position in a ring of `p`, upwards for half 0 and downwards for half 1. -/
def ringNext (p c : Nat) (half : Nat) : Nat := if half = 0 then (c + 1) % p else (c + p - 1) % p

/-- Hops from position `a` to `b` in the direction of a half. -/
def ringHops (p a b half : Nat) : Nat := if half = 0 then (b + p - a) % p else (a + p - b) % p

/-- Progress bits of a half slice: partial sums received, and sent, by dimension; the whole slice is here; it was sent
on, by dimension. -/
def gotBit (d : Nat) : Nat := d
def sentBit (d : Nat) : Nat := 3 + d
def haveBit : Nat := 6
def spreadBit (d : Nat) : Nat := 7 + d

def withBit (g i : Nat) : Nat := if g.testBit i then g else g + 2 ^ i

/-- One message to send: dimension, and whether it spreads a finished slice. -/
abbrev Hop := Nat × Bool

structure RingAt where
  layout : Layout
  me : Nat
  rank : Nat
  half : Nat
  /-- The member's own contribution is in, sums are formed, and finished slices are spread. -/
  loaded : Bool
  reduce : Bool
  spread : Bool

namespace RingAt
def active (a : RingAt) (d : Nat) : Bool := decide (1 < a.layout.size d)
def at_ (a : RingAt) (d : Nat) : Bool := !a.active d || decide (a.layout.pos a.me d = a.layout.pos a.rank d)
/-- The member takes part in dimension `d` of the reduction of this slice. -/
def takesPart (a : RingAt) (d : Nat) : Bool := (List.range d).all a.at_
def ready (a : RingAt) (g d : Nat) : Bool := a.loaded && (List.range d).all fun e => !a.active e || g.testBit (gotBit e)
def isOwner (a : RingAt) : Bool := (List.range 3).all a.at_
def first (a : RingAt) (d : Nat) : Bool :=
  decide (a.layout.pos a.me d = ringNext (a.layout.size d) (a.layout.pos a.rank d) a.half)

/-- The partial sum is to leave in dimension `d`. -/
def mustSend (a : RingAt) (g d : Nat) : Bool :=
  a.reduce && a.active d && !a.at_ d && a.takesPart d && a.ready g d && (a.first d || g.testBit (gotBit d)) && !g.testBit (sentBit d)

/-- The dimension in which a finished slice reaches this member; 3 for its owner. -/
def spreadDim (a : RingAt) : Nat := ((List.range 3).find? fun d => !a.at_ d).getD 3

def mustSpread (a : RingAt) (g d : Nat) : Bool :=
  a.spread && g.testBit haveBit && a.active d && !g.testBit (spreadBit d) &&
  (decide (d < a.spreadDim) ||
    (decide (d = a.spreadDim) && decide (ringNext (a.layout.size d) (a.layout.pos a.me d) a.half ≠ a.layout.pos a.rank d)))

/-- What is to be sent now, and the progress after it. -/
def flush (a : RingAt) (g : Nat) : Nat × List Hop :=
  let out := (List.range 3).filter (a.mustSend g)
  let g := out.foldl (fun g d => withBit g (sentBit d)) g
  let whole := a.isOwner && (if a.reduce then a.ready g 3 else a.loaded)
  let g := if whole then withBit g haveBit else g
  let sp := (List.range 3).filter (a.mustSpread g)
  (sp.foldl (fun g d => withBit g (spreadBit d)) g, out.map (·, false) ++ sp.map (·, true))

/-- The member has nothing more to do for this half slice. -/
def finished (a : RingAt) (g : Nat) : Bool :=
  (!a.reduce || (List.range 3).all fun d => !a.active d || a.at_ d || !a.takesPart d || g.testBit (sentBit d)) &&
  (g.testBit haveBit || (!a.isOwner && !a.spread))

/-- `STEP_IDX` of a message: dimension, and step within the ring, from 32 on for the spreading of slices. -/
def stepIdx (a : RingAt) (h : Hop) : Nat :=
  let p := a.layout.size h.1
  let c := a.layout.pos a.me h.1
  let o := a.layout.pos a.rank h.1
  h.1 * 64 + (if h.2 then 32 + ringHops p o c a.half + 1 else ringHops p (ringNext p o a.half) c a.half + 1)

def dest (a : RingAt) (h : Hop) : Nat :=
  a.layout.withRank a.me h.1 (ringNext (a.layout.size h.1) (a.layout.pos a.me h.1) a.half)
end RingAt

/-! ### Blocks (R359, R362, R366) -/

/-- What a message of the rings carries. -/
inductive XKind where
  | roll | agree | wx | bfx | probe | noise | piece
deriving DecidableEq, Repr

def XKind.code : XKind → Nat
  | .roll => 0x30
  | .agree => 0x31
  | .wx => 0x32
  | .bfx => 0x33
  | .probe => 0x34
  | .noise => 0x32
  | .piece => 0x35

/-- Elements of a block, and a bitmap over them. -/
def blockElems (b : Nat) : List Nat := span (32 * b) 32

def bitmap (f : Nat → Bool) (b : Nat) : Bytes :=
  leBytes 4 ((List.range 32).foldl (fun a i => a + b2n (f (32 * b + i)) * 2 ^ i) 0)

/-- Smallest byte count that holds every value. -/
def wxLen (vs : List Int) : Nat :=
  ((List.range 17).find? fun l => vs.all fun v =>
    if l = 0 then decide (v = 0) else decide (-(2 ^ (8 * l - 1)) ≤ v) && decide (v < 2 ^ (8 * l - 1))).getD 16

def Inst.sum (x : Inst) (e : Nat) : Int := Tbl.get 0 x.sums e
def Inst.flag (x : Inst) (e : Nat) : Nat := Tbl.get 0 x.flags e
def Inst.exact (x : Inst) (e : Nat) : Option Int := let m := Tbl.get (-32768) x.maxe e; if m = -32768 then none else some m
def Inst.rel (x : Inst) (k : Nat) : Int := Tbl.get (-128) x.dmax k

def Inst.setSum (x : Inst) (e : Nat) (v : Int) : Inst := { x with sums := Tbl.set 0 x.sums e v }
def Inst.setFlag (x : Inst) (e v : Nat) : Inst := { x with flags := Tbl.set 0 x.flags e v }
def Inst.setExact (x : Inst) (e : Nat) (v : Option Int) : Inst := { x with maxe := Tbl.set (-32768) x.maxe e (v.getD (-32768)) }
def Inst.setRel (x : Inst) (k : Nat) (v : Int) : Inst := { x with dmax := Tbl.set (-128) x.dmax k v }

/-- The absorbing marker of BFX32 (R365). -/
def bfxMarker : Int := -(2 ^ 31)

def bfxAdd (a b : Int) : Int := if a = bfxMarker ∨ b = bfxMarker then bfxMarker else a + b

/-- A block as it travels. The non-finite flags of banks have travelled in the agreement, those of entries in a bitmap
(R359). -/
def Inst.encode (x : Inst) (k : XKind) (b : Nat) : Bytes :=
  match k with
  | .roll => []
  | .agree =>
    bitmap (fun e => (x.flag e).testBit 0) b ++ bitmap (fun e => (x.flag e).testBit 1) b ++
    (blockElems b).flatMap (fun e => leBytes 1 (unsigned 8 (x.rel e))) ++
    (blockElems b).flatMap fun e => if (x.flag e).testBit 0 then leBytes 2 (expCode (x.exact e)) else []
  | .wx =>
    let vs := (blockElems b).map fun e => if (x.flag e).testBit 1 then 0 else x.sum e
    let nf := decide (IBlk.srcKind x.blk ≠ 1) && (blockElems b).any fun e => (x.flag e).testBit 1
    let l := wxLen vs
    leBytes 1 (l + 32 * b2n nf) ++ vs.flatMap (fun v => leBytes l (unsigned (8 * l) v)) ++
      (if nf then bitmap (fun e => (x.flag e).testBit 1) b else [])
  | .bfx => (blockElems b).flatMap (fun e => leBytes 4 (unsigned 32 (x.sum e))) ++ leBytes 1 (unsigned 8 (x.rel b))
  | .probe => leBytes 1 (unsigned 8 (x.rel b))
  | .noise => x.noise.flatMap fun a => RedEntry.bytes { acc := a.1, terms := a.2 }
  | .piece => []

/-- Two noise entries summed (R143). -/
def noiseAdd (a b : Acc × Nat) : Acc × Nat :=
  let m := maxOpt a.1.maxexp b.1.maxexp
  let nf := a.1.nonfinite || b.1.nonfinite
  let ovf := a.1.ovf || b.1.ovf || decide (a.1.win ≠ b.1.win)
  ({ a.1 with sum := a.1.sum + b.1.sum, inexact := a.1.inexact + b.1.inexact, maxexp := m, nonfinite := nf, ovf := ovf }, a.2 + b.2)

/-- A received block joins the member's values, or, of a finished slice, replaces them; and what follows it. -/
def Inst.decode (x : Inst) (k : XKind) (final : Bool) (b : Nat) (bs : Bytes) : Inst × Bytes :=
  let num (lo n : Nat) : Nat := leNat (slice bs lo n)
  match k with
  | .roll => (x, bs)
  | .agree =>
    let ovf := num 0 4
    let nf := num 4 4
    let r := (List.range 32).foldl (fun (a : Inst × Nat) i =>
      let e := 32 * b + i
      let y := if final then a.1.setRel e (signed 8 (num (8 + i) 1)) else a.1.setRel e (max (a.1.rel e) (signed 8 (num (8 + i) 1)))
      let old := if final then 0 else y.flag e
      let y := y.setFlag e (b2n (old.testBit 0 || ovf.testBit i) + 2 * b2n (old.testBit 1 || nf.testBit i))
      if ovf.testBit i then
        let m := expOf (num a.2 2)
        (y.setExact e (if final then m else maxOpt (y.exact e) m), a.2 + 2)
      else (y, a.2)) (x, 40)
    (r.1, bs.drop r.2)
  | .wx =>
    let l := num 0 1 % 32
    let hasNf := (num 0 1).testBit 5
    let nf := if hasNf then num (1 + 32 * l) 4 else 0
    let y := (List.range 32).foldl (fun (y : Inst) i =>
      let e := 32 * b + i
      let v := if l = 0 then 0 else signed (8 * l) (num (1 + i * l) l)
      let y := y.setSum e (if final then v else y.sum e + v)
      let old := y.flag e
      let keep := !final || decide (IBlk.srcKind x.blk = 1)
      y.setFlag e (old % 2 + 2 * b2n ((keep && old.testBit 1) || nf.testBit i))) x
    (y, bs.drop (1 + 32 * l + (if hasNf then 4 else 0)))
  | .bfx =>
    let y := (List.range 32).foldl (fun (y : Inst) i =>
      let e := 32 * b + i
      let v := signed 32 (num (4 * i) 4)
      y.setSum e (if final then v else bfxAdd (y.sum e) v)) x
    (y.setRel b (if final then signed 8 (num 128 1) else max (y.rel b) (signed 8 (num 128 1))), bs.drop 129)
  | .probe => (x.setRel b (if final then signed 8 (num 0 1) else max (x.rel b) (signed 8 (num 0 1))), bs.drop 1)
  | .noise =>
    let es := (List.range 2).map fun i => RedEntry.parse (slice bs (32 * i) 32)
    let got : List (Acc × Nat) := es.map fun e => (e.acc, e.terms)
    ({ x with noise := if final ∨ x.noise.isEmpty then got else (x.noise.zip got).map fun p => noiseAdd p.1 p.2 }, bs.drop 64)
  | .piece => (x, bs)

/-- Blocks from `lo` on, `n` of them. -/
def Inst.encodeAll (x : Inst) (k : XKind) (lo n : Nat) : Bytes := (span lo n).flatMap (x.encode k)

def Inst.decodeAll (x : Inst) (k : XKind) (final : Bool) : Nat → Nat → Bytes → Inst
  | _, 0, _ => x
  | b, n + 1, bs => let r := x.decode k final b bs; r.1.decodeAll k final (b + 1) n r.2

/-! ### Exchange header (R383) -/

namespace XHdr
def word (m : FabMsg) : Nat := leNat (slice m.data 0 16)
def sig (m : FabMsg) : Nat := bits (word m) 127 96
def epoch (m : FabMsg) : Nat := bits (word m) 95 80
def group (m : FabMsg) : Nat := bits (word m) 79 76
def stepIdx (m : FabMsg) : Nat := bits (word m) 75 68
def round (m : FabMsg) : Nat := bits (word m) 63 40
def elem (m : FabMsg) : Nat := bits (word m) 39 0
def body (m : FabMsg) : Bytes := m.data.drop 16
end XHdr

/-- An exchange message of an instance. -/
def Inst.message (x : Inst) (op stepIdx elem : Nat) (body : Bytes) : FabMsg :=
  let h := leBytes 16 (pack [(96, 32, x.sig), (80, 16, x.layout.epoch), (76, 4, IBlk.group x.blk), (68, 8, stepIdx),
    (40, 24, x.round), (0, 40, elem)])
  bareMsg op 0 (16 + body.length) (h ++ body)

end Sys2Proof.Machine
end

