-- ==== Sys2Proof/Machine/Collect.lean ====
section
/-! DEFINITION. Machine/Collect.lean: the rounds of collective instances (R345 to R384): trigger, roll call, agreement, data,
noise sums, expert exchange, and the end of a round. -/

namespace Sys2Proof.Machine

/-! ### Access -/

def State.inst (s : State) (p h : Nat) : Option Inst := (s.part p).insts.find? fun x => decide (x.h = h)

def State.setInst (s : State) (x : Inst) : State :=
  s.modPart x.part fun P => { P with insts := P.insts.map fun y => if y.h = x.h then x else y }

def State.addrRead (s : State) (a n : Nat) : Bytes := s.readKeys (s.addrKeys a n)

/-- A write to a unit that is being cleared or is lent changes nothing (R293, R389, log 122). -/
def State.addrWrite (s : State) (a : Nat) (bs : Bytes) : State :=
  if s.rangeOpen a bs.length then s.writeAt (s.addrKeys a bs.length) bs else s

/-! ### Ranges of the services (R22, R293, log 122) -/

/-- A service of the hub that names a range outside the partition's units faults its owner with an address fault. -/
def State.serviceFault (s : State) (owner : Nat) : State :=
  s.faultLate owner (s.queue owner).pc (s.queue owner).seq 0 3 0x41 0

/-- Every range is open, and within reach of the ports. -/
def State.atHand (s : State) (rs : List (Nat × Nat)) : Bool := rs.all fun r => s.rangeReached r.1 r.2 && s.rangeOpen r.1 r.2

/-- What a service does on ranges: it waits while one is out of reach, and an address fault takes its place where one is not
open. -/
def State.onRanges (s : State) (owner : Nat) (rs : List (Nat × Nat)) (go : State → State) : State :=
  if !rs.all fun r => s.rangeReached r.1 r.2 then s
  else if s.atHand rs then go s
  else s.serviceFault owner

/-- A write of a round. -/
def roundPut (sx : State × Inst) (a : Nat) (bs : Bytes) : State × Inst :=
  (sx.1.addrWrite a bs, { sx.2 with ranges := sx.2.ranges ++ [(a, bs.length)] })

/-- A bound signal of a hub service, raised as queue `owner` (R221, R347): `n` on a counter (kind 1), or a flag set (kind 2). -/
def State.hubRaise (s : State) (obj kind n owner ctx part : Nat) : State :=
  let s := s.traceHub part 6 3 0 (owner / 4) ctx obj
  { s with sync := { s.sync with bound := s.sync.bound ++ [
    { obj := obj, kind := kind, n := n, qid := owner, ctx := ctx, part := part,
      pc := (s.queue owner).pc, seq := (s.queue owner).seq, causal := (s.part part).causal, origin := 2 }] } }

/-- The same on an object that may be a counter or a flag. -/
def State.hubSignal (s : State) (obj n owner ctx part : Nat) : State :=
  if (s.obj obj).kind = .flag then s.hubRaise obj 2 0 owner ctx part else s.hubRaise obj 1 n owner ctx part

def State.instSignal (s : State) (x : Inst) (obj n : Nat) : State := s.hubSignal obj n (IBlk.owner x.blk) x.ctx x.part

/-- A service of the hub waits for 1 on a counter of a context (R346). -/
def State.hubWait (s : State) (who : Client) (obj ctx part : Nat) : State :=
  let o := s.obj obj
  match firstErr [accessErr o ctx part false, kindErr o .counter] with
  | some _ => s
  | none =>
    match o.acquire { who := who, n := 1, gen := 0 } with
    | .inr (o', ws) => (s.setObj obj o').notify o'.causal ws
    | .inl _ => s

/-- Withdraw the wait of a service, and its grant. -/
def State.hubUnwait (s : State) (who : Client) (obj : Nat) : State :=
  let s := s.unwait obj who
  { s with sync := { s.sync with granted := s.sync.granted.filter (· ≠ who) } }

/-- Use a grant. -/
def State.takeGrant (s : State) (who : Client) : State :=
  { s with sync := { s.sync with granted := dropFirst (fun w => decide (w = who)) s.sync.granted } }

/-! ### Sending -/

def State.sendX (s : State) (x : Inst) (rank op stepIdx elem : Nat) (body : Bytes) : State :=
  let m := x.layout.module s.fab.dims rank
  s.sendOrFail (State.sessKey x.part 1 m) { msg := x.message op stepIdx elem body }

def Inst.others (x : Inst) (me : Nat) : List Nat := (List.range x.layout.members).filter (· ≠ me)

/-- The member ends its round with a status and tells the others (R350). -/
def failIn (sx : State × Inst) (status : Nat) : State × Inst :=
  let x := sx.2
  ((x.others (sx.1.rankIn x.layout)).foldl (fun s r => s.sendX x r 0x3A 0 0 (leBytes 2 status ++ leBytes 2 s.myId)) sx.1,
    { x with status := status, causeModule := sx.1.myId, phase := .ending })

def State.failRound (s : State) (x : Inst) (status : Nat) : State :=
  let r := failIn (s, x) status
  r.1.setInst r.2

/-! ### Kinds and sizes -/

/-- What the rings carry in the instance's present phase. -/
def Inst.kind (x : Inst) : Option XKind :=
  match x.phase with
  | .roll => some .roll
  | .agree => some .agree
  | .noise => some .noise
  | .data =>
    match IBlk.op x.blk with
    | 1 | 2 => some (if IBlk.bfx x.blk then .bfx else .wx)
    | 3 => some .piece
    | 5 => some .probe
    | _ => none
  | _ => none

def Inst.blocks (x : Inst) (k : XKind) : Nat :=
  match k with
  | .roll | .noise => 1
  | .piece => x.layout.members * IBlk.count x.blk
  | _ => ceilDiv (IBlk.count x.blk) 32

def Inst.ringAt (x : Inst) (k : XKind) (me r half : Nat) : RingAt :=
  { layout := x.layout, me := me, rank := r, half := half, loaded := x.loaded, reduce := decide (k ≠ .piece),
    spread := !(decide (IBlk.op x.blk = 2) && (decide (k = .wx) || decide (k = .bfx))) }

/-- `ELEM` of a message from block `lo` on; the noise sums stand beyond every element. -/
def xElem (k : XKind) (lo : Nat) : Nat :=
  match k with
  | .piece => lo
  | .noise => 2 ^ 30
  | _ => 32 * lo

/-- Half slices of a phase that are not empty, as (rank, half). -/
def Inst.halves (x : Inst) (k : XKind) : List (Nat × Nat) :=
  let p := x.layout.members
  ((List.range p).flatMap fun r => [(r, 0), (r, 1)]).filter fun rh =>
    let h := halfSlice (x.blocks k) p rh.1 rh.2
    decide (h.1 < h.2)

/-- Data of a half slice; a piece carries its version before and after it is read (R377), which the model reads at once
(log 18). -/
def Inst.body (x : Inst) (k : XKind) (r half : Nat) : Bytes :=
  let h := halfSlice (x.blocks k) x.layout.members r half
  match k with
  | .piece =>
    let v := Tbl.get 0 x.counts r
    leBytes 4 v ++ leBytes 4 v ++ Tbl.get [] x.pieces (2 * r + half)
  | _ => x.encodeAll k h.1 (h.2 - h.1)

/-- Send what a half slice is ready to send. -/
def flushHalf (k : XKind) (sx : State × Inst) (rh : Nat × Nat) : State × Inst :=
  let s := sx.1
  let x := sx.2
  let a := x.ringAt k (s.rankIn x.layout) rh.1 rh.2
  let key := 2 * rh.1 + rh.2
  let f := a.flush (Tbl.get 0 x.prog key)
  let x := { x with prog := Tbl.set 0 x.prog key f.1 }
  let lo := (halfSlice (x.blocks k) x.layout.members rh.1 rh.2).1
  (f.2.foldl (fun s h => s.sendX x (a.dest h) k.code (a.stepIdx h) (xElem k lo) (x.body k rh.1 rh.2)) s, x)

/-! ### Contributions (R352, R353, R357, R362, R365, R369, R382) -/

/-- Element code of a source or result format. -/
def xFmt (code : Nat) : ElFmt := if code = 1 then .fp16 else .bf16

/-- A contributed reduction entry: at the source, or exported into the staging area. -/
def State.contrib (s : State) (x : Inst) (e : Nat) : RedEntry :=
  RedEntry.parse (s.addrRead ((if IBlk.srcKind x.blk = 1 then IBlk.stageAddr x.blk else IBlk.srcAddr x.blk) + 32 * e) 32)

/-- The value that a member contributes. -/
def State.contribVal (s : State) (x : Inst) (e : Nat) : Val :=
  if IBlk.srcKind x.blk = 2 then (xFmt (IBlk.srcFmt x.blk)).decode (leNat (s.addrRead (IBlk.srcAddr x.blk + 2 * e) 2))
  else (s.contrib x e).value

def clampRel (v lo : Int) : Int := max (-lo) (min v 127)

/-- The agreement values of one element: overflowed, non-finite, largest exponent. -/
def Inst.agreeOwn (x : Inst) (e : Nat) (ovf nf : Bool) (m : Option Int) : Inst :=
  let base := RBlk.t x.rb - RBlk.h x.rb
  let x := x.setFlag e (b2n ovf + 2 * b2n nf)
  let x := if ovf then x.setExact e m else x
  match m with
  | some v => x.setRel e (clampRel (v - base) 126)
  | none => x

/-- The agreement phase starts from the entries, or from the module summary records. -/
def State.loadAgree (s : State) (x : Inst) : Inst :=
  let w := RBlk.t x.rb - 62
  if IBlk.srcKind x.blk = 1 then
    (List.range (IBlk.tiles x.blk)).foldl (fun x t =>
      let accs := summaryAccs (leNat (s.addrRead (IBlk.agreeAddr x.blk + 640 * t) 640))
      ((List.range 256).zip accs).foldl (fun x ia => x.agreeOwn (256 * t + ia.1) ia.2.ovf ia.2.nonfinite ia.2.maxexp) x) x
  else
    (List.range (IBlk.count x.blk)).foldl (fun x e =>
      let a := (s.contrib x e).acc
      x.agreeOwn e (a.ovf || decide (a.win ≠ w)) a.nonfinite a.maxexp) x

/-- Every module summary record is merged and on the round's window (R363). -/
def State.summariesOk (s : State) (x : Inst) : Bool :=
  (List.range (IBlk.tiles x.blk)).all fun t =>
    let w := leNat (s.addrRead (IBlk.agreeAddr x.blk + 640 * t) 640)
    bit w 0 && decide (summaryWin w = RBlk.t x.rb - 62)

/-- Combined largest exponent of an element (R362, R364): where one was flagged, the largest exact value, or a larger one of a
contribution that was not (R357). -/
def Inst.agreed (x : Inst) (e : Nat) : Option Int :=
  let v := RBlk.t x.rb - RBlk.h x.rb + x.rel e
  if (x.flag e).testBit 0 then (if -126 < x.rel e then maxOpt (x.exact e) (some v) else x.exact e)
  else if x.rel e = -128 then none
  else some v

/-- Window of an element (R360). -/
def Inst.window (x : Inst) (e : Nat) : Int :=
  match (if (x.flag e).testBit 0 then x.agreed e else none) with
  | some m => m + RBlk.h x.rb - 62
  | none => RBlk.t x.rb - 62

/-- Agreed exponent of a block (R365). -/
def State.blockExp (s : State) (x : Inst) (b : Nat) : Int := signed 16 (leNat (s.addrRead (RBlk.expAddr x.rb + 2 * b) 2))

/-- One contribution of BFX32. -/
def bfxValue (xb : Int) (v : Val) : Int × Bool :=
  match v with
  | none => (bfxMarker, false)
  | some x =>
    let c := rne x (xb - 19)
    if (2 ^ 20 - 1 : Nat) < c.natAbs then ((if c < 0 then -(2 ^ 20 - 1) else 2 ^ 20 - 1), true) else (c, false)

def State.loadBfx (s : State) (x : Inst) : Inst :=
  (List.range (IBlk.count x.blk)).foldl (fun x e =>
    let b := e / 32
    let xb := s.blockExp x b
    let v := s.contribVal x e
    let c := bfxValue xb v
    let x := x.setSum e c.1
    let inexact := if IBlk.srcKind x.blk = 2 then 0 else (s.contrib x e).acc.inexact
    let x := { x with stats := { x.stats with sat := x.stats.sat + b2n c.2, inexact := x.stats.inexact + inexact } }
    match v with
    | some n => if n.isZero then x else x.setRel b (max (x.rel b) (clampRel (n.log2 - xb) 127))
    | none => x) x

def State.loadWx (s : State) (x : Inst) : Inst :=
  (List.range (IBlk.count x.blk)).foldl (fun x e =>
    let r := s.contrib x e
    let x := { x with stats := { x.stats with inexact := x.stats.inexact + r.acc.inexact } }
    if (x.flag e).testBit 1 ∨ r.acc.nonfinite ∨ (IBlk.srcKind x.blk = 0 ∧ (x.flag e).testBit 0) then x.setFlag e (x.flag e % 2 + 2 * b2n ((x.flag e).testBit 1 || r.acc.nonfinite))
    else x.setSum e r.acc.sum) x

/-- Noise sum of squares of values, as bfloat16. -/
def noiseSum (x : Inst) (vs : List Val) : Acc × Nat :=
  let sq (v : Val) : Val := v.map fun n => let r := ElFmt.bf16.round n; r.mul r
  (vs.foldl (fun a v => a.term (sq v)) (Acc.fresh (IBlk.noiseT x.blk - 62)), vs.length)

/-- Load the contribution of the data phase. -/
def State.loadData (s : State) (x : Inst) : Inst :=
  let x := { x with loaded := true }
  match IBlk.op x.blk with
  | 1 | 2 =>
    let x := if IBlk.noiseEn x.blk then { x with noise := [noiseSum x ((List.range (IBlk.count x.blk)).map (s.contribVal x))] } else x
    if IBlk.bfx x.blk then s.loadBfx x else s.loadWx x
  | 5 => (List.range (ceilDiv (IBlk.count x.blk) 32)).foldl (fun x b =>
      x.setRel b (signed 8 (leNat (s.addrRead (IBlk.srcAddr x.blk + b) 1)))) x
  | _ => x

/-! ### Pieces (R371, R377, R378) -/

/-- The registered shard that holds a range. -/
def Partition.shardOf (P : Partition) (a n : Nat) : Option Shard := P.shards.find? fun h => within (a, n) (h.base, h.len)

/-- The version that a round under `VER_MODE` 2 asks of the shard of rank `r` (R378). -/
def State.versionAsked (s : State) (x : Inst) (r : Nat) : Nat := leNat (s.addrRead (IBlk.verAddr x.blk + 4 * r) 4)

/-- Version of the member's own source. -/
def State.ownVersion (s : State) (x : Inst) : Nat :=
  (((s.part x.part).shardOf (IBlk.srcAddr x.blk) (IBlk.count x.blk)).map (·.ver)).getD 0

/-- Write the piece of rank `r`, and its version (R371, R377). -/
def writePiece (sx : State × Inst) (r : Nat) : State × Inst :=
  let x := sx.2
  let sx := roundPut sx (IBlk.dstAddr x.blk + r * IBlk.count x.blk) (Tbl.get [] x.pieces (2 * r) ++ Tbl.get [] x.pieces (2 * r + 1))
  if IBlk.verMode x.blk = 1 then roundPut sx (IBlk.verAddr x.blk + 4 * r) (leBytes 4 (Tbl.get 0 x.counts r)) else sx

/-- The piece of rank `r` is here. With an arrival list it is written and announced at once (R371); without one it is written
when every piece is here with a steady version, so that a stale shard leaves no data (R349). -/
def pieceArrived (sx : State × Inst) (r : Nat) : State × Inst :=
  let x := sx.2
  let j := x.arrived.length
  let sx := (sx.1, { x with arrived := x.arrived ++ [r] })
  if IBlk.arrivalAddr x.blk = 0 then sx
  else
    let sx := roundPut (writePiece sx r) (IBlk.arrivalAddr x.blk + 4 * j) (leBytes 4 r)
    (sx.1.instSignal x (IBlk.pieceObj x.blk) 1, sx.2)

/-- Both halves of a rank's piece are here. -/
def Inst.pieceWhole (x : Inst) (r : Nat) : Bool :=
  [0, 1].all fun half =>
    let h := halfSlice (x.blocks .piece) x.layout.members r half
    decide (h.2 ≤ h.1) || (Tbl.get 0 x.prog (2 * r + half)).testBit haveBit

def announcePieces (sx : State × Inst) : State × Inst :=
  ((List.range sx.2.layout.members).filter fun r => sx.2.pieceWhole r && !sx.2.arrived.contains r).foldl pieceArrived sx

/-! ### Expert exchange (R379 to R381) -/

/-- Owner of each expert, its slot base, and the local routes, as the round of a `DISPATCH` reads them (R379). -/
def State.readRoutes (s : State) (x : Inst) : Inst :=
  let b := x.blk
  let n := IBlk.experts b
  let half (a k : Nat) : List Nat := (List.range k).map fun i => leNat (s.addrRead (a + 2 * i) 2)
  { x with
    owners := half (IBlk.paramAddr b + 64) n
    bases := half (IBlk.paramAddr b + 64 + 2 * n) n
    routes := half (IBlk.routeAddr b) (IBlk.tokens b * IBlk.kRoute b) }

/-- The slots of the experts of a rank, by the expert map at arming: the end of the last in bytes (R379). -/
def State.slotSpan (s : State) (b r : Nat) : Nat :=
  let x := s.readRoutes { h := 0, ctx := 0, part := 0, blk := b, layout := { epoch := 0, origin := 0, px := 1, py := 1, pz := 1 } }
  let mine := (List.range x.owners.length).filter fun e => decide (x.owners.getD e 0 = r)
  IBlk.rowBytes b * (mine.map fun e => x.bases.getD e 0 + IBlk.capacity b).foldl max 0

def Inst.expertOwner (x : Inst) (e : Nat) : Nat := x.owners.getD e 0
def Inst.expertBase (x : Inst) (e : Nat) : Nat := x.bases.getD e 0

def Inst.expertsOf (x : Inst) (r : Nat) : List Nat := (List.range x.owners.length).filter fun e => decide (x.expertOwner e = r)

/-- Local routes to an expert, as (token, route), in local row order. -/
def Inst.routesTo (x : Inst) (e : Nat) : List (Nat × Nat) :=
  (((List.range x.routes.length).zip x.routes).filter fun ir => decide (ir.2 = e)).map fun ir =>
    (ir.1 / IBlk.kRoute x.blk, ir.1 % IBlk.kRoute x.blk)

def countKey (m e : Nat) : Nat := 4096 * m + e

/-- Routed tokens of the members before `m`. -/
def Inst.before (x : Inst) (m e : Nat) : Nat := ((List.range m).map fun i => Tbl.get 0 x.counts (countKey i e)).foldl (· + ·) 0

def Inst.quotaOf (x : Inst) (m e : Nat) : Nat := min (Tbl.get 0 x.counts (countKey m e)) (IBlk.capacity x.blk - x.before m e)
def Inst.offsetOf (x : Inst) (m e : Nat) : Nat := min (IBlk.capacity x.blk) (x.before m e)

/-- The counts that a member sends an owner. -/
def Inst.countBody (x : Inst) (r : Nat) : Bytes :=
  (x.expertsOf r).flatMap fun e => leBytes 4 (x.routesTo e).length

def State.takeCounts (s : State) (x : Inst) (m : Nat) (bs : Bytes) : Inst :=
  let es := x.expertsOf (s.rankIn x.layout)
  let x := ((List.range es.length).zip es).foldl (fun (x : Inst) ie =>
    { x with counts := Tbl.set 0 x.counts (countKey m ie.2) (leNat (slice bs (4 * ie.1) 4)) }) x
  { x with arrived := x.arrived ++ [m] }

/-- Quotas and offsets that an owner returns to member `m`. -/
def State.quotaBody (s : State) (x : Inst) (m : Nat) : Bytes :=
  (x.expertsOf (s.rankIn x.layout)).flatMap fun e => leBytes 4 (x.quotaOf m e) ++ leBytes 4 (x.offsetOf m e)

def Inst.takeQuotas (x : Inst) (r : Nat) (bs : Bytes) : Inst :=
  let es := x.expertsOf r
  let x := ((List.range es.length).zip es).foldl (fun (x : Inst) ie =>
    { x with quotas := Tbl.set 0 x.quotas ie.2 (leNat (slice bs (8 * ie.1) 4)), offsets := Tbl.set 0 x.offsets ie.2 (leNat (slice bs (8 * ie.1 + 4) 4)) }) x
  { x with arrived := x.arrived ++ [r] }

def Inst.slotAddr (x : Inst) (base e slot : Nat) : Nat := base + IBlk.rowBytes x.blk * (x.expertBase e + slot)

/-- Key of a slot of an expert. -/
def slotKey (e slot : Nat) : Nat := 65536 * e + slot

/-- Rows that fall to this member's experts (R380). -/
def State.rowsDue (s : State) (x : Inst) : Nat :=
  let me := s.rankIn x.layout
  ((x.expertsOf me).flatMap fun e => (List.range x.layout.members).map fun m => x.quotaOf m e).foldl (· + ·) 0

/-- Routes to this member's experts that were dropped for capacity. -/
def State.droppedHere (s : State) (x : Inst) : Nat :=
  let me := s.rankIn x.layout
  ((x.expertsOf me).flatMap fun e => (List.range x.layout.members).map fun m =>
    Tbl.get 0 x.counts (countKey m e) - x.quotaOf m e).foldl (· + ·) 0

/-- The row of a token for a slot of one of this member's experts. -/
def takeRow (sx : State × Inst) (e slot tok : Nat) (row : Bytes) : State × Inst :=
  let x := sx.2
  (sx.1, { x with
    rows := x.rows + 1
    toks := Tbl.set 0 x.toks (slotKey e slot) tok
    pieces := Tbl.set [] x.pieces (slotKey e slot) row })

/-- Every slot of the member's experts is written: its row, or +0 where it stayed empty (R380). -/
def writeRows (sx : State × Inst) : State × Inst :=
  let b := sx.2.blk
  (sx.2.expertsOf (sx.1.rankIn sx.2.layout)).foldl (fun sx e =>
    (List.range (IBlk.capacity b)).foldl (fun sx k =>
      roundPut sx (sx.2.slotAddr (IBlk.dstAddr b) e k) (pad (IBlk.rowBytes b) (Tbl.get [] sx.2.pieces (slotKey e k)))) sx) sx

/-- Send the kept rows of expert `e` to its slots. -/
def sendRows (sx : State × Inst) (e : Nat) : State × Inst :=
  let b := sx.2.blk
  let me := sx.1.rankIn sx.2.layout
  let q := Tbl.get 0 sx.2.quotas e
  let o := Tbl.get 0 sx.2.offsets e
  let kept := (sx.2.routesTo e).take q
  ((List.range kept.length).zip kept).foldl (fun sx x =>
    let row := sx.1.addrRead (IBlk.srcAddr b + IBlk.rowBytes b * x.2.1) (IBlk.rowBytes b)
    let own := sx.2.expertOwner e
    if own = me then takeRow sx e (o + x.1) x.2.1 row
    else (sx.1.sendX sx.2 own 0x38 0 x.2.1 (leBytes 2 e ++ leBytes 2 (o + x.1) ++ row), sx.2)) sx

/-- The data phase of `DISPATCH`. -/
def startRows (sx : State × Inst) : State × Inst :=
  let sx := (sx.1, { sx.2 with dropped := sx.1.droppedHere sx.2, pieces := [] })
  (List.range (IBlk.experts sx.2.blk)).foldl sendRows sx

/-- The last round that the `DISPATCH` of a `COMBINE`'s `PAIR` has ended, at the time when the round of the `COMBINE` begins. -/
def State.pairRoundOf (s : State) (x : Inst) : Option Nat :=
  ((s.part x.part).dispatched.filter fun d => decide (d.uid = x.pairUid)).getLast?.map (·.round)

/-- The round of the `DISPATCH` instance that a round of a `COMBINE` uses, with its routes, quotas and offsets (R381, R464). -/
def State.pairOf (s : State) (x : Inst) : Option Inst :=
  (s.part x.part).dispatched.find? fun d => decide (d.uid = x.pairUid) && decide (x.pairRound = some d.round)

/-- A returned row: gate × y joins the token's entries (R381). -/
def combineRow (sx : State × Inst) (d : Inst) (e k : Nat) (row : Bytes) : State × Inst :=
  let b := sx.2.blk
  match (d.routesTo e)[k]? with
  | none => sx
  | some (t, j) =>
    let gate := ElFmt.bf16.decode (leNat (sx.1.addrRead (IBlk.srcAddr b + 2 * (t * IBlk.kRoute d.blk + j)) 2))
    let n := IBlk.rowBytes b / 2
    let x := (List.range n).foldl (fun (x : Inst) i =>
      let y := (xFmt (IBlk.srcFmt b)).decode (leNat (slice row (2 * i) 2))
      let a := Tbl.get ({}, 0) x.accs (t * n + i)
      let a := if a.2 = 0 then (Acc.fresh (RBlk.t x.rb - 62), 0) else a
      { x with accs := Tbl.put x.accs (t * n + i) (a.1.term (mulVal gate y), a.2 + 1) }) sx.2
    (sx.1, { x with rows := x.rows + 1 })

/-- Return the output rows of this member's experts to their members. -/
def returnRows (sx : State × Inst) (d : Inst) (m e : Nat) : State × Inst :=
  let b := sx.2.blk
  let me := sx.1.rankIn sx.2.layout
  (List.range (d.quotaOf m e)).foldl (fun sx k =>
    let slot := d.offsetOf m e + k
    let row := sx.1.addrRead (IBlk.stageAddr b + IBlk.rowBytes b * (d.expertBase e + slot)) (IBlk.rowBytes b)
    if m = me then combineRow sx d e k row
    else (sx.1.sendX sx.2 m 0x39 0 (Tbl.get 0 d.toks (slotKey e slot)) (leBytes 2 e ++ leBytes 2 k ++ row), sx.2)) sx

def startCombine (sx : State × Inst) : State × Inst :=
  match sx.1.pairOf sx.2 with
  | none => sx
  | some d =>
    (List.range sx.2.layout.members).foldl (fun sx m =>
      (d.expertsOf (sx.1.rankIn sx.2.layout)).foldl (fun sx e => returnRows sx d m e) sx) sx

/-- Rows that this member's tokens are to receive. -/
def State.returnsDue (s : State) (x : Inst) : Nat :=
  match s.pairOf x with
  | none => 0
  | some d => ((List.range (IBlk.experts d.blk)).map fun e => Tbl.get 0 d.quotas e).foldl (· + ·) 0

/-! ### Results (R356, R357, R366, R381, R382) -/

/-- The sum that a result element holds. -/
def State.resultAcc (s : State) (x : Inst) (e : Nat) : Acc :=
  if IBlk.bfx x.blk then
    let xb := s.blockExp x (e / 32)
    let nf := decide (x.sum e = bfxMarker)
    { sum := if nf then 0 else x.sum e, win := xb - 19, nonfinite := nf,
      maxexp := if x.rel (e / 32) = -128 then none else some (xb + x.rel (e / 32)) }
  else
    let nf := (x.flag e).testBit 1
    let un := decide (IBlk.srcKind x.blk = 0) && (x.flag e).testBit 0 && !nf
    { sum := if nf || un then 0 else x.sum e, win := x.window e, nonfinite := nf, ovf := un, maxexp := x.agreed e }

/-- A result as its format writes it, and whether it saturated. -/
def resultBytes (fmt : Nat) (terms : Nat) (a : Acc) : Bytes × Bool :=
  if fmt = 0 then (RedEntry.bytes { acc := { a with inexact := 0 }, terms := terms }, false)
  else
    let f := xFmt (fmt - 1)
    let c := f.convertVal (if a.nonfinite || a.ovf then none else some (Num.ofInt a.sum a.win))
    (leBytes 2 c.code, c.sat)

def resultSize (fmt : Nat) : Nat := if fmt = 0 then 32 else 2

/-- Elements of this member's results: its slice, or all. -/
def State.resultRange (s : State) (x : Inst) : Nat × Nat :=
  let n := IBlk.count x.blk
  if IBlk.op x.blk = 2 then
    let p := x.layout.members
    let r := s.rankIn x.layout
    let nb := ceilDiv n 32
    (min n (32 * (r * nb / p)), min n (32 * ((r + 1) * nb / p)))
  else (0, n)

/-- Elements of this member's slice, whatever the operation. -/
def State.ownSlice (s : State) (x : Inst) : List Nat :=
  let p := x.layout.members
  let r := s.rankIn x.layout
  let n := IBlk.count x.blk
  let nb := ceilDiv n 32
  let lo := min n (32 * (r * nb / p))
  span lo (min n (32 * ((r + 1) * nb / p)) - lo)

/-- A result joins the statistics; an unresolved one is a canonical NaN too, but in an entry (R74). -/
def resultStats (x : Stats) (fmt : Nat) (a : Acc) (sat : Bool) : Stats :=
  let y := { x with nonfinite := x.nonfinite + b2n (a.nonfinite || (a.ovf && decide (fmt ≠ 0))), sat := x.sat + b2n sat, maxexp := maxOpt x.maxexp a.maxexp }
  if a.nonfinite || a.ovf then y else y.seen (Num.ofInt a.sum a.win)

def writeResults (sx : State × Inst) : State × Inst :=
  let x0 := sx.2
  let r := sx.1.resultRange x0
  let fmt := IBlk.dstFmt x0.blk
  let sx := (span r.1 (r.2 - r.1)).foldl (fun (sx : State × Inst) e =>
    let a := sx.1.resultAcc x0 e
    let w := resultBytes fmt x0.layout.members a
    let y := roundPut sx (IBlk.dstAddr x0.blk + resultSize fmt * (e - r.1)) w.1
    (y.1, { y.2 with stats := resultStats y.2.stats fmt a w.2, unresolved := y.2.unresolved + b2n a.ovf })) sx
  if IBlk.bfx x0.blk then
    (List.range (ceilDiv r.2 32)).foldl (fun (sx : State × Inst) b =>
      if 32 * b < r.1 then sx
      else
        let xb := sx.1.blockExp x0 b
        let v := if x0.rel b = -128 then xb else xb + x0.rel b + RBlk.bfxH x0.rb
        roundPut sx (RBlk.expAddr x0.rb + 2 * b) (leBytes 2 (unsigned 16 v))) sx
  else sx

/-- Combined rows of a `COMBINE`. -/
def writeCombined (sx : State × Inst) : State × Inst :=
  let x := sx.2
  let fmt := IBlk.dstFmt x.blk
  (List.range (IBlk.tokens x.blk * (IBlk.rowBytes x.blk / 2))).foldl (fun (sx : State × Inst) i =>
    let a := Tbl.get ({}, 0) x.accs i
    let a := if a.2 = 0 then (Acc.fresh (RBlk.t x.rb - 62), 0) else a
    let w := resultBytes fmt a.2 a.1
    let y := roundPut sx (IBlk.dstAddr x.blk + resultSize fmt * i) (if fmt = 0 then RedEntry.bytes { acc := a.1, terms := a.2 } else w.1)
    (y.1, { y.2 with stats := resultStats { y.2.stats with inexact := y.2.stats.inexact + a.1.inexact } fmt a.1 w.2, unresolved := y.2.unresolved + b2n a.1.ovf })) sx

/-- Global record of a tile (R364). -/
def Inst.globalRecord (x : Inst) (t : Nat) : Bytes :=
  let accs : List Acc := (span (256 * t) 256).map fun e =>
    { maxexp := x.agreed e, ovf := (x.flag e).testBit 0, nonfinite := (x.flag e).testBit 1 }
  summaryBytes accs x.layout.members (RBlk.t x.rb - 62) ((IBlk.agreeBase x.blk + t) % 2 ^ 16) true

/-! ### Phases -/

/-- Enter a phase of the rings. -/
def enterRing (sx : State × Inst) (ph : InstPhase) (load : State → Inst → Inst) : State × Inst :=
  let x := load sx.1 { sx.2 with phase := ph, prog := [], loaded := true }
  match x.kind with
  | none => (sx.1, x)
  | some k => (x.halves k).foldl (flushHalf k) (sx.1, x)

/-- The data phase of an instance starts. -/
def startData (sx : State × Inst) : State × Inst :=
  let x := sx.2
  let me := sx.1.rankIn x.layout
  let b := x.blk
  match IBlk.op b with
  | 3 =>
    if IBlk.verMode b = 2 ∧ sx.1.ownVersion x ≠ sx.1.versionAsked x me then failIn sx St.staleShard else
    let own := sx.1.addrRead (IBlk.srcAddr b) (IBlk.count b)
    let piece (k : Nat) : Bytes :=
      let h := halfSlice (x.blocks .piece) x.layout.members me k
      slice own (h.1 - me * IBlk.count b) (h.2 - h.1)
    let x := { x with counts := Tbl.set 0 [] me (sx.1.ownVersion x), pieces := Tbl.set [] (Tbl.set [] [] (2 * me) (piece 0)) (2 * me + 1) (piece 1) }
    announcePieces (enterRing (sx.1, x) .data State.loadData)
  | 4 =>
    let n := IBlk.count b / x.layout.members
    let x := { x with phase := .data, arrived := [me], pieces := Tbl.set [] [] me (sx.1.addrRead (IBlk.srcAddr b + me * n) n) }
    ((x.others me).foldl (fun s r => s.sendX x r 0x35 0 (me * n) (s.addrRead (IBlk.srcAddr b + r * n) n)) sx.1, x)
  | 6 => startRows (sx.1, { x with phase := .data })
  | 7 => startCombine (sx.1, { x with phase := .data })
  | _ =>
    if IBlk.srcKind b = 1 ∧ IBlk.reduces b then (sx.1, { x with phase := .data, prog := [], loaded := false })
    else enterRing sx .data State.loadData

/-- `DISPATCH`: the counts go to the owners (R380). -/
def startCounts (sx : State × Inst) : State × Inst :=
  let me := sx.1.rankIn sx.2.layout
  let x := sx.1.readRoutes { sx.2 with phase := .count, arrived := [], counts := [], quotas := [], offsets := [], toks := [], rows := 0 }
  let x := sx.1.takeCounts x me (x.countBody me)
  ((x.others me).foldl (fun s r => s.sendX x r 0x36 0 0 (x.countBody r)) sx.1, x)

def startQuotas (sx : State × Inst) : State × Inst :=
  let me := sx.1.rankIn sx.2.layout
  let x := { sx.2 with phase := .quota, arrived := [] }
  let x := x.takeQuotas me (sx.1.quotaBody x me)
  ((x.others me).foldl (fun s r => s.sendX x r 0x37 0 0 (s.quotaBody x r)) sx.1, x)

/-- The agreement phase is over: a bank-fed instance writes the global records and raises `AGREE_OBJ`. -/
def endAgree (sx : State × Inst) : State × Inst :=
  let x := sx.2
  if IBlk.srcKind x.blk = 1 then
    let sx := (List.range (IBlk.tiles x.blk)).foldl (fun sx t => roundPut sx (IBlk.grecAddr x.blk + 640 * t) (x.globalRecord t)) sx
    startData (sx.1.instSignal x (IBlk.agreeObj x.blk) 1, sx.2)
  else startData sx

/-- The results of the member's own slice, before they are written. -/
def State.ownResults (s : State) (x : Inst) : List Val :=
  (s.ownSlice x).map fun e =>
    let a := s.resultAcc x e
    if a.nonfinite || a.ovf then none else some (Num.ofInt a.sum a.win)

def startNoise (sx : State × Inst) (ys : List Val) : State × Inst :=
  enterRing (sx.1, { sx.2 with noise := sx.2.noise ++ [noiseSum sx.2 ys] }) .noise fun _ y => y

/-- A noise sum as its entry holds it: a non-finite one, and one that overflowed, has the sum 0 (R67, R143). -/
def noiseEntry (a : Acc × Nat) : RedEntry :=
  if a.1.nonfinite then { acc := { a.1 with sum := 0, inexact := 0, ovf := false }, terms := a.2 }
  else if a.1.ovf then { acc := { a.1 with sum := 0, inexact := 0 }, terms := a.2 }
  else { acc := a.1, terms := a.2 }

/-- The noise sums are formed: the results are written, and the entries after them (R382). -/
def endNoise (sx : State × Inst) : State × Inst :=
  let sx := writeResults sx
  let x := sx.2
  if IBlk.statsAddr x.blk = 0 then (sx.1, { x with phase := .ending })
  else
    let sx := ((List.range 2).zip x.noise).foldl (fun sx ia =>
      roundPut sx (IBlk.statsAddr x.blk + 32 + 32 * ia.1) (RedEntry.bytes (noiseEntry ia.2))) sx
    (sx.1, { sx.2 with phase := .ending })

/-- The data phase is over. -/
def endData (sx : State × Inst) : State × Inst :=
  let x := sx.2
  match IBlk.op x.blk with
  | 1 | 2 =>
    if IBlk.noiseEn x.blk then startNoise sx (sx.1.ownResults x)
    else
      let sx := writeResults sx
      (sx.1, { sx.2 with phase := .ending })
  | 3 =>
    let sx := if IBlk.arrivalAddr x.blk = 0 then (List.range x.layout.members).foldl writePiece sx else sx
    (sx.1, { sx.2 with phase := .ending, pieces := [] })
  | 4 =>
    let n := IBlk.count x.blk / x.layout.members
    let sx := (List.range x.layout.members).foldl (fun sx r => roundPut sx (IBlk.dstAddr x.blk + r * n) (Tbl.get [] x.pieces r)) sx
    (sx.1, { sx.2 with phase := .ending, pieces := [] })
  | 5 =>
    let sx := (List.range (ceilDiv (IBlk.count x.blk) 32)).foldl (fun sx b =>
      roundPut sx (IBlk.dstAddr x.blk + b) (leBytes 1 (unsigned 8 (x.rel b)))) sx
    (sx.1, { sx.2 with phase := .ending })
  | 6 =>
    let sx := writeRows sx
    (sx.1, { sx.2 with phase := .ending, pieces := [] })
  | 7 =>
    let sx := writeCombined sx
    (sx.1, { sx.2 with phase := .ending })
  | _ => (sx.1, { x with phase := .ending })

/-- The present phase is complete. -/
def State.phaseDone (s : State) (x : Inst) : Bool :=
  let me := s.rankIn x.layout
  match x.kind with
  | some k => x.loaded && (x.halves k).all fun rh => (x.ringAt k me rh.1 rh.2).finished (Tbl.get 0 x.prog (2 * rh.1 + rh.2))
  | none =>
    match x.phase with
    | .count | .quota => decide (x.arrived.length = x.layout.members)
    | .data =>
      match IBlk.op x.blk with
      | 4 => decide (x.arrived.length = x.layout.members)
      | 6 => decide (x.rows = s.rowsDue x)
      | _ => decide (x.rows = s.returnsDue x)
    | _ => false

/-- Go on to the next phases while the present one is complete; the bound covers every sequence of phases. -/
def advanceInst : Nat → State × Inst → State × Inst
  | 0, sx => sx
  | n + 1, sx =>
    if !sx.1.phaseDone sx.2 then sx
    else
      let b := sx.2.blk
      advanceInst n (match sx.2.phase with
        | .roll =>
          if IBlk.reduces b ∧ !IBlk.bfx b then enterRing sx .agree State.loadAgree
          else if IBlk.op b = 6 then startCounts sx
          else startData sx
        | .agree => endAgree sx
        | .data => endData sx
        | .noise => endNoise sx
        | .count => startQuotas sx
        | .quota => startData sx
        | _ => sx)

def State.putAdvance (s : State) (sx : State × Inst) : State :=
  let r := advanceInst 8 sx
  let _ := s
  r.1.setInst r.2

/-! ### Taking messages (R348, R350, R375, R384) -/

/-- The phase of an instance takes a message of this operation. -/
def Inst.takes (x : Inst) (m : FabMsg) : Bool :=
  match m.op with
  | 0x30 => decide (x.phase = .roll)
  | 0x31 => decide (x.phase = .agree)
  | 0x32 => if XHdr.elem m < 2 ^ 30 then decide (x.kind = some .wx) else decide (x.phase = .noise)
  | 0x33 => decide (x.kind = some .bfx)
  | 0x34 => decide (x.kind = some .probe)
  | 0x35 => decide (x.phase = .data) && (decide (IBlk.op x.blk = 3) || decide (IBlk.op x.blk = 4))
  | 0x36 => decide (x.phase = .count)
  | 0x37 => decide (x.phase = .quota)
  | 0x38 => decide (x.phase = .data) && decide (IBlk.op x.blk = 6)
  | 0x39 => decide (x.phase = .data) && decide (IBlk.op x.blk = 7)
  | _ => decide (x.phase ≠ .trigger) && decide (x.phase ≠ .ending)

/-- The instance is in a round of the message's group and round number that goes on. -/
def Inst.inRound (x : Inst) (m : FabMsg) : Bool :=
  decide (IBlk.group x.blk = XHdr.group m) && decide (x.round % 2 ^ 24 = XHdr.round m) && !x.cancel &&
  decide (x.phase ≠ .trigger) && decide (x.phase ≠ .ending)

/-- The message is of this instance as armed in another epoch (R348, R375). -/
def Inst.otherEpoch (x : Inst) (m : FabMsg) : Bool :=
  decide (XHdr.epoch m ≠ x.layout.epoch) && decide (roundSig (putField x.blk 344 16 (XHdr.epoch m)) x.rb = XHdr.sig m)

/-- An instance waits for its trigger that may be the message's (R384). -/
def State.yetToCome (s : State) (m : FabMsg) : Bool :=
  (s.part m.dpart).insts.any fun x =>
    decide (IBlk.group x.blk = XHdr.group m) && decide (x.round % 2 ^ 24 = XHdr.round m) && decide (x.phase = .trigger)

/-- An abort over a roll call: the signatures of its round differ. -/
def mismatchAbort (m : FabMsg) : Bool :=
  decide (m.op = 0x3A) && [St.paramMismatch, St.epochMismatch].contains (leNat (slice (XHdr.body m) 0 2))

/-- Ranges that an instance names at arming as rank `r` of `p`, as (address, length, written); `d` is the block of the
`DISPATCH` that a `COMBINE` pairs with. -/
def State.blockRanges (s : State) (b d p r : Nat) : List (Nat × Nat × Bool) :=
  let n := IBlk.count b
  let tiles := IBlk.tiles b
  let probe := ceilDiv n 32
  let opt (a l : Nat) : List (Nat × Nat × Bool) := if a = 0 then [] else [(a, l, true)]
  [(IBlk.paramAddr b, 64, false), (IBlk.statusAddr b, 32, true)] ++ opt (IBlk.statsAddr b) (if IBlk.noiseEn b then 96 else 32) ++
  (match IBlk.op b with
   | 1 | 2 =>
     (match IBlk.srcKind b with
      | 0 => [(IBlk.srcAddr b, 32 * n, false)]
      | 1 => [(IBlk.stageAddr b, 8192 * tiles, true), (IBlk.agreeAddr b, 640 * tiles, false), (IBlk.grecAddr b, 640 * tiles, true)]
      | _ => [(IBlk.srcAddr b, 2 * n, false)]) ++
     [(IBlk.dstAddr b, resultSize (IBlk.dstFmt b) * (if IBlk.op b = 1 then n else min n (32 * ((r + 1) * probe / p)) - min n (32 * (r * probe / p))), true)]
   | 3 => [(IBlk.srcAddr b, n, false), (IBlk.dstAddr b, p * n, true)] ++ opt (IBlk.arrivalAddr b) (4 * p) ++
       (if IBlk.verMode b = 0 then [] else [(IBlk.verAddr b, 4 * p, true)])
   | 4 => [(IBlk.srcAddr b, n, false), (IBlk.dstAddr b, n, true)]
   | 5 => [(IBlk.srcAddr b, probe, false), (IBlk.dstAddr b, probe, true)]
   | 6 => [(IBlk.srcAddr b, IBlk.tokens b * IBlk.rowBytes b, false), (IBlk.dstAddr b, s.slotSpan b r, true),
       (IBlk.routeAddr b, 2 * IBlk.tokens b * IBlk.kRoute b, false), (IBlk.paramAddr b, 64 + 4 * IBlk.experts b, false)]
   | _ => [(IBlk.srcAddr b, 2 * IBlk.tokens d * IBlk.kRoute d, false), (IBlk.stageAddr b, s.slotSpan (putField d 416 32 (IBlk.rowBytes b)) r, false),
       (IBlk.dstAddr b, resultSize (IBlk.dstFmt b) * (IBlk.tokens b * (IBlk.rowBytes b / 2)), true)])

/-- Ranges of an instance. -/
def State.instRanges (s : State) (x : Inst) : List (Nat × Nat) :=
  (s.blockRanges x.blk (((s.pairOf x).map (·.blk)).getD 0) x.layout.members (s.rankIn x.layout)).map fun r => (r.1, r.2.1)

def State.instReached (s : State) (x : Inst) : Bool := (s.instRanges x).all fun r => s.rangeReached r.1 r.2

/-- The roll call of the instance's round goes on: alone, or within the agreement of a bank-fed one (R348, R363). -/
def Inst.rolls (x : Inst) : Bool := decide (x.phase = .roll) || (decide (x.phase = .agree) && decide (IBlk.srcKind x.blk = 1))

/-- The instance that takes a message: one with its signature, once its phase takes it; else the same in another epoch; else, for
an abort over a mismatch, one of its group and round whose roll call goes on, where none of these waits for its trigger (R348,
R350, R375, log 105). Any other message is held (R384), as it is while a range of the instance is out of reach (R22). -/
def State.takerOf (s : State) (m : FabMsg) : Option Inst :=
  let l := (s.part m.dpart).insts.filter fun x => x.inRound m
  let r : Option Inst :=
    match l.find? fun x => decide (x.sig = XHdr.sig m) with
    | some _ => l.find? fun x => decide (x.sig = XHdr.sig m) && x.takes m
    | none =>
      match l.find? fun x => x.otherEpoch m with
      | some x => some x
      | none => if mismatchAbort m ∧ s.yetToCome m = false then l.find? Inst.rolls else none
  r.filter s.instReached

/-- A roll call that no armed instance has the signature of, of the group and round of an instance whose own roll call goes on:
what the two members armed differs (R348). It may yet be of an instance that is armed later (R384): the model finds the mismatch
when the message, or the round, has waited its time (log 105). -/
def State.rollDiffers (s : State) (x : Inst) (m : FabMsg) : Bool :=
  (decide (m.op = 0x30) || decide (m.op = 0x31)) && x.inRound m && x.rolls && (x.layout.rankOf s.fab.dims m.src).isSome &&
  !(s.part m.dpart).insts.any fun y => y.inRound m && decide (y.sig = XHdr.sig m)

/-- An abort for a round that has ended here; one over a mismatch carries the signature of its sender (R350). -/
def State.lateAbort (s : State) (m : FabMsg) : Bool :=
  decide (m.op = 0x3A) && !s.yetToCome m && (s.part m.dpart).ended.any fun e =>
    decide (e.1 = XHdr.group m) && decide (e.2.1 = XHdr.round m) && (decide (e.2.2.1 = XHdr.sig m) || (mismatchAbort m && decide (e.2.2.2 ≠ St.ok)))

/-- Status of a roll call whose signature differs (R348). -/
def Inst.mismatch (x : Inst) (m : FabMsg) : Nat :=
  let b := putField x.blk 344 16 (XHdr.epoch m)
  if XHdr.epoch m ≠ x.layout.epoch ∧ roundSig b x.rb = XHdr.sig m then St.epochMismatch else St.paramMismatch

/-- A ring message joins its half slice. -/
def takeRing (sx : State × Inst) (k : XKind) (m : FabMsg) : State × Inst :=
  let x := sx.2
  let idx := XHdr.stepIdx m
  let final := decide (32 ≤ idx % 64)
  match (x.halves k).find? fun rh => decide (xElem k (halfSlice (x.blocks k) x.layout.members rh.1 rh.2).1 = XHdr.elem m) with
  | none => sx
  | some rh =>
    let h := halfSlice (x.blocks k) x.layout.members rh.1 rh.2
    let body := XHdr.body m
    let key := 2 * rh.1 + rh.2
    let g := Tbl.get 0 x.prog key
    let x := { x with prog := Tbl.set 0 x.prog key (withBit g (if final then haveBit else gotBit (idx / 64))) }
    if k = .piece then
      let x := { x with
        counts := Tbl.set 0 x.counts rh.1 (leNat (slice body 0 4))
        pieces := Tbl.set [] x.pieces (2 * rh.1 + rh.2) (slice body 8 (h.2 - h.1)) }
      announcePieces (flushHalf k (sx.1, x) rh)
    else flushHalf k (sx.1, x.decodeAll k final h.1 (h.2 - h.1) body) rh

/-- A direct message of all-to-all or of the expert exchange. -/
def takeDirect (sx : State × Inst) (m : FabMsg) : State × Inst :=
  let s := sx.1
  let x := sx.2
  let r := (x.layout.rankOf s.fab.dims m.src).getD 0
  let body := XHdr.body m
  match m.op with
  | 0x35 => (s, { x with arrived := x.arrived ++ [r], pieces := Tbl.set [] x.pieces r body })
  | 0x36 => (s, s.takeCounts x r body)
  | 0x37 => (s, x.takeQuotas r body)
  | 0x38 => takeRow sx (leNat (slice body 0 2)) (leNat (slice body 2 2)) (XHdr.elem m) (body.drop 4)
  | _ =>
    match s.pairOf x with
    | none => sx
    | some d => combineRow sx d (leNat (slice body 0 2)) (leNat (slice body 2 2)) (body.drop 4)

/-- A piece whose version moved while it was read, or under `VER_MODE` 2 is not the one asked for (R377, R378). -/
def State.stalePiece (s : State) (x : Inst) (m : FabMsg) : Bool :=
  let v (i : Nat) : Nat := leNat (slice (XHdr.body m) (4 * i) 4)
  decide (IBlk.op x.blk = 3) && decide (IBlk.verMode x.blk ≠ 0) &&
  (decide (v 0 ≠ v 1) || (decide (IBlk.verMode x.blk = 2) &&
    (((x.halves .piece).find? fun rh => decide ((halfSlice (x.blocks .piece) x.layout.members rh.1 rh.2).1 = XHdr.elem m)).any
      fun rh => decide (v 0 ≠ s.versionAsked x rh.1))))

/-- An instance takes a message; an address fault of its owner takes the place of its effect where a range of the instance is no
more the partition's. -/
def State.takeX (s : State) (x : Inst) (m : FabMsg) : State :=
  if !s.atHand (s.instRanges x) then s.serviceFault (IBlk.owner x.blk)
  else if m.op = 0x3A then
    s.setInst { x with status := leNat (slice (XHdr.body m) 0 2), causeModule := leNat (slice (XHdr.body m) 2 2), phase := .ending }
  else if x.sig ≠ XHdr.sig m then s.failRound x (x.mismatch m)
  else if x.layout.epoch ≠ XHdr.epoch m then s.failRound x St.epochMismatch
  else if m.op = 0x35 ∧ s.stalePiece x m then s.failRound x St.staleShard
  else
    match x.kind with
    | some k => s.putAdvance (takeRing (s, x) k m)
    | none => s.putAdvance (takeDirect (s, x) m)

/-- Take the first held message that an instance has come to, or that is ignored, with none of its session before it; `n`
times. -/
def State.drainX (s : State) (p : Nat) : Nat → State
  | 0 => s
  | n + 1 =>
    let l := (s.part p).xheld
    let free (i : Nat) (m : FabMsg) : Bool := (l.take i).all fun e => decide (sessAt e ≠ sessAt m)
    match ((List.range l.length).zip l).find? fun im => free im.1 im.2 && ((s.takerOf im.2).isSome || s.lateAbort im.2) with
    | none => s
    | some (i, m) =>
      let taker := s.takerOf m
      let s := (s.modPart p fun P => { P with xheld := dropAt P.xheld i }).delivered m
      match taker with
      | none => (s.ackMsg m 0).drainX p n
      | some x =>
        ((s.takeX x m).ackMsg m (if m.op ≠ 0x3A ∧ x.layout.epoch ≠ XHdr.epoch m then 0x41 else 0)).drainX p n

def State.drainAll (s : State) (p : Nat) : State := s.drainX p (2 * (s.part p).xheld.length)

/-- An exchange message arrives: it is held until an instance comes to it, which may be at once (R384). -/
def takeExchange (op : Nat) (m : FabMsg) : State → Res :=
  hubWork fun s =>
    let s := s.takeRx m
    if m.op ≠ op then s
    else
      match s.arrival m with
      | .notOpen => s.ackMsg m 0x41
      | .duplicate => if (s.part m.dpart).xheld.any fun e => decide (sessAt e = sessAt m) && decide (e.sseq = m.sseq) then s else s.ackMsg m 0
      | .early => s
      | .next => ((s.expectNext m).modPart m.dpart fun P => { P with xheld := P.xheld ++ [m] }).drainAll m.dpart

def execXchRoll (m : FabMsg) : State → Res := takeExchange 0x30 m
def execXchAgree (m : FabMsg) : State → Res := takeExchange 0x31 m
def execXchWx (m : FabMsg) : State → Res := takeExchange 0x32 m
def execXchBfx (m : FabMsg) : State → Res := takeExchange 0x33 m
def execXchProbe (m : FabMsg) : State → Res := takeExchange 0x34 m
def execXchPiece (m : FabMsg) : State → Res := takeExchange 0x35 m
def execXchCount (m : FabMsg) : State → Res := takeExchange 0x36 m
def execXchQuota (m : FabMsg) : State → Res := takeExchange 0x37 m
def execXchToken (m : FabMsg) : State → Res := takeExchange 0x38 m
def execXchReturn (m : FabMsg) : State → Res := takeExchange 0x39 m
def execXchAbort (m : FabMsg) : State → Res := takeExchange 0x3A m

/-- The `i`-th held message has waited for its sender's `TIMEOUT_MS`: it is refused; where it differs from the roll call of a
round here, that round ends (R348, log 105). -/
def execXchHoldTimeout (p : Part) (i : Nat) : State → Res :=
  hubWork fun s =>
    match (s.part p).xheld[i]? with
    | none => s
    | some m =>
      let other := (s.part p).insts.filter fun x => s.rollDiffers x m
      let s := (s.modPart p fun P => { P with xheld := dropAt P.xheld i }).ackMsg m 0x41
      (other.foldl (fun s x => s.failRound x (x.mismatch m)) s).drainAll p

/-! ### Rounds (R345, R349, R354) -/

/-- An instance is armed and waits for its trigger. -/
def State.waitTrigger (s : State) (x : Inst) : State := s.hubWait (.coll x.part x.h) (IBlk.trigObj x.blk) x.ctx x.part

/-- The round block is read, and the roll call begins, or the agreement that carries it (R345, R348, R363). -/
def State.beginRound (s : State) (x : Inst) : State :=
  let rb := leNat (s.addrRead (IBlk.paramAddr x.blk) 64)
  let x : Inst := { h := x.h, ctx := x.ctx, part := x.part, blk := x.blk, layout := x.layout, round := x.round, cancel := x.cancel,
                    uid := x.uid, pairUid := x.pairUid, pairRound := s.pairRoundOf x, rb := rb, sig := roundSig x.blk rb }
  let b := x.blk
  if IBlk.reduces b ∧ !IBlk.bfx b ∧ IBlk.srcKind b = 1 then
    let x := { x with phase := .agree }
    if s.summariesOk x then s.putAdvance (enterRing (s.setInst x, x) .agree State.loadAgree) else s.failRound x St.windowMismatch
  else if IBlk.op b = 3 ∧ IBlk.verMode b = 2 ∧ s.ownVersion x ≠ s.versionAsked x (s.rankIn x.layout) then
    s.failRound { x with phase := .roll } St.staleShard
  else s.putAdvance (enterRing (s.setInst { x with phase := .roll }, x) .roll fun _ y => y)

def execRoundTrigger (p : Part) (h : Nat) : State → Res :=
  hubWork fun s =>
    match s.inst p h with
    | none => s
    | some x =>
      if x.phase = .trigger ∧ s.sync.granted.contains (.coll p h) ∧ (s.ctx x.ctx).st = .resident then
        s.onRanges (IBlk.owner x.blk) (s.instRanges x) fun s => ((s.takeGrant (.coll p h)).beginRound x).drainAll p
      else s

/-- The instance that an export feeds, and its tile. -/
def State.exportTo (s : State) (t : BankXfer) : Option (Inst × Nat) :=
  ((s.part (s.ctx t.ctx).part).insts.find? fun x =>
      decide (x.ctx = t.ctx) && IBlk.reduces x.blk && decide (IBlk.srcKind x.blk = 1) &&
      decide ((t.agree + 2 ^ 16 - IBlk.agreeBase x.blk) % 2 ^ 16 < IBlk.tiles x.blk)).map
    fun x => (x, (t.agree + 2 ^ 16 - IBlk.agreeBase x.blk) % 2 ^ 16)

/-- The staged entries of an exported bank. -/
def stageBytes (t : BankXfer) : Bytes := t.accs.flatMap fun a => RedEntry.bytes { acc := a, terms := t.terms }

/-- The exchange unit takes the `i`-th bank transfer on its way, an export, or refuses it with cause 0x4A. -/
def execExportBank (i : Nat) : State → Res :=
  engines fun s0 =>
    match s0.bankFlight[i]? with
    | none => s0
    | some t =>
      if !t.isExport then s0
      else
        let s := { s0 with bankFlight := dropAt s0.bankFlight i }
        let refuse : State := s.modSender t fun d => { d with bankWait := false, cause := 0x4A }
        match s0.exportTo t with
        | none => refuse
        | some (x, tile) =>
          if !s0.instReached x then s0
          else if !s0.atHand (s0.instRanges x) then refuse.serviceFault (IBlk.owner x.blk)
          else if x.phase ≠ .data ∨ x.cancel ∨ x.exported.contains tile then refuse
          else
            let s := s.modSender t fun d => { d with bankWait := false }
            let okWin := IBlk.bfx x.blk || (((List.range 256).zip t.accs).all fun ia => ia.2.nonfinite || decide (ia.2.win = x.window (256 * tile + ia.1)))
            if !okWin then s.failRound x St.windowMismatch
            else
              let sx := roundPut (s, { x with exported := x.exported ++ [tile] }) (IBlk.stageAddr x.blk + 8192 * tile) (stageBytes t)
              if sx.2.exported.length = IBlk.tiles x.blk then
                (s.putAdvance (enterRing sx .data State.loadData)).drainAll x.part
              else sx.1.setInst sx.2

/-- A `COMBINE` may use a round of the `DISPATCH` instance (R381). -/
def Inst.pairs (x d : Inst) : Bool := decide (IBlk.op x.blk = 7) && decide (x.pairUid = d.uid)

/-- Disarm an instance; what ended rounds of a `DISPATCH` leave goes with the last instance that may use it. -/
def State.disarm (s : State) (x : Inst) : State :=
  (s.hubUnwait (.coll x.part x.h) (IBlk.trigObj x.blk)).modPart x.part fun P =>
    let insts := P.insts.filter fun y => decide (y.h ≠ x.h)
    { P with
      insts := insts
      dispatched := P.dispatched.filter fun d => insts.any fun y => decide (y.uid = d.uid) || y.pairs d }

/-- A collective session to some member has failed (R349). -/
def State.lostMember (s : State) (x : Inst) : Bool :=
  (x.others (s.rankIn x.layout)).any fun r =>
    decide ((s.session (State.sessKey x.part 1 (x.layout.module s.fab.dims r))).st = .failed)

/-- Status record (R349). -/
def Inst.statusRecord (x : Inst) : Bytes :=
  leBytes 32 (pack [(224, 32, x.unresolved), (192, 32, x.dropped), (128, 64, x.round), (96, 32, x.sig), (80, 16, x.layout.epoch),
    (64, 16, x.status), (53, 11, x.causeModule)])

/-- Bytes of the destination of an instance, but for the slots of a `DISPATCH`. -/
def State.dstBytes (s : State) (x : Inst) : Nat :=
  let b := x.blk
  match IBlk.op b with
  | 1 | 2 => let r := s.resultRange x; resultSize (IBlk.dstFmt b) * (r.2 - r.1)
  | 3 => x.layout.members * IBlk.count b
  | 4 => IBlk.count b
  | 5 => ceilDiv (IBlk.count b) 32
  | 6 => 0
  | _ => resultSize (IBlk.dstFmt b) * (IBlk.tokens b * (IBlk.rowBytes b / 2))

/-- Ranges of the destination of an instance. -/
def State.dstRanges (s : State) (x : Inst) : List (Nat × Nat) :=
  let b := x.blk
  if IBlk.op b = 6 then
    (x.expertsOf (s.rankIn x.layout)).map fun e => (x.slotAddr (IBlk.dstAddr b) e 0, IBlk.rowBytes b * IBlk.capacity b)
  else [(IBlk.dstAddr b, s.dstBytes x)]

/-- The statuses under which what a round may have written is undefined. -/
def leavesUndefined (status : Nat) : Bool :=
  decide (status = St.sessionFailed) || decide (status = St.timeout) || decide (status = St.aborted)

/-- What outlives a round: that it ended (R350), and the routes of a `DISPATCH` (R381). -/
def State.roundOver (s : State) (x : Inst) : State :=
  s.modPart x.part fun P => { P with
    ended := P.ended.filter (fun e => decide ((e.1, e.2.1, e.2.2.1) ≠ (IBlk.group x.blk, x.round % 2 ^ 24, x.sig))) ++
      [(IBlk.group x.blk, x.round % 2 ^ 24, x.sig, x.status)]
    dispatched := if IBlk.op x.blk = 6 then
        P.dispatched.filter (fun d => decide (d.uid ≠ x.uid) || P.insts.any fun y => y.pairs d && decide (y.pairRound = some d.round)) ++ [x]
      else P.dispatched }

/-- The end of a round (R349): its writes, the status record, the statistics record, the done signal; then the next round
or the end of the instance. -/
def State.endRound (s : State) (x : Inst) : State :=
  let b := x.blk
  let s :=
    if leavesUndefined x.status then
      s.havocKeys (nub (((s.dstRanges x ++ x.ranges).filter fun r => s.rangeOpen r.1 r.2).flatMap fun r => s.addrKeys r.1 r.2))
    else s
  let sx := roundPut (s, x) (IBlk.statusAddr b) x.statusRecord
  let sx := if IBlk.statsAddr b = 0 then sx else roundPut sx (IBlk.statsAddr b) x.stats.bytes
  let s := ((sx.1.raiseShards x.part sx.2.ranges).roundOver x).instSignal x (IBlk.doneObj b) (IBlk.doneN b)
  let next := x.round + 1
  if x.cancel ∨ IBlk.rounds b = next then s.disarm x
  else
    let y : Inst := { h := x.h, uid := x.uid, pairUid := x.pairUid, ctx := x.ctx, part := x.part, blk := b, layout := x.layout, round := next }
    (s.setInst y).waitTrigger y

/-- The status that a cancelled instance, or one that lost a member, ends its round with. -/
def State.endStatus (s : State) (x : Inst) : Option Nat :=
  if x.phase = .trigger ∨ (x.phase = .ending ∧ (x.cancel = false ∨ x.status ≠ 0)) then none
  else if x.cancel then some St.aborted
  else if s.lostMember x then some St.sessionFailed
  else none

def execRoundEnd (p : Part) (h : Nat) : State → Res :=
  hubWork fun s =>
    match s.inst p h with
    | none => s
    | some x =>
      if x.phase = .trigger then (if x.cancel then s.disarm x else s)
      else
        match s.endStatus x with
        | some st =>
          let s := s.failRound x st
          (s.endRound { x with status := st, causeModule := s.myId, phase := .ending }).drainAll p
        | none => if x.phase = .ending then (s.endRound x).drainAll p else s

/-- `TIMEOUT_MS` has passed since the trigger of the round. A round that is to end with `ABORTED` does so (R351); one whose roll
call met another member's that differs ends with the mismatch (R348, log 105). -/
def execRoundTimeout (p : Part) (h : Nat) : State → Res :=
  hubWork fun s =>
    match s.inst p h with
    | none => s
    | some x =>
      if x.phase = .trigger ∨ x.phase = .ending ∨ x.cancel then s
      else
        match (s.part p).xheld.find? fun m => s.rollDiffers x m with
        | some m => s.failRound x (x.mismatch m)
        | none => s.failRound x St.timeout

/-! ### Layouts (R373, R374) -/

def State.group (s : State) (p g : Nat) : Option Group := Tbl.get none (s.part p).groups g

def State.setGroup (s : State) (p g : Nat) (x : Option Group) : State :=
  s.modPart p fun P => { P with groups := Tbl.set none P.groups g x }

/-- `RESULT` of COLL_GROUP_DEFINE and EPOCH_ADVANCE (R463). -/
def State.groupResult (s : State) (l : Layout) : Nat := pack [(0, 16, l.epoch), (16, 11, s.rankIn l)]

/-- A layout of a group has an instance that is armed in it (R374). -/
def State.layoutInUse (s : State) (p g : Nat) (l : Layout) : Bool :=
  (s.part p).insts.any fun x => decide (IBlk.group x.blk = g) && decide (x.layout = l)

/-- Old layouts of a group that have no instance left are dropped, and an EPOCH_ADVANCE that waited for one completes. -/
def execLayoutDrained (p : Part) (g : Nat) : State → Res :=
  engines fun s =>
    match s.group p g with
    | none => s
    | some G =>
      let kept := G.old.filter (s.layoutInUse p g)
      if kept = G.old then s
      else
        match G.waiting with
        | none => s.setGroup p g (some { G with old := kept })
        | some n =>
          let n := { n with epoch := (G.cur.epoch + 1) % 2 ^ 16 }
          let s := s.setGroup p g (some { cur := n, old := kept ++ [G.cur] })
          { s with cmds := modFirst (fun c => decide (c.phase = .waiting) && decide (Slot.op c.slot = 0x62) && decide (srcPart c.src = p.val) &&
                decide (bits c.slot 131 128 = g)) (fun c => c.complete St.ok (s.groupResult n)) s.cmds }

end Sys2Proof.Machine
end

