-- ==== Sys2Proof/Machine/Training.lean ====
section
/-! DEFINITION. Machine/Training.lean: the services beside a training program (R385 to R410): off-load policies,
checkpoints, and the numerics watch. What a service reads in other modules is an operand of its command (log 38). -/

namespace Sys2Proof.Machine

/-! ### Blocks (R391, R468 to R470) -/
namespace PBlk
def targetBase (b : Nat) : Nat := bits b 511 448
def slotAddr (b : Nat) : Nat := bits b 447 384
def statusAddr (b : Nat) : Nat := bits b 383 320
def workAddr (b : Nat) : Nat := bits b 319 256
def stashObj (b : Nat) : Nat := bits b 255 240
def backObj (b : Nat) : Nat := bits b 239 224
def relObj (b : Nat) : Nat := bits b 223 208
def freeObj (b : Nat) : Nat := bits b 207 192
def readyObj (b : Nat) : Nat := bits b 191 176
def slots (b : Nat) : Nat := bits b 175 165
def depth (b : Nat) : Nat := bits b 164 158
def owner (b : Nat) : Nat := 4 * bits b 157 150 + bits b 149 148
def ctx (b : Nat) : Nat := bits b 147 138
def lent (b : Nat) : Bool := bit b 137
end PBlk

namespace CBlk
def hdr (b : Bytes) : Nat := leNat (slice b 0 64)
def step (b : Bytes) : Nat := bits (hdr b) 511 448
def statusAddr (b : Bytes) : Nat := bits (hdr b) 447 384
def doneObj (b : Bytes) : Nat := bits (hdr b) 383 368
def owner (b : Bytes) : Nat := 4 * bits (hdr b) 367 360 + bits (hdr b) 359 358
def ctx (b : Bytes) : Nat := bits (hdr b) 357 348
def nRanges (b : Bytes) : Nat := bits (hdr b) 347 341
def nTargets (b : Bytes) : Nat := bits (hdr b) 340 338
def nSlots (b : Bytes) : Nat := bits (hdr b) 337 336
def seqReq (b : Bytes) : Nat := bits (hdr b) 335 304
def progOut (b : Bytes) : Nat := bits (hdr b) 303 240
def progBlock (b : Bytes) : Bytes := slice b 64 64
/-- The ranges, as (address, length). -/
def ranges (b : Bytes) : List (Nat × Nat) :=
  (List.range (nRanges b)).map fun i => (leNat (slice b (128 + 16 * i) 8), leNat (slice b (136 + 16 * i) 8))
/-- The targets, as (space-0x80 base, length). -/
def targets (b : Bytes) : List (Nat × Nat) :=
  (List.range (nTargets b)).map fun i => (leNat (slice b (1152 + 16 * i) 8), leNat (slice b (1160 + 16 * i) 8))
def total (b : Bytes) : Nat := ((ranges b).map (·.2)).foldl (· + ·) 0
end CBlk

namespace WBlk
def hdr (b : Bytes) : Nat := leNat (slice b 0 64)
def ringAddr (b : Bytes) : Nat := bits (hdr b) 511 448
def probeSrc (b : Bytes) : Nat := bits (hdr b) 447 384
def probeDst (b : Bytes) : Nat := bits (hdr b) 383 320
def trigObj (b : Bytes) : Nat := bits (hdr b) 319 304
def doneObj (b : Bytes) : Nat := bits (hdr b) 303 288
/-- `ALARM_OBJ`, or `SC_APPLY_OBJ` of a scale table. -/
def thirdObj (b : Bytes) : Nat := bits (hdr b) 287 272
def ring (b : Bytes) : Nat := bits (hdr b) 271 256
def items (b : Bytes) : Nat := bits (hdr b) 255 243
def e0 (b : Bytes) : Int := signed 10 (bits (hdr b) 242 233)
def owner (b : Bytes) : Nat := 4 * bits (hdr b) 232 225 + bits (hdr b) 224 223
def ctx (b : Bytes) : Nat := bits (hdr b) 222 213
/-- Bytes of an item by kind. -/
def itemSize (kind : Nat) : Nat := if kind = 0 then 32 else if kind = 1 then 96 else 80
def item (kind : Nat) (b : Bytes) (i : Nat) : Bytes := slice b (64 + itemSize kind * i) (itemSize kind)
/-- Bytes of a record by kind. -/
def recSize (kind : Nat) : Nat := if kind = 0 then 8 else if kind = 1 then 576 else 16
/-- Address of the record of an item for a step. -/
def recAddr (kind : Nat) (b : Bytes) (step i : Nat) : Nat :=
  ringAddr b + (if kind = 2 then 0 else step % ring b * recSize kind * items b) + recSize kind * i
end WBlk

/-! ### Shared by the services (R386) -/

/-- The context of a service is there: where it has gone, no signal is raised (R401). -/
def State.ctxHere (s : State) (ctx part : Nat) : Bool :=
  decide ((s.ctx ctx).part = part) && decide ((s.ctx ctx).st ≠ .none) && decide ((s.ctx ctx).st ≠ .destroying)

/-- A signal of a service, raised as its owner: one that its object refuses is charged to the owner (R223, R386). -/
def State.serviceSignal (s : State) (obj owner ctx part : Nat) : State :=
  if s.ctxHere ctx part then s.hubSignal obj 1 owner ctx part else s

/-- Bytes of a service for another module on the bulk class (R398). -/
def State.sendBulk (s : State) (p : Nat) (who : SvcRef) (a : Nat) (bs : Bytes) : State :=
  (cutPieces [(a, bs)]).foldl (fun s x =>
    s.sendOrFail (State.sessKey p 2 (moduleOfAddr x.1)) { msg := bareMsg 0x01 (remoteAddr x.1) x.2.length x.2, svc := some who }) s

/-- Ask another module for bytes on the bulk class. -/
def State.readBulk (s : State) (p : Nat) (who : SvcRef) (a n : Nat) : State :=
  (cutPieces [(a, List.replicate n 0)]).foldl (fun s x =>
    let r := s.takeTag
    r.2.sendOrFail (State.sessKey p 2 (moduleOfAddr x.1)) { msg := { bareMsg 0x02 (remoteAddr x.1) x.2.length [] with tag := r.1 }, svc := some who }) s

/-- No message about a range of another module is outstanding. -/
def State.bulkDone (s : State) (p a n : Nat) : Bool :=
  let S := s.session (State.sessKey p 2 (moduleOfAddr a))
  (S.out ++ S.waitq).all fun o => !(overlaps (o.msg.addr, o.msg.len) (remoteAddr a, n)) || decide (2 < o.msg.op)

/-- The bulk session to a range's module is open. -/
def State.bulkOpen (s : State) (p a : Nat) : Bool :=
  decide ((s.session (State.sessKey p 2 (moduleOfAddr a))).st = .opened)

def chunkBytes : Nat := 65536

/-- A string cut into chunks of 64 KiB. -/
def chunksOf (bs : Bytes) : List Bytes := if bs.isEmpty then [] else pieces chunkBytes (bs.length / chunkBytes + 1) bs

/-! ### Off-load policies (R391 to R396) -/

def State.policy (s : State) (p h : Nat) : Option Policy := (s.part p).policies.find? fun x => decide (x.h = h)

def State.setPolicy (s : State) (p : Nat) (x : Policy) : State :=
  s.modPart p fun P => { P with policies := P.policies.map fun y => if y.h = x.h then x else y }

/-- Slot table entry `j` (R391). -/
def State.slotEntry (s : State) (b j : Nat) : Nat := leNat (s.addrRead (PBlk.slotAddr b + 32 * j) 32)
def slotLocal (e : Nat) : Nat := bits e 255 192
def slotRestore (e : Nat) : Nat := bits e 191 128
def slotBytes (e : Nat) : Nat := bits e 127 88
def slotKind (e : Nat) : Nat := bits e 1 0

/-- Bytes that a slot takes in the target range. -/
def slotRoom (e : Nat) : Nat := ceilDiv (slotBytes e) chunkBytes * chunkBytes

/-- Address of slot `j` in the target range. -/
def State.slotTarget (s : State) (b j : Nat) : Nat :=
  PBlk.targetBase b + ((List.range j).map fun i => slotRoom (s.slotEntry b i)).foldl (· + ·) 0

/-- Chunks of the largest slot. -/
def State.slotChunks (s : State) (b : Nat) : Nat :=
  ((List.range (PBlk.slots b)).map fun i => slotRoom (s.slotEntry b i) / chunkBytes).foldl max 0

/-- Where the chunk CRCs of slot `j` stand. -/
def State.slotWork (s : State) (b j : Nat) : Nat := PBlk.workAddr b + 4 * s.slotChunks b * j

def crcTable (bs : Bytes) : Bytes := (chunksOf bs).flatMap fun c => leBytes 4 (crc32c c)

/-- Bytes of host memory behind host-window offsets, as (host address, length) pieces. -/
def State.hostPieces (s : State) (p : Nat) (write : Bool) : Nat → Nat → Nat → List (Nat × Nat)
  | 0, _, _ => []
  | k + 1, a, n =>
    if n = 0 then []
    else
      match s.hostMap p a with
      | none => []
      | some m =>
        let l := min n (m.winOff + m.len - a)
        (m.host + (a - m.winOff), l) :: s.hostPieces p write k (a + l) (n - l)

/-- Write through the host window; none where the map has gone or does not permit it. -/
def State.windowWrite (s : State) (p off : Nat) (bs : Bytes) : Option State :=
  if s.hostCovered p true 257 off bs.length then
    some ((s.hostPieces p true 257 off bs.length).foldl (fun (x : State × Bytes) y =>
      (x.1.hostWrite (s.part p).hostPort y.1 (x.2.take y.2), x.2.drop y.2)) (s.addWork p 6 bs.length, bs)).1
  else none

def State.windowRead (s : State) (p off n : Nat) : Option Bytes :=
  if s.hostCovered p false 257 off n then
    some ((s.hostPieces p false 257 off n).flatMap fun y => s.hostRead (s.part p).hostPort y.1 y.2)
  else none

def Policy.slot (x : Policy) (j : Nat) : SlotSt := Tbl.get .none x.slots j
def Policy.setSlot (x : Policy) (j : Nat) (t : SlotSt) : Policy := { x with slots := Tbl.set .none x.slots j t }

/-- The policy waits for the next stash of its round. -/
def State.waitStash (s : State) (p : Nat) (x : Policy) : State :=
  if x.stashed < PBlk.slots x.blk then s.hubWait (.stash p x.h) (PBlk.stashObj x.blk) x.ctx p else s

/-- A round begins: the waits for its first stash and for its backward pass. -/
def State.waitRound (s : State) (p : Nat) (x : Policy) : State :=
  (s.waitStash p x).hubWait (.back p x.h) (PBlk.backObj x.blk) x.ctx p

/-- The round is over once every slot has been stashed and every `READY_OBJ` signal is out (R396). -/
def State.endPolicyRound (s : State) (p : Nat) (x : Policy) : State :=
  let n := PBlk.slots x.blk
  if x.ready = n ∧ x.stashed = n then
    let y : Policy := { h := x.h, ctx := x.ctx, blk := x.blk, round := x.round + 1 }
    (s.setPolicy p y).waitRound p y
  else s.setPolicy p x

def State.policySignal (s : State) (p : Nat) (x : Policy) (obj : Nat) : State :=
  s.serviceSignal obj (PBlk.owner x.blk) x.ctx p

/-- The policy's context runs (R396). -/
def State.policyRuns (s : State) (x : Policy) : Bool := decide ((s.ctx x.ctx).st = .resident)

/-- Copy a slot to its target, its chunk CRCs into the work area. -/
def State.copySlot (s : State) (p : Nat) (x : Policy) (j : Nat) : State × Bool :=
  let b := x.blk
  let e := s.slotEntry b j
  let bs := s.addrRead (slotLocal e) (slotBytes e)
  let t := s.slotTarget b j
  let s := s.addrWrite (s.slotWork b j) (crcTable bs)
  if PBlk.lent b then (s.sendBulk p (.slot p x.h x.round j) t bs, false)
  else
    match s.windowWrite p (t % 2 ^ 56) bs with
    | some u => (u, false)
    | none => (s, true)

/-- Forward slot j: a moved slot is copied, unless it has fallen due already and stays where it is; a recompute slot is free at
once, whether it has fallen due or not. -/
def State.stashSlot (s : State) (p : Nat) (x : Policy) : State :=
  let j := x.stashed
  let x := { x with stashed := j + 1 }
  let next (s : State) (x : Policy) : State := (s.endPolicyRound p x).waitStash p x
  if slotKind (s.slotEntry x.blk j) = 1 then
    next (s.policySignal p x (PBlk.freeObj x.blk)) (if x.slot j = .none then x.setSlot j .free else x)
  else if x.slot j ≠ .none then next s x
  else
    let x := x.setSlot j .copying
    let r := (s.setPolicy p x).copySlot p x j
    if r.2 then r.1.loseService (.slot p x.h x.round j) else r.1

def execStash (p : Part) (h : Nat) : State → Res :=
  hubWork fun s =>
    match s.policy p h with
    | none => s
    | some x =>
      if s.sync.granted.contains (.stash p h) ∧ s.policyRuns x ∧ x.stashed < PBlk.slots x.blk then
        let e := s.slotEntry x.blk x.stashed
        s.onRanges (PBlk.owner x.blk) (if slotKind e = 1 then [] else [(slotLocal e, slotBytes e)])
          fun s => (s.takeGrant (.stash p h)).stashSlot p x
      else s

def execStashCopyEnd (p : Part) (h j : Nat) : State → Res :=
  hubWork fun s =>
    match s.policy p h with
    | none => s
    | some x =>
      if x.slot j ≠ .copying ∨ (PBlk.lent x.blk ∧ !s.bulkDone p (s.slotTarget x.blk j) (slotBytes (s.slotEntry x.blk j))) then s
      else
        let x := x.setSlot j .free
        ((s.policySignal p x (PBlk.freeObj x.blk)).endPolicyRound p x).waitStash p x

/-- Releases received so far: the policy takes what the counter holds (log 39). -/
def State.absorbReleases (s : State) (p : Nat) (x : Policy) : State × Nat :=
  let o := s.obj (PBlk.relObj x.blk)
  match firstErr [accessErr o x.ctx p false, kindErr o .counter] with
  | some _ => (s, 0)
  | none =>
    if o.count = 0 ∨ o.frozen then (s, 0)
    else (s.setObj (PBlk.relObj x.blk) { o with count := 0 }, o.count)

def execBackwardStart (p : Part) (h : Nat) : State → Res :=
  engines fun s =>
    match s.policy p h with
    | none => s
    | some x =>
      if s.sync.granted.contains (.back p h) ∧ s.policyRuns x ∧ x.backward = false then
        let r := (s.takeGrant (.back p h)).absorbReleases p x
        r.1.setPolicy p { x with backward := true, rel := 0 }
      else s

/-- Slot status word (R394). -/
def slotStatus (round status : Nat) : Bytes := leBytes 8 (pack [(32, 32, round), (0, 3, status)])

/-- The status word of a slot is written, and then its `READY_OBJ` signal raised (R394). -/
def State.slotReady (s : State) (p : Nat) (x : Policy) (j status : Nat) : State :=
  let s := s.addrWrite (PBlk.statusAddr x.blk + 8 * j) (slotStatus x.round status)
  let x := { x with ready := x.ready + 1 }
  (s.policySignal p x (PBlk.readyObj x.blk)).endPolicyRound p x

/-- The next backward slot falls due: recomputed, kept with its copy abandoned, or restored. -/
def State.dueSlot (s : State) (p : Nat) (x : Policy) : State :=
  let j := PBlk.slots x.blk - 1 - x.due
  let e := s.slotEntry x.blk j
  let x := { x with due := x.due + 1 }
  if slotKind e = 1 then s.slotReady p (x.setSlot j .done) j 1
  else if x.slot j = .free then
    let s := s.setPolicy p (x.setSlot j .restoring)
    if PBlk.lent x.blk then s.readBulk p (.slot p x.h x.round j) (s.slotTarget x.blk j) (slotBytes e) else s
  else
    let s' := s.slotReady p (x.setSlot j .abandoned) j 2
    if x.slot j = .copying then s'.waitStash p x else s'

def execSlotDue (p : Part) (h : Nat) : State → Res :=
  hubWork fun s =>
    match s.policy p h with
    | none => s
    | some x =>
      if x.backward = false ∨ PBlk.slots x.blk ≤ x.due ∨ !s.policyRuns x then s
      else
        let r := s.absorbReleases p x
        let x := { x with rel := x.rel + r.2 }
        if x.due ≤ x.rel + PBlk.depth x.blk then r.1.dueSlot p x else r.1.setPolicy p x

/-- Data of a slot at its target; none where the target has gone (R395). -/
def State.slotData (s : State) (p : Nat) (x : Policy) (j : Nat) (remote : Option Bytes) : Option Bytes :=
  let n := slotBytes (s.slotEntry x.blk j)
  let t := s.slotTarget x.blk j
  if x.gone.contains j then none
  else if PBlk.lent x.blk then (if s.bulkOpen p t then remote.map (slice · 0 n) else none)
  else s.windowRead p (t % 2 ^ 56) n

/-- A restore ends: OK, CORRUPT, or LOST; where it is not OK the restore range is undefined. -/
def State.restoreSlot (s : State) (p : Nat) (x : Policy) (j : Nat) (remote : Option Bytes) : State :=
  let e := s.slotEntry x.blk j
  let x := x.setSlot j .done
  let undefined (s : State) : State := s.havocKeys (s.addrKeys (slotRestore e) (slotBytes e))
  match s.slotData p x j remote with
  | none => (undefined s).slotReady p x j 4
  | some bs =>
    let t := crcTable bs
    let s := if PBlk.lent x.blk then s else s.addWork p 6 bs.length
    if s.addrRead (s.slotWork x.blk j) t.length = t then
      (s.addrWrite (slotRestore e) bs).slotReady p x j 0
    else (undefined s).slotReady p x j 3

def execSlotRestoreEnd (p : Part) (h j : Nat) (remote : Option Bytes) : State → Res :=
  hubWork fun s =>
    match s.policy p h with
    | none => s
    | some x =>
      if x.slot j = .restoring then
        let e := s.slotEntry x.blk j
        s.onRanges (PBlk.owner x.blk) [(slotRestore e, slotBytes e)] fun s => s.restoreSlot p x j remote
      else s

/-! ### Checkpoints (R397 to R404) -/

/-- Manifest of a checkpoint (R399). -/
structure Manifest where
  prog : Bytes
  digest : Bytes
  step : Nat
  total : Nat
  chunks : Nat
  seq : Nat
  ranges : Nat
  srcModule : Nat
  srcPart : Nat
  tidx : Nat
  tcount : Nat
  slot : Nat
  valid : Bool

def Manifest.bytes (m : Manifest) : Bytes :=
  leBytes 64 (pack [(448, 64, m.step), (384, 64, m.total), (352, 32, m.chunks), (320, 32, m.seq), (312, 8, m.ranges),
    (301, 11, m.srcModule), (298, 3, m.srcPart), (295, 3, m.tidx), (292, 3, m.tcount), (290, 2, m.slot), (0, 1, b2n m.valid)]) ++
  leBytes 64 0 ++ pad 64 m.digest ++ pad 64 m.prog

def Manifest.parse (bs : Bytes) : Manifest :=
  let w := leNat (slice bs 0 64)
  { prog := slice bs 192 64, digest := slice bs 128 64, step := bits w 511 448, total := bits w 447 384, chunks := bits w 383 352,
    seq := bits w 351 320, ranges := bits w 319 312, srcModule := bits w 311 301, srcPart := bits w 300 298, tidx := bits w 297 295,
    tcount := bits w 294 292, slot := bits w 291 290, valid := bit w 0 }

/-- The slot that a checkpoint writes at a target, by the manifests found there (R399). -/
def State.chooseSlot (s : State) (p nSlots : Nat) (found : List Bytes) : Nat :=
  let good (i : Nat) : Option Nat :=
    (found[i]?).bind fun bs =>
      let m := Manifest.parse bs
      if bs.length = 256 ∧ m.valid ∧ m.srcModule = s.myId ∧ m.srcPart = p then some m.seq else none
  if nSlots = 1 then 0
  else
    match good 0, good 1 with
    | none, _ => 0
    | some _, none => 1
    | some a, some b => if b < a then 1 else 0

/-- Pieces of a list of ranges that hold `n` bytes of their sequence from offset `off` on. -/
def cutRanges : List (Nat × Nat) → Nat → Nat → List (Nat × Nat)
  | [], _, _ => []
  | (a, l) :: rs, off, n =>
    if l ≤ off then cutRanges rs (off - l) n
    else
      let m := min n (l - off)
      (a + off, m) :: cutRanges rs 0 (n - m)

/-- Chunks of the source, and chunk `k` as it reads now (R398). -/
def CBlk.chunks (b : Bytes) : Nat := ceilDiv (CBlk.total b) chunkBytes
def State.ckptChunk (s : State) (b : Bytes) (k : Nat) : Bytes :=
  (cutRanges (CBlk.ranges b) (chunkBytes * k) chunkBytes).flatMap fun r => s.addrRead r.1 r.2

/-- What target `i` of `t` holds of the chunks, or of something of each (R398). -/
def shareOf {α : Type} (cs : List α) (t i : Nat) : List α :=
  (((List.range cs.length).zip cs).filter fun c => decide (c.1 % t = i)).map (·.2)

/-- Chunks and bytes that target `i` of `t` takes of `total` bytes (R398). -/
def targetShare (total t i : Nat) : Nat × Nat :=
  let cs := shareOf (List.range (ceilDiv total chunkBytes)) t i
  (cs.length, (cs.map fun c => min chunkBytes (total - chunkBytes * c)).foldl (· + ·) 0)

/-- Range list of a header, 16 bytes per range. -/
def rangeList (b : Bytes) : Bytes := slice b 128 (16 * CBlk.nRanges b)

/-- The header of a slot, 4 KiB. -/
def slotHeader (m : Manifest) (b : Bytes) : Bytes := pad 1024 m.bytes ++ pad 3072 (rangeList b)

def ckptIndex (b : Bytes) : List (Nat × (Nat × Nat)) := (List.range (CBlk.nTargets b)).zip (CBlk.targets b)

/-- CRC table of target `i`: the CRCs of the chunks as they were read. -/
def Ckpt.table (c : Ckpt) (i : Nat) : Bytes := (shareOf c.crcs (CBlk.nTargets c.blk) i).flatMap (leBytes 4)

def Ckpt.share (c : Ckpt) (i : Nat) : Nat := (targetShare (CBlk.total c.blk) (CBlk.nTargets c.blk) i).1

def State.manifest (s : State) (p : Nat) (c : Ckpt) (i : Nat) (valid : Bool) : Manifest :=
  { prog := CBlk.progBlock c.blk, digest := if valid then Config.sha3 (c.table i) else []
    step := CBlk.step c.blk, total := CBlk.total c.blk, chunks := c.share i, seq := c.seq, ranges := CBlk.nRanges c.blk
    srcModule := s.myId, srcPart := p, tidx := i, tcount := CBlk.nTargets c.blk, slot := (c.slot[i]?).getD 0, valid := valid }

/-- Base of the slot that a checkpoint writes at target `i`. -/
def Ckpt.slotBase (c : Ckpt) (i : Nat) (t : Nat × Nat) : Nat := t.1 + (c.slot[i]?).getD 0 * (t.2 / CBlk.nSlots c.blk)

/-- Registered shards among the source ranges, with their versions (R400). -/
def State.ckptVersions (s : State) (p : Nat) (b : Bytes) : List (Nat × Nat) :=
  (((List.range (CBlk.nRanges b)).zip (CBlk.ranges b)).filterMap fun r =>
    ((s.part p).shards.find? fun h => decide (h.base = r.2.1) && decide (h.len = r.2.2)).map fun h => (r.1, h.ver))

/-- A shard that was registered before the first chunk and is so after the last has another version (R400). -/
def versionsMoved (before after : List (Nat × Nat)) : Bool :=
  before.any fun v => after.any fun w => decide (v.1 = w.1) && decide (v.2 ≠ w.2)

def State.putCkpt (s : State) (p : Nat) (c : Ckpt) : State := s.modPart p fun P => { P with ckpt := some c }

/-- Something for every target of a checkpoint. -/
def State.toTargets (s : State) (p : Nat) (c : Ckpt) (f : Nat → Nat → Option (Nat × Bytes)) : State :=
  (ckptIndex c.blk).foldl (fun s x =>
    match f x.1 (c.slotBase x.1 x.2) with
    | some y => s.sendBulk p (.ckpt p c.seq x.1) y.1 y.2
    | none => s) s

/-- The next chunk is read and sent, and after the last one the versions are read again. -/
def State.nextChunk (s : State) (p : Nat) (c : Ckpt) : State :=
  let k := c.crcs.length
  let bs := s.ckptChunk c.blk k
  let t := CBlk.nTargets c.blk
  let c' := { c with crcs := c.crcs ++ [crc32c bs] }
  (s.putCkpt p (if c'.crcs.length < CBlk.chunks c.blk then c'
    else { c' with stage := .table, torn := versionsMoved c.vers (s.ckptVersions p c.blk) })).toTargets p c fun i base =>
      if k % t = i then some (base + 4096 + 4 * c.share i + chunkBytes * (k / t), bs) else none

/-- One step of a checkpoint at every target (R399): a torn one never gets its last manifest (R400). -/
def State.ckptStep (s : State) (p : Nat) (c : Ckpt) : State :=
  match c.stage with
  | .header =>
    let c := { c with vers := s.ckptVersions p c.blk }
    (s.putCkpt p { c with stage := if CBlk.chunks c.blk = 0 then .table else .chunks }).toTargets p c
      fun i base => some (base, slotHeader (s.manifest p c i false) c.blk)
  | .chunks => s.nextChunk p c
  | .table =>
    if c.torn then s
    else (s.putCkpt p { c with stage := .manifest }).toTargets p c fun i base => if (c.table i).isEmpty then none else some (base + 4096, c.table i)
  | .manifest => (s.putCkpt p { c with stage := .seal }).toTargets p c fun i base => some (base, (s.manifest p c i true).bytes)
  | .seal => s.putCkpt p { c with stage := .done }
  | .done => s

/-- Every earlier step has completed at every target, and none was lost. -/
def State.ckptReady (s : State) (p : Nat) (c : Ckpt) : Bool :=
  c.lost.isNone && (ckptIndex c.blk).all fun x => s.bulkOpen p x.2.1 && s.bulkDone p x.2.1 x.2.2

/-- A checkpoint ends (R401): status record, then the done signal. -/
def State.endCkpt (s : State) (p : Nat) (c : Ckpt) (status target : Nat) : State :=
  let b := c.blk
  let s := s.addrWrite (CBlk.statusAddr b) (leBytes 32 (pack [(0, 16, status), (16, 3, target), (32, 32, c.seq)]))
  let s := s.serviceSignal (CBlk.doneObj b) (CBlk.owner b) (CBlk.ctx b) p
  s.modPart p fun P => { P with ckpt := none }

/-- The next step of a checkpoint, which waits while a source range is out of reach; where one is no more the partition's, its
owner faults and the checkpoint ends with ABORTED (R293, log 122). -/
def State.ckptGo (s : State) (p : Nat) (c : Ckpt) : State :=
  if !(CBlk.ranges c.blk).all fun r => s.rangeReached r.1 r.2 then s
  else if s.atHand (CBlk.ranges c.blk) then s.ckptStep p c
  else (s.serviceFault (CBlk.owner c.blk)).endCkpt p c St.aborted 0

/-- Every checkpoint takes its next step in a microsecond, but during a change of mode (R402, log 40). -/
def State.ckptsOn (s : State) : State :=
  if s.powered && s.power.modeChange.isNone then
    (List.range 8).foldl (fun s p =>
      match (s.part p).ckpt with
      | some c => if s.ckptReady p c then s.ckptGo p c else s
      | none => s) s
  else s

/-- The first target that was lost (R401): a message for it failed, its session did, or the event says so. -/
def State.lostTarget (s : State) (p : Nat) (c : Ckpt) (lost : Option (Fin 6)) : Option Nat :=
  if c.lost.isSome then c.lost
  else (ckptIndex c.blk).findSome? fun x => if !s.bulkOpen p x.2.1 ∨ lost.any (fun l => decide (l.val = x.1)) then some x.1 else none

/-- How a checkpoint can end now: OK once its last manifests are acknowledged, LOST with the target, or TORN. -/
def State.ckptEnding (s : State) (p : Nat) (c : Ckpt) (lost : Option (Fin 6)) : Option (Nat × Nat) :=
  if c.stage = .done then some (St.ok, 0)
  else
    match s.lostTarget p c lost with
    | some i => some (St.lost, i)
    | none => if c.torn then some (St.torn, 0) else none

/-- A checkpoint ends, but not during a mode change (R402, log 40). -/
def execCheckpointEnd (p : Part) (lost : Option (Fin 6)) : State → Res :=
  hubWork fun s =>
    match (s.part p).ckpt with
    | none => s
    | some c =>
      if s.power.modeChange.isSome then s
      else
        match s.ckptEnding p c lost with
        | some e => s.endCkpt p c e.1 e.2
        | none => s

/-! ### Restores (R403) -/

/-- One slot of a target as a restore finds it: its manifest, range list, CRC table and chunks. -/
def slotShare (img : Bytes) : List Bytes :=
  let n := (Manifest.parse img).chunks
  ((chunksOf (img.drop (4096 + 4 * n))).take n)

def slotCrcs (img : Bytes) : Bytes := slice img 4096 (4 * (Manifest.parse img).chunks)

/-- The readable valid slot with a `SEQ` at a target. -/
def slotWith (seq : Nat) (slots : List (Option Bytes)) : Option Bytes :=
  (slots.filterMap id).find? fun img => (Manifest.parse img).valid && decide ((Manifest.parse img).seq = seq)

/-- `SEQ`s of the valid slots of a target. -/
def slotSeqs (slots : List (Option Bytes)) : List Nat :=
  ((slots.filterMap id).filter fun img => (Manifest.parse img).valid).map fun img => (Manifest.parse img).seq

/-- The `SEQ` that a restore chooses: the requested one, or the highest one valid in every target. -/
def chooseSeq (req : Nat) (images : List (List (Option Bytes))) : Option Nat :=
  let common := (slotSeqs (images.headD [])).filter fun q => images.all fun t => (slotSeqs t).contains q
  if req ≠ 0 then (if common.contains req then some req else none)
  else if common.isEmpty then none else some (common.foldl max 0)

/-- Interleave the shares of the targets: chunk c is at position c / t of target c mod t. -/
def weave (shares : List (List Bytes)) (n : Nat) : Bytes :=
  (List.range n).flatMap fun c => (((shares[c % shares.length]?).getD [])[c / shares.length]?).getD []

/-- Status of a restore, and its data where it is OK. The data of the last chunk ends with the ranges. Targets in another order
than the checkpoint's are a mismatch (log 107). -/
def checkRestore (b : Bytes) (imgs : List Bytes) : Nat × Bytes :=
  let ms := imgs.map Manifest.parse
  let lens (x : Bytes) : List Nat := (List.range (CBlk.nRanges b)).map fun i => leNat (slice x (16 * i + 8) 8)
  if ((List.range ms.length).zip ms).any fun m => decide (m.2.tidx ≠ m.1) then (St.mismatch, [])
  else if ms.any fun m => decide (m.tcount ≠ CBlk.nTargets b) || decide (m.ranges ≠ CBlk.nRanges b) || decide (m.total ≠ CBlk.total b) then
    (St.mismatch, [])
  else if imgs.any fun i => decide (lens (slice i 1024 (16 * CBlk.nRanges b)) ≠ lens (rangeList b)) then (St.mismatch, [])
  else
    let n := ceilDiv (CBlk.total b) chunkBytes
    let cut (k i : Nat) (x : Bytes) : Bytes :=
      -- the chunk at position k of target i, without what stands behind the last byte
      slice x 0 (min chunkBytes (CBlk.total b - chunkBytes * (k * imgs.length + i)))
    let shares := ((List.range imgs.length).zip imgs).map fun ix =>
      let sh := slotShare ix.2
      ((List.range sh.length).zip sh).map fun kx => cut kx.1 ix.1 kx.2
    let crcOk := ((shares.zip imgs).all fun x =>
      decide ((x.1.flatMap fun c => leBytes 4 (crc32c c)) = slotCrcs x.2) &&
      decide (pad 64 (Config.sha3 (slotCrcs x.2)) = (Manifest.parse x.2).digest))
    if crcOk && decide ((shares.map List.length).foldl (· + ·) 0 = n) then (St.ok, weave shares n) else (St.corrupt, [])

/-- Write data over ranges in order. -/
def State.scatterRanges (s : State) : List (Nat × Nat) → Bytes → State
  | [], _ => s
  | r :: rs, bs => (s.addrWrite r.1 (bs.take r.2)).scatterRanges rs (bs.drop r.2)

/-- Status record and done signal of a restore. -/
def State.restoreStatus (s : State) (p : Nat) (b : Bytes) (status seq : Nat) : State :=
  let s := s.addrWrite (CBlk.statusAddr b) (leBytes 32 (pack [(0, 16, status), (32, 32, seq)]))
  s.serviceSignal (CBlk.doneObj b) (CBlk.owner b) (CBlk.ctx b) p

/-- A restore ends: its ranges hold the checkpoint, or are undefined. -/
def State.endRestore (s : State) (p : Nat) (c : Ckpt) (images : List (List (Option Bytes))) : State :=
  let b := c.blk
  let r : Nat × Bytes × Bytes :=
    if images.length ≠ CBlk.nTargets b then (St.lost, [], [])
    else
      match chooseSeq c.seq images with
      | none => (St.lost, [], [])
      | some q =>
        let imgs := images.filterMap (slotWith q)
        let x := checkRestore b imgs
        (x.1, x.2, (Manifest.parse (imgs.headD [])).prog)
  let s :=
    if r.1 = St.ok then
      let s := s.scatterRanges (CBlk.ranges b) r.2.1
      s.addrWrite (CBlk.progOut b) r.2.2
    else s.havocKeys ((CBlk.ranges b).flatMap fun x => s.addrKeys x.1 x.2)
  let seq := if r.1 = St.lost then c.seq else ((chooseSeq c.seq images).getD c.seq)
  s.restoreStatus p b r.1 seq

/-- A restore that a forced shutdown or the end of its partition cuts short (R476, R614). -/
def State.abortRestore (s : State) (p : Nat) (c : Ckpt) : State :=
  (s.havocKeys ((CBlk.ranges c.blk).flatMap fun x => s.addrKeys x.1 x.2)).restoreStatus p c.blk St.aborted c.seq

/-- The checkpoint and the restores of a partition end with ABORTED; its rounds end with its contexts (R351). -/
def State.abortServices (s : State) (p : Nat) : State :=
  let s := match (s.part p).ckpt with
    | some c => s.endCkpt p c St.aborted 0
    | none => s
  let rs := (s.part p).restores
  rs.foldl (fun s c => s.abortRestore p c) (s.modPart p fun P => { P with restores := [] })

/-- The oldest restore of the partition ends; `images` is what its targets' slots hold, none where one cannot be read. -/
def execRestoreEnd (p : Part) (images : List (List (Option Bytes))) : State → Res :=
  hubWork fun s =>
    match (s.part p).restores with
    | [] => s
    | c :: cs =>
      if !(CBlk.ranges c.blk).all fun r => s.rangeReached r.1 r.2 then s
      else
        let t := s.modPart p fun P => { P with restores := cs }
        if s.atHand (CBlk.ranges c.blk) then t.endRestore p c images else (t.serviceFault (CBlk.owner c.blk)).abortRestore p c

/-! ### Numerics watch (R405 to R409) -/

def State.watch (s : State) (p kind : Nat) : Option Watch := (s.part p).watches.find? fun x => decide (x.kind = kind)

def State.setWatch (s : State) (p : Nat) (x : Watch) : State :=
  s.modPart p fun P => { P with watches := P.watches.map fun y => if y.kind = x.kind then x else y }

/-- Fields of a tensor item. -/
def tensorAddr (it : Bytes) : Nat := leNat (slice it 0 8)
def tensorLen (it : Bytes) : Nat := leNat (slice it 8 8)
def tensorFmt (it : Bytes) : Nat := leNat (slice it 16 1)
def tensorRecs (it : Bytes) : Nat := leNat (slice it 17 1)
def tensorHbase (it : Bytes) : Int := signed 16 (leNat (slice it 18 2))
def tensorPeriod (it : Bytes) : Nat := leNat (slice it 20 2)

def scaleRecs (it : Bytes) : Nat := leNat (slice it 64 1)

/-- Ranges that a watch item reads. -/
def watchItemRanges (kind : Nat) (it : Bytes) : List (Nat × Nat) :=
  if kind = 0 then (List.range 3).map fun k => (leNat (slice it (8 * k) 8), 32)
  else if kind = 1 then (tensorAddr it, tensorLen it) :: (List.range (tensorRecs it)).map fun k => (leNat (slice it (32 + 8 * k) 8), 32)
  else (List.range (scaleRecs it)).map fun k => (leNat (slice it (8 * k) 8), 32)

/-- Ranges that a watch writes. -/
def watchWrites (kind : Nat) (b : Bytes) : List (Nat × Nat) :=
  if kind = 2 then [(WBlk.ringAddr b, 16 * WBlk.items b), (WBlk.probeSrc b, 2 * WBlk.items b), (WBlk.probeDst b, 2 * WBlk.items b)]
  else [(WBlk.ringAddr b, WBlk.ring b * WBlk.recSize kind * WBlk.items b)]

/-- Ranges of a watch. -/
def Watch.ranges (x : Watch) : List (Nat × Nat) :=
  watchWrites x.kind x.blk ++ (List.range (WBlk.items x.blk)).flatMap fun i => watchItemRanges x.kind (WBlk.item x.kind x.blk i)

/-- What a watch does on its ranges (R22, R293). -/
def State.onWatch (s : State) (x : Watch) (go : State → State) : State := s.onRanges (WBlk.owner x.blk) x.ranges go

def Watch.client (x : Watch) (p : Nat) : Client := if x.kind = 0 then .layer p else if x.kind = 1 then .tensor p else .scaleLocal p

/-- The waits of a watch's triggers. -/
def State.waitWatch (s : State) (p : Nat) (x : Watch) : State := s.hubWait (x.client p) (WBlk.trigObj x.blk) (WBlk.ctx x.blk) p
def State.waitApply (s : State) (p : Nat) (x : Watch) : State := s.hubWait (.scaleApply p) (WBlk.thirdObj x.blk) (WBlk.ctx x.blk) p

def State.watchSignal (s : State) (p : Nat) (x : Watch) (obj : Nat) : State := s.serviceSignal obj (WBlk.owner x.blk) (WBlk.ctx x.blk) p

/-- `ALARM_OBJ` is set, as a flag whatever the object is: on a counter the signal meets R228. -/
def State.watchAlarm (s : State) (p : Nat) (x : Watch) : State :=
  let b := x.blk
  if s.ctxHere (WBlk.ctx b) p then s.hubRaise (WBlk.thirdObj b) 2 0 (WBlk.owner b) (WBlk.ctx b) p else s

def sat16 (x : Int) : Int := max (-32768) (min 32767 x)

/-- q(x) of R405 for a tap entry, and whether it is unresolved or non-finite; none where its field is 0x8000. -/
def tapNorm (e : RedEntry) : Option Int :=
  if e.acc.ovf ∨ e.acc.nonfinite then none
  else
    let x := ElFmt.bf16.round (Num.ofInt e.acc.sum e.acc.win)
    if x.isZero ∨ x.neg then none else some (sat16 (rne (Fn.log2 x) (-7)))

def normField (q : Option Int) : Nat := match q with | none => 0x8000 | some v => unsigned 16 v

/-- `RHO`; a difference that its field cannot hold is not stated (log 13). -/
def rhoOf (free : Nat) (u w : Option Int) : Option Int :=
  match u, w with
  | some u, some w => if u - w < -32768 ∨ 32767 < u - w then some (signed 16 (Config.freeNat free)) else some (u - w)
  | _, _ => none

/-- The record of a layer, and whether it alarms. -/
def State.layerRecord (s : State) (b : Bytes) (i : Nat) : Nat × Bool :=
  let it := WBlk.item 0 b i
  let tap (k : Nat) : RedEntry := RedEntry.parse (s.addrRead (leNat (slice it (8 * k) 8)) 32)
  let w := tapNorm (tap 0)
  let g := tapNorm (tap 1)
  let rho := rhoOf (s.free + i) (tapNorm (tap 2)) w
  let lo := signed 16 (leNat (slice it 24 2))
  let hi := signed 16 (leNat (slice it 26 2))
  -- a RHO of none is the least value of its field
  let alarm := decide (rho.getD (-32768) < lo) || decide (hi < rho.getD (-32768))
  let any (f : RedEntry → Bool) : Bool := (List.range 3).any fun k => f (tap k)
  (pack [(48, 16, normField rho), (32, 16, normField g), (16, 16, normField w), (3, 1, b2n alarm),
    (2, 1, b2n (any (·.acc.ovf))), (1, 1, b2n (any (·.acc.nonfinite))), (0, 1, 1)], alarm)

def execLayerWatch (p : Part) : State → Res :=
  hubWork fun s =>
    match s.watch p 0 with
    | none => s
    | some x =>
      if !s.sync.granted.contains (.layer p.val) then s
      else
        s.onWatch x fun s =>
          let b := x.blk
          let s := s.takeGrant (.layer p)
          let rs := (List.range (WBlk.items b)).map (s.layerRecord b)
          let s := { s with free := s.free + rs.length }
          let s := ((List.range rs.length).zip rs).foldl (fun s r =>
            s.addrWrite (WBlk.recAddr 0 b x.triggers r.1) (leBytes 8 r.2.1)) s
          let alarms := (rs.filter (·.2)).length
          let y := { x with triggers := x.triggers + 1, steps := Tbl.set 0 x.steps (x.triggers % WBlk.ring b) (x.triggers + 1) }
          let s := s.setWatch p y
          let s := { s with watchAlarms := satAdd 32 s.watchAlarms alarms }
          let s := if alarms = 0 then s else s.watchAlarm p y
          (s.watchSignal p y (WBlk.doneObj b)).waitWatch p y

/-- A statistics record read back (R74). -/
def Stats.parse (bs : Bytes) : Stats :=
  let w := leNat bs
  { nonfinite := bits w 223 192, inexact := bits w 191 128, sat := bits w 127 96, replay := bits w 95 64,
    amaxexp := expOf (bits w 31 16), maxexp := expOf (bits w 15 0) }

/-- Records combined by R75: each count saturates at its field. -/
def State.combineStats (s : State) (addrs : List Nat) : Stats :=
  Stats.parse ((addrs.map fun a => Stats.parse (s.addrRead a 32)).foldl Stats.join {}).bytes

/-- Bin of an element (R407). -/
def histBin (hbase : Int) (v : Val) : Nat :=
  match v with
  | none => 63
  | some x =>
    if x.isZero then 0
    else if x.log2 < hbase then 1
    else if hbase + 59 < x.log2 then 62
    else (x.log2 - hbase + 2).toNat

/-- The element is at the largest finite value of its format, of either sign. -/
def atLargest (f : ElFmt) (code : Nat) : Bool :=
  match f with
  | .int8 => decide (code = 127) || decide (code = 128)
  | _ => decide ((f.decode code).map (fun x => x.abs.eq f.maxVal) = some true)

/-- The 576-byte record of a tensor for a step. -/
def State.tensorRecord (s : State) (it : Bytes) (step : Nat) : Bytes :=
  let f := (streamFmt (tensorFmt it)).getD .bf16
  let codes := (List.range (tensorLen it / f.bytes)).map fun i => leNat (s.addrRead (tensorAddr it + f.bytes * i) f.bytes)
  let st := s.combineStats ((List.range (tensorRecs it)).map fun k => leNat (slice it (32 + 8 * k) 8))
  let hist := (List.range 64).map fun b => (codes.filter fun c => decide (histBin (tensorHbase it) (f.decode c) = b)).length
  pad 64 ([step, codes.length, (codes.filter (atLargest f)).length, st.sat, st.nonfinite, st.replay].flatMap (leBytes 8)) ++
  hist.flatMap (leBytes 8)

/-- Tensors that a trigger scans: those whose period it completes. -/
def Watch.dueTensors (x : Watch) : List Nat :=
  (List.range (WBlk.items x.blk)).filter fun t =>
    let n := tensorPeriod (WBlk.item 1 x.blk t)
    decide (n ≠ 0) && decide ((x.triggers + 1) % n = 0)

/-- A trigger of the tensor watch: due scans start, but for one whose last scan still runs, which is late (R410). -/
def execTensorWatchScan (p : Part) : State → Res :=
  hubWork fun s =>
    match s.watch p 1 with
    | none => s
    | some x =>
      if !s.sync.granted.contains (.tensor p.val) then s
      else
        let busy (t : Nat) : Bool := x.scanning.any fun k => decide (k % 64 = t)
        let start := x.dueTensors.filter fun t => !busy t
        let late := (x.dueTensors.filter busy).length
        let y := { x with triggers := x.triggers + 1, scanning := x.scanning ++ start.map fun t => 64 * x.triggers + t }
        let s := ((s.takeGrant (.tensor p)).setWatch p y).waitWatch p y
        let s := { s with watchLate := satAdd 32 s.watchLate late }
        if start.isEmpty then s.watchSignal p y (WBlk.doneObj x.blk) else s

/-- The oldest scan of a tensor ends; the last scan of its trigger raises the done signal (log 41). -/
def execTensorScanEnd (p : Part) (t : Nat) : State → Res :=
  hubWork fun s =>
    match s.watch p 1 with
    | none => s
    | some x =>
      match x.scanning.find? fun k => decide (k % 64 = t) with
      | none => s
      | some k =>
        s.onWatch x fun s =>
          let step := k / 64
          let s := s.addrWrite (WBlk.recAddr 1 x.blk step t) (s.tensorRecord (WBlk.item 1 x.blk t) step)
          let y := { x with scanning := dropFirst (fun i => decide (i = k)) x.scanning
                            steps := Tbl.set 0 x.steps (64 * (step % WBlk.ring x.blk) + t) (step + 1) }
          let s := s.setWatch p y
          if y.scanning.any fun i => decide (i / 64 = step) then s else s.watchSignal p y (WBlk.doneObj x.blk)

/-! ### Scale tables (R409) -/

def scaleH (it : Bytes) : Nat := let h := leNat (slice it 65 1); if h = 0 then 2 else h
def scaleHo (it : Bytes) : Nat := leNat (slice it 66 1)
def scaleFmt (it : Bytes) : Nat := leNat (slice it 67 1)
def scaleStrict (it : Bytes) : Bool := bit (leNat (slice it 68 1)) 0

def State.scaleStats (s : State) (it : Bytes) : Stats :=
  s.combineStats ((List.range (scaleRecs it)).map fun k => leNat (slice it (8 * k) 8))

/-- A probe byte. -/
def probeByte (e0 : Int) (m : Option Int) : Nat :=
  match m with
  | none => 0x80
  | some v => unsigned 8 (max (-127) (min 127 (v - e0)))

def execScaleLocalPhase (p : Part) : State → Res :=
  hubWork fun s =>
    match s.watch p 2 with
    | none => s
    | some x =>
      if !s.sync.granted.contains (.scaleLocal p.val) then s
      else
        s.onWatch x fun s =>
          let b := x.blk
          let bs := (List.range (WBlk.items b)).flatMap fun i =>
            let st := s.scaleStats (WBlk.item 2 b i)
            leBytes 1 (probeByte (WBlk.e0 b) st.maxexp) ++ leBytes 1 (probeByte (WBlk.e0 b) st.amaxexp)
          let s := (s.takeGrant (.scaleLocal p)).addrWrite (WBlk.probeSrc b) bs
          (s.watchSignal p x (WBlk.doneObj b)).waitWatch p x

/-- F of R77. -/
def scaleF (fmt : Nat) : Option Int :=
  match outFmtOf fmt with
  | some .e4m3 => some 8
  | some .e5m2 => some 15
  | some .int8 => some 6
  | _ => none

/-- out_e of R77 as its field; where R77 gives none, or one that the field cannot hold, it is a free value (log 13). -/
def scaleOut (free : Nat) (e0 : Int) (it : Bytes) (a : Nat) : Nat :=
  let open_ := Config.freeNat free % 2 ^ 8
  match scaleF (scaleFmt it) with
  | none => open_
  | some f =>
    let v := f - (e0 + signed 8 a) - scaleHo it
    if a = 0x80 ∨ v < -128 ∨ 127 < v then open_ else unsigned 8 v

/-- Scale entry `i` from its combined probe bytes. -/
def State.scaleEntry (s : State) (b : Bytes) (step i : Nat) : Nat :=
  let it := WBlk.item 2 b i
  let m := leNat (s.addrRead (WBlk.probeDst b + 2 * i) 1)
  let a := leNat (s.addrRead (WBlk.probeDst b + 2 * i + 1) 1)
  let t : Int := if m = 0x80 then -512 else WBlk.e0 b + signed 8 m + scaleH it
  let edge (x : Nat) : Bool := decide (x = 0x7F) || decide (x = 0x81)
  pack [(96, 32, step), (83, 1, b2n (scaleStrict it && decide ((s.scaleStats it).sat ≠ 0))), (82, 1, b2n (edge m || edge a)),
    (74, 8, scaleOut (s.free + i) (WBlk.e0 b) it a), (0, 64, unsigned 64 t)]

def execScaleApplyPhase (p : Part) : State → Res :=
  hubWork fun s =>
    match s.watch p 2 with
    | none => s
    | some x =>
      if !s.sync.granted.contains (.scaleApply p.val) then s
      else
        s.onWatch x fun s =>
          let b := x.blk
          let bs := (List.range (WBlk.items b)).flatMap fun i => leBytes 16 (s.scaleEntry b x.triggers i)
          let s := { s.takeGrant (.scaleApply p) with free := s.free + WBlk.items b }
          let y := { x with triggers := x.triggers + 1, steps := Tbl.set 0 x.steps 0 (x.triggers + 1) }
          ((s.addrWrite (WBlk.ringAddr b) bs).setWatch p y).waitApply p y

end Sys2Proof.Machine
end

