-- ==== Sys2Proof/Machine/Kentis.lean ====
section
/-! DEFINITION. Machine/Kentis.lean: how Kentis takes a command and when the command acts (R437 to R442), and the commands on
contexts, queues, host maps and memory (R447 to R460). -/

namespace Sys2Proof.Machine

/-! ### Taking a command (R437 to R440, R605) -/

/-- Fields of a command slot that its opcode names, beside the header; none for an unknown opcode (R438). -/
def slotFields (op : Nat) : Option (List (Nat × Nat)) :=
  match op with
  | 0x01 | 0x02 => some []
  | 0x10 => some [(334, 128)]
  | 0x11 | 0x12 => some [(137, 128)]
  | 0x13 => some [(137, 128), (255, 192)]
  | 0x20 => some [(305, 128)]
  | 0x21 => some [(303, 256)]
  | 0x30 => some [(352, 128)]
  | 0x31 => some [(149, 128), (767, 192)]
  | 0x32 => some [(147, 128)]
  | 0x40 | 0x41 => some [(373, 128)]
  | 0x50 | 0x51 | 0x52 => some [(192, 128), (354, 256)]
  | 0x60 | 0x62 => some [(156, 128)]
  | 0x61 => some [(128, 128), (135, 130), (255, 192)]
  | 0x63 => some [(279, 128), (297, 288)]
  | 0x70 => some [(129, 128), (135, 130), (302, 192)]
  | 0x71 | 0x72 => some [(255, 192)]
  | 0x80 => some [(130, 128), (255, 192)]
  | 0x81 => some [(129, 128), (351, 192)]
  | 0x90 => some [(143, 128)]
  | 0xA0 => some [(137, 128), (319, 192)]
  | 0xA1 => some [(134, 128), (143, 143)]
  | 0xB0 => some [(129, 128), (159, 144)]
  | _ => none

/-- No reserved bit of the slot is set. -/
def slotClean (w : Nat) : Bool :=
  (slotFields (Slot.op w)).any fun fs => decide (w % 2 ^ 1024 &&& fieldMask ((48, 0) :: (127, 64) :: fs) = w % 2 ^ 1024)

/-- The status with which a command is refused when it is taken; none where it goes on. -/
def State.refusal (s : State) (src : CmdSrc) (w : Nat) : Option Nat :=
  let op := Slot.op w
  let role := bits w 129 128
  let station : Bool := match src with | .mgmt _ => true | .ring _ _ => false
  if (slotFields op).isNone then some St.badOpcode
  else if op ≠ 0x01 ∧ op ≠ 0x02 ∧ ((s.part (srcPart src)).st ≠ .ready ∨ !s.powered) then some St.notReady
  else if (op = 0x90 ∧ station) ∨ (op = 0x70 ∧ 2 ≤ role ∧ !station) then some St.noPermission
  else if !slotClean w ∨ (op = 0x31 ∧ bit w 149 ∧ station) then some St.badField
  else none

/-- Kentis takes a command; a refused one and a NOP complete in their place in sequence. -/
def State.takeCmd (s : State) (src : CmdSrc) (w : Nat) (reply : Option (Nat × Nat)) : State :=
  let c : Cmd := { id := s.nextCmd, src := src, slot := w, reply := reply }
  let c :=
    match s.refusal src w with
    | some st => c.complete st 0
    | none => if Slot.op w = 0x01 then c.complete St.ok 0 else c
  { s with cmds := s.cmds ++ [c], nextCmd := s.nextCmd + 1 }

/-! ### Its turn (R441, R442) -/

/-- The command has taken effect; one that copies, cancels, advances an epoch or waits for cleared units has not while it
waits. -/
def Cmd.effected (c : Cmd) : Bool :=
  match c.phase with
  | .fresh => false
  | .done => true
  | .waiting => !([0x30, 0x40, 0x41, 0x61, 0x62, 0x70].contains (Slot.op c.slot))

/-- The command of a source whose turn it is. -/
def State.turn (s : State) (src : CmdSrc) : Option Cmd :=
  (s.cmds.find? fun c => decide (c.src = src) && !c.effected).filter fun c => decide (c.phase = .fresh)

/-- A command names a context by bits [137:128]. -/
def namesCtx (op : Nat) : Bool := [0x11, 0x12, 0x13, 0x31, 0x32, 0x50, 0x51, 0xA0].contains op

/-- The context that a command names is under engine recovery (R441). -/
def State.underRecovery (s : State) (c : Cmd) : Bool :=
  namesCtx (Slot.op c.slot) && s.rel.recoveries.any fun r =>
    r.todo.contains (Slot.ctx c.slot) || r.cleared.contains (Slot.ctx c.slot) || decide (r.current = some (Slot.ctx c.slot))

/-- Ranges that Kentis itself reads or writes when the command acts: core maps, blocks, sources and destinations. -/
def Cmd.ranges (c : Cmd) : List (Nat × Nat) :=
  let w := c.slot
  let a := bits w 255 192
  let b := bits w 319 256
  match Slot.op w with
  | 0x10 => [(b, 512)]
  | 0x13 => if a = 0 then [] else [(a, 256)]
  | 0x30 | 0x40 => [(bits w 191 128, b), (a, b)]
  | 0x41 => [(a, b)]
  | 0x50 => if bits w 155 154 = 3 ∧ b ≠ 0 then [(b, 512)] else []
  | 0x52 => if b ≠ 0 then [(b, 128)] else []
  | 0x61 => if bit w 128 then [] else [(a, 256)]
  | 0x70 => if bits w 129 128 = 0 then [(a, 64)] else []
  | 0x71 | 0x72 => [(a, 1248)]
  | 0x80 => if bit w 130 then [] else [(a, 64)]
  | 0x81 => [(a, 1)]
  | 0xA0 => [(a, b)]
  | _ => []

/-- The hub reaches the dies of what the command reads and writes; a command waits while it does not (R22). -/
def State.cmdReached (s : State) (c : Cmd) : Bool := c.ranges.all fun r => s.rangeReached r.1 r.2

def State.putCmd (s : State) (c : Cmd) : State := { s with cmds := s.cmds.map fun x => if x.id = c.id then c else x }

/-- The effect of a command: the state after it, and the command as it stands then. -/
abbrev CmdRes := State × Cmd

/-- The command of `src` whose turn it is acts, where it is of this opcode and of this row's form. -/
def cmdRow (op : Nat) (sel : Nat → Bool) (f : State → Cmd → CmdRes) (src : CmdSrc) (s : State) : State :=
  match s.turn src with
  | none => s
  | some c =>
    if Slot.op c.slot ≠ op ∨ !sel c.slot ∨ s.underRecovery c ∨ !s.cmdReached c then s
    else
      let r := f s c
      r.1.putCmd r.2

/-- The command completes without an effect. -/
def refuse (s : State) (c : Cmd) (status : Nat) : CmdRes := (s, c.complete status 0)

/-- A waiting command of `src` with this opcode. -/
def State.waitingCmd (s : State) (src : CmdSrc) (p : Cmd → Bool) : Option Cmd :=
  s.cmds.find? fun c => decide (c.src = src) && decide (c.phase = .waiting) && p c

/-- A context of the command's partition (R439). -/
def State.hasCtx (s : State) (p x : Nat) : Bool :=
  decide ((s.ctx x).part = p) && decide ((s.ctx x).st ≠ .none) && decide ((s.ctx x).st ≠ .destroying)

/-- A range that a command may name (R439). -/
def State.okRange (s : State) (p a n : Nat) (write : Bool) (spaces : List Nat) : Bool :=
  n = 0 || (spaces.contains (a / 2 ^ 56) && s.dmaRangeOk p a n write)

/-- Bytes that Kentis reads; or the status that it completes with. -/
def State.kRead (s : State) (p a n : Nat) (spaces : List Nat) : Nat ⊕ Bytes :=
  if !s.okRange p a n false spaces then .inl St.address
  else if (s.meetsBad [] (s.addrKeys a n)).isSome then .inl St.memoryError
  else .inr (s.addrRead a n)

def execIdentify (src : CmdSrc) : State → Res :=
  services (cmdRow 0x02 (fun _ => true) (fun s c => (s, c.complete St.ok (Config.identifyRaw % 2 ^ 128))) src)

/-! ### Contexts (R447 to R453) -/

/-- Core map of 512 bytes. -/
def coreMap (bs : Bytes) : Table Nat :=
  (List.range 256).filterMap fun c =>
    let e := leNat (slice bs (2 * c) 2)
    if e = 0 then none else some (c, e)

/-- Two core map entries name a queue, bank, quarter or tandem pair in common. -/
def entriesMeet (e f : Nat × Nat) : Bool :=
  (decide (e.1 = f.1) && decide (e.2 &&& f.2 &&& 0x1EFF ≠ 0)) ||
  (decide (e.1 / 2 = f.1 / 2) && (e.2.testBit 8 || f.2.testBit 8))

/-- The tandem setting of a pair may change: no queue of it is any context's, and all eight banks are FREE (R116). -/
def State.pairFree (s : State) (k : Nat) : Bool :=
  ((span (8 * k) 8).all fun q => (s.queue q).ctx.isNone) &&
  [2 * k, 2 * k + 1].all fun c => (List.range 4).all fun b => decide ((s.bank c b).st = .free)

/-- The refusal of a core map (R448). A pair whose setting would have to change, either way, must be free (R116). -/
def State.mapRefusal (s : State) (p x : Nat) (m : Table Nat) (clmBase clmLen : Nat) : Option Nat :=
  if m.any fun e => !s.hasCluster p (clusterOf e.1) then some St.noPermission
  else if 128 < clmBase + clmLen ∨ m.any fun e => decide (8192 ≤ e.2) || (decide (e.2 % 16 = 0) && decide (e.2 &&& 0x1EF0 ≠ 0)) ||
      (e.2.testBit 8 && (decide (e.1 % 2 = 1) || m.any fun f => decide (f.1 = e.1 + 1))) then some St.badField
  else if s.ctxs.any fun y => decide (y.1 ≠ x) && (decide (y.2.st = .resident) || decide (y.2.st = .suspending)) &&
      y.2.cmap.any fun f => m.any fun e => entriesMeet e f then some St.busy
  else if m.any fun e => decide (e.2.testBit 8 ≠ s.isTandem e.1) && !s.pairFree (e.1 / 2) then some St.busy
  else none

/-- A context's dump with its queues' fault records as they stand now: that of queue `i` is in section 2 `i` + 1 (R472, R566). -/
def State.dumpNow (s : State) (x : Nat) (d : Bytes) : Bytes :=
  let qs := (s.ctx x).queues
  ((List.range qs.length).zip qs).foldl (fun d e =>
    let off := 64 + 608 * e.1 + 544
    if (s.queue e.2).ctx = some x ∧ off + 64 ≤ d.length then splice d off (s.queue e.2).fault.bytes else d) d

/-- Queues that another context takes over leave their fault records in the dump of a FAULTED one, which DUMP_FETCH copies (R472). -/
def State.keepRecords (s : State) (qs : List Nat) : State :=
  qs.foldl (fun s q =>
    match (s.queue q).ctx with
    | none => s
    | some y => if (s.ctx y).st = .faulted then s.modCtx y fun c => { c with dump := c.dump.map (s.dumpNow y) } else s) s

/-- Queues, banks and pairs of a new context are its own. -/
def State.claimUnits (s : State) (x : Nat) : State :=
  let c := s.ctx x
  let s := c.queues.foldl (fun s q => s.setQueue q { ctx := some x }) (s.keepRecords c.queues)
  let s := c.banks.foldl (fun s b => s.setBank b.1 b.2 {}) s
  s.setTandem c

def createCtx (s : State) (c : Cmd) : CmdRes :=
  let w := c.slot
  let p := srcPart c.src
  let saveAddr := bits w 191 128
  let saveBytes := bits w 255 192
  match s.kRead p (bits w 319 256) 512 [0] with
  | .inl st => refuse s c st
  | .inr bs =>
    let m := coreMap bs
    let y : Ctx := { st := .resident, part := p, saveAddr := saveAddr, saveBytes := saveBytes, clmBase := bits w 326 320,
                     clmLen := bits w 334 327, cmap := m }
    let need := (s.setCtx 1024 y).saveNeed 1024
    if (s.part p).refusing ∨ (s.part p).stopping ≠ 0 then refuse s c St.badState
    else if saveAddr % 65536 ≠ 0 then refuse s c St.badField
    else if !s.okRange p saveAddr saveBytes true [0] then refuse s c St.address
    else
      match s.mapRefusal p 1024 m y.clmBase y.clmLen with
      | some st => refuse s c st
      | none =>
        match (List.range 1024).find? fun i => decide ((s.ctx i).st = .none) with
        | none => (s, c.complete St.noResource (need * 2 ^ 64))
        | some i =>
          if saveBytes < need then (s, c.complete St.noResource (need * 2 ^ 64))
          else ((s.setCtx i y).claimUnits i, c.complete St.ok (need * 2 ^ 64 + i))

def execCtxCreate (src : CmdSrc) : State → Res := engines (cmdRow 0x10 (fun _ => true) createCtx src)

/-- A wait of a queue leaves its object as if it had never issued (R191, R211). -/
def State.withdrawWait (s : State) (q : Nat) : State :=
  match (s.queue q).wait with
  | none => s
  | some w =>
    { s with sync := { s.sync with flight := s.sync.flight.filter fun p => !(p.isWait && decide (p.qid = q) && p.remote.isNone) } }.unwait
      w.op.obj (.queue q)

/-- A wait that is to be presented again: an arrival that its `BAR` made stands. -/
def PendWait.again (w : PendWait) : PendWait :=
  { op := if w.arrived ∧ w.op.opc = 0x76 then { w.op with waitOnly := true } else w.op, arrived := false }

/-- The queue stops at an instruction boundary, with its state kept (R191, R456). -/
def State.stopQueue (s : State) (q : Nat) : State :=
  let Q := s.queue q
  match Q.st with
  | .running => s.setQueue q { Q with st := .stopped }
  | .waiting =>
    match Q.notice with
    | some n => s.setQueue q { Q with st := .stopped, notice := none, wait := none, dirty := [], causal := (max Q.causal n + 1) % 2 ^ 32 }
    | none => (s.withdrawWait q).modQueue q fun Q => { Q with st := .stopped, wait := Q.wait.map PendWait.again }
  | _ => s

/-- Destruction of a context begins (R453, R351). -/
def State.beginDestroy (s : State) (x : Nat) : State :=
  let c := s.ctx x
  let s := (c.queues.filter fun q => decide ((s.queue q).ctx = some x)).foldl (fun s q => s.stopQueue q) s
  let s := s.modPart c.part fun P => { P with
    insts := P.insts.map fun i => if i.ctx = x then { i with cancel := true } else i
    policies := P.policies.filter fun y => decide (y.ctx ≠ x)
    watches := P.watches.filter fun y => decide (WBlk.ctx y.blk ≠ x) }
  let s := (s.ctxObjs x).foldl (fun s o => s.modObj o fun O => { O with waiters := [] }) s
  let drop (r : Recovery) : Recovery :=
    { r with todo := r.todo.filter (· ≠ x), current := r.current.filter (· ≠ x), cleared := r.cleared.filter (· ≠ x) }
  let s := { s with rel := { s.rel with recoveries := s.rel.recoveries.map drop } }
  s.modCtx x fun c => { c with st := .destroying }

def destroyCtx (s : State) (c : Cmd) : CmdRes :=
  let x := Slot.ctx c.slot
  if (s.ctx x).part ≠ srcPart c.src ∨ (s.ctx x).st = .none then refuse s c St.noSuchObject
  else if (s.ctx x).st = .destroying then refuse s c St.badState
  else (s.beginDestroy x, { c with phase := .waiting })

def execCtxDestroy (src : CmdSrc) : State → Res := engines (cmdRow 0x11 (fun _ => true) destroyCtx src)

/-- Every resource of a DESTROYING context is free: its units, its objects, its tokens, its dump and its ID. -/
def State.releaseContext (s : State) (x : Nat) : State :=
  let p := (s.ctx x).part
  let s := if (s.ctx x).saved.isSome then s else s.releaseUnits x
  let s := (s.ctxObjs x).foldl (fun s o => s.setObj o {}) s
  (((s.setCtx x {}).forgetRemote x).postAllHeld.releaseHeld).settlePart p

/-- Commands that wait for queues of a context whose queues are now released. A stop ends, as the operations of its queue have (R456); that of
an ENDING queue which is saved waits on, for the queue to end. A start that waits for an ENDING queue ends with the queue's sequence
number, and with the state SUSPENDED of one that is saved (R455, R476); of one that is destroyed it shows IDLE (log 117). -/
def State.endWaits (s : State) (x : Nat) (saved : Bool) : State :=
  { s with cmds := s.cmds.map fun c =>
      let Q := s.queue (Slot.queue c.slot)
      if c.phase ≠ .waiting ∨ Slot.ctx c.slot ≠ x then c
      else if Slot.op c.slot = 0x32 then
        if saved ∧ Q.st = .ending then c else c.complete (if Q.st = .faulted then St.ctxFaulted else St.ok) c.result
      else if Slot.op c.slot = 0x31 ∧ Q.st = .ending then
        c.complete St.badState (queueResult { Q with st := if saved then .suspended else .idle })
      else c }

/-- The destroyed context of the source's partition that has drained: the one that its command waits for, else one whose
partition is being destroyed. -/
def execCtxReleaseComplete (src : CmdSrc) : State → Res :=
  engines fun s =>
    let free (x : Nat) : Bool := decide ((s.ctx x).st = .destroying) && s.drained x && (s.part (s.ctx x).part).insts.all fun i => decide (i.ctx ≠ x)
    match s.waitingCmd src fun c => decide (Slot.op c.slot = 0x11) && free (Slot.ctx c.slot) with
    | some c => ((s.endWaits (Slot.ctx c.slot) false).releaseContext (Slot.ctx c.slot)).putCmd (c.complete St.ok 0)
    | none =>
      match s.ctxs.find? fun y => decide (y.2.part = srcPart src) && free y.1 &&
          !s.cmds.any fun c => decide (c.phase = .waiting) && decide (Slot.op c.slot = 0x11) && decide (Slot.ctx c.slot = y.1) with
      | some y => (s.endWaits y.1 false).releaseContext y.1
      | none => s

def suspendCtx (s : State) (c : Cmd) : CmdRes :=
  let x := Slot.ctx c.slot
  if !s.hasCtx (srcPart c.src) x then refuse s c St.noSuchObject
  else if (s.ctx x).st ≠ .resident then refuse s c St.badState
  else (s.beginSuspend x, { c with phase := .waiting })

def execCtxSuspend (src : CmdSrc) : State → Res := engines (cmdRow 0x12 (fun _ => true) suspendCtx src)

/-- The save of a SUSPENDING context ends: the one that the source's command waits for, else one that a withdrawn cluster
suspends (R40). -/
def execCtxSaveComplete (src : CmdSrc) : State → Res :=
  hubWork fun s =>
    let ended (q : Nat) : Bool := decide ((s.queue q).st ≠ .ending) || !s.queueDone q
    let ripe (x : Nat) : Bool := decide ((s.ctx x).st = .suspending) && s.drained x && s.roundsEnded x && (s.ctx x).queues.all ended
    match s.waitingCmd src fun c => decide (Slot.op c.slot = 0x12) && ripe (Slot.ctx c.slot) with
    | some c => ((s.endWaits (Slot.ctx c.slot) true).saveContext (Slot.ctx c.slot)).postAllHeld.putCmd (c.complete St.ok 0)
    | none =>
      match s.ctxs.find? fun y => decide (y.2.part = srcPart src) && ripe y.1 &&
          !s.cmds.any fun c => decide (c.phase = .waiting) && decide (Slot.op c.slot = 0x12) && decide (Slot.ctx c.slot = y.1) with
      | some y => ((s.endWaits y.1 true).saveContext y.1).postAllHeld
      | none => s

/-- Core that takes over saved core `c` by a map of 256 bytes (R452). -/
def resumeCore (bs : Bytes) (m : Table Nat) (c : Nat) : Nat :=
  let one (c : Nat) : Nat :=
    let b := ((bs[c]?).getD 255).toNat
    if b = 255 then c else b
  if c % 2 = 1 ∧ (Tbl.get 0 m (c - 1)).testBit 8 then one (c - 1) + 1 else one c

def resumeCtx (s : State) (c : Cmd) : CmdRes :=
  let x := Slot.ctx c.slot
  let p := srcPart c.src
  let a := bits c.slot 255 192
  let y := s.ctx x
  if !s.hasCtx p x then refuse s c St.noSuchObject
  else if y.st ≠ .suspended ∨ (s.part p).refusing then refuse s c St.badState
  else
    match (if a = 0 then .inr [] else s.kRead p a 256 [0]) with
    | .inl st => refuse s c st
    | .inr bs =>
      let ren := resumeCore bs y.cmap
      let cores := y.cmap.map fun e => ren e.1
      let m : Table Nat := y.cmap.foldl (fun t e => Tbl.put t (ren e.1) e.2) []
      if nub cores ≠ cores then refuse s c St.badField
      else
        match s.mapRefusal p x m y.clmBase y.clmLen with
        | some st => refuse s c st
        | none =>
          if y.saveBytes < (s.setCtx x { y with cmap := m }).saveNeed x then refuse s c St.noResource
          else (((s.keepRecords { y with cmap := m }.queues).restoreContext x ren m).postAllHeld.releaseHeld, c.complete St.ok 0)

def execCtxResume (src : CmdSrc) : State → Res := engines (cmdRow 0x13 (fun _ => true) resumeCtx src)

/-! ### Queues (R454 to R456) -/

/-- A queue that the context owns; the odd core of a tandem pair has none (R117). -/
def State.ownsQueue (s : State) (x q : Nat) : Bool :=
  (s.ctx x).queues.contains q && !(s.isTandem (q / 4) && decide (q / 4 % 2 = 1))

/-- The refusals that every form of QUEUE_START shares. -/
def State.startRefusal (s : State) (c : Cmd) : Option CmdRes :=
  let x := Slot.ctx c.slot
  let q := Slot.queue c.slot
  let Q := s.queue q
  let full (st : Nat) : Option CmdRes := some (s, c.complete st (if Q.ctx = some x then queueResult Q else 0))
  if !s.hasCtx (srcPart c.src) x then some (refuse s c St.noSuchObject)
  else if !s.ownsQueue x q then some (refuse s c St.badField)
  else if (s.part (srcPart c.src)).refusing then full St.badState
  else if Q.ctx = some x ∧ Q.st = .faulted then full St.ctxFaulted
  else if (s.ctx x).st ≠ .resident then full St.badState
  else if Q.st = .running ∨ Q.st = .waiting ∨ Q.st = .ending then full St.badState
  else none

/-- The command completes at once, or with `UNTIL_END` waits. -/
def started (s : State) (c : Cmd) : CmdRes :=
  if bit c.slot 149 then (s, { c with phase := .waiting }) else (s, c.complete St.ok (queueResult (s.queue (Slot.queue c.slot))))

/-- A queue as QUEUE_START starts it (R165, R197). A start is no synchronisation point: what the earlier program wrote since its last
one stays on record (R9). -/
def startedQueue (Q : Queue) (entry : Nat) (regs : List Nat) : Queue :=
  { st := .running, ctx := Q.ctx, pc := entry, causal := Q.causal, dirty := Q.dirty
    sregs := ((List.range regs.length).zip regs).foldl (fun t r => setReg t (r.1 + 1) (BitVec.ofNat 64 r.2)) [] }

/-- A start from the entry begins the sequence numbers again, so that of a STOPPED queue waits until the work of its earlier program has
completed (DESIGN CHOICE, log 118). -/
def startQueue (s : State) (c : Cmd) : CmdRes :=
  match s.startRefusal c with
  | some r => r
  | none =>
    let q := Slot.queue c.slot
    if (s.queue q).st = .stopped ∧ s.queueDone q = false then (s, c) else
    let entry := bits c.slot 255 192
    let regs := (List.range 8).map fun i => bits c.slot (64 * i + 319) (64 * i + 256)
    if entry % 32 ≠ 0 then refuse s c St.badField
    else
      match s.fetchKeys q entry with
      | .inl _ => refuse s c St.address
      | .inr _ => started (s.setQueue q (startedQueue (s.queue q) entry regs)) c

def execQueueStart (src : CmdSrc) : State → Res := engines (cmdRow 0x31 (fun w => !bit w 148) startQueue src)

def resumeQueue (s : State) (c : Cmd) : CmdRes :=
  match s.startRefusal c with
  | some r => r
  | none =>
    let q := Slot.queue c.slot
    let Q := s.queue q
    if Q.st ≠ .stopped then (s, c.complete St.badState (queueResult Q))
    else
      match Q.wait with
      | none => started (s.setQueue q { Q with st := .running }) c
      | some w =>
        let s := s.setQueue q { Q with st := .waiting }
        started { s with sync := { s.sync with flight := s.sync.flight ++ [w.op] } } c

def execQueueResume (src : CmdSrc) : State → Res := engines (cmdRow 0x31 (fun w => bit w 148) resumeQueue src)

def stopCmd (s : State) (c : Cmd) : CmdRes :=
  let x := Slot.ctx c.slot
  let q := Slot.queue c.slot
  let Q := s.queue q
  if !s.hasCtx (srcPart c.src) x then refuse s c St.noSuchObject
  else if !s.ownsQueue x q then refuse s c St.badField
  else if Q.st = .faulted then (s, c.complete St.ctxFaulted (stopResult Q))
  else if (s.ctx x).st ≠ .resident then refuse s c St.badState
  else
    match Q.st with
    | .running | .waiting => (s.stopQueue q, { c with phase := .waiting, result := stopResult ((s.stopQueue q).queue q) })
    | .ending => (s, { c with phase := .waiting, result := stopResult Q })
    | _ => (s, c.complete St.ok (stopResult Q))

def execQueueStop (src : CmdSrc) : State → Res := engines (cmdRow 0x32 (fun _ => true) stopCmd src)

/-- A stop that waits on a queue: what the queue had accepted before it, by its sequence number, has completed, whether or not the queue
has been continued meanwhile (R442). -/
def State.stopDrained (s : State) (c : Cmd) : Bool :=
  let q := Slot.queue c.slot
  decide (Slot.op c.slot = 0x32) && decide ((s.queue q).ctx = some (Slot.ctx c.slot)) && decide ((s.queue q).st ≠ .ending) &&
  !s.outstandingOf q fun n => decide (n < bits c.result 127 64)

def execQueueStopDrained (src : CmdSrc) : State → Res :=
  engines fun s =>
    match s.waitingCmd src s.stopDrained with
    | none => s
    | some c => s.putCmd (c.complete St.ok c.result)

/-! ### Host maps (R457) -/

def addMap (s : State) (c : Cmd) : CmdRes :=
  let w := c.slot
  let p := srcPart c.src
  let m : HostMap := { winOff := bits w 303 256, len := bits w 255 192, host := bits w 191 128, rd := bit w 304, wr := bit w 305 }
  if m.winOff % 2 ^ 21 ≠ 0 ∨ m.len % 4096 ≠ 0 ∨ m.len = 0 ∨ 2 ^ 46 < m.len ∨ m.host % 4096 ≠ 0 ∨ 2 ^ 48 < m.winOff + m.len ∨
      (s.part p).maps.any (fun x => overlaps (x.winOff, x.len) (m.winOff, m.len)) then refuse s c St.badField
  else if (s.part p).port = 0 then refuse s c St.address
  else if 256 ≤ (s.part p).maps.length then refuse s c St.noResource
  else (s.modPart p fun P => { P with maps := P.maps ++ [m] }, c.complete St.ok 0)

def execHostmapAdd (src : CmdSrc) : State → Res := engines (cmdRow 0x20 (fun _ => true) addMap src)

/-! ### COPY, FILL, PROG_LOAD (R458 to R460) -/
namespace Copy
def src (w : Nat) : Nat := bits w 191 128
def dst (w : Nat) : Nat := bits w 255 192
def len (w : Nat) : Nat := bits w 319 256
def sigKind (w : Nat) : Nat := bits w 353 352
def sigObj (w : Nat) : Nat := bits w 335 320
def sigN (w : Nat) : Nat := bits w 351 336
def sigCtx (w : Nat) : Nat := bits w 363 354
def owner (w : Nat) : Nat := 4 * bits w 371 364 + bits w 373 372
def isLoad (w : Nat) : Bool := decide (Slot.op w = 0x30)
end Copy

/-- Bytes of a range of spaces 0x00, 0x01 or 0x03; none where the host map does not serve them. -/
def State.anyRead (s : State) (p a n : Nat) : Option Bytes :=
  if a / 2 ^ 56 = 3 then s.windowRead p (a % 2 ^ 56) n else some (s.addrRead a n)

def State.anyWrite (s : State) (p a : Nat) (bs : Bytes) : State :=
  if a / 2 ^ 56 = 3 then (s.windowWrite p (a % 2 ^ 56) bs).getD s else s.addrWrite a bs

/-- Undefined contents of a range. -/
def State.anyHavoc (s : State) (p a n : Nat) : State :=
  if a / 2 ^ 56 = 3 then { (s.windowWrite p (a % 2 ^ 56) (freeBytes s.free n)).getD s with free := s.free + n }
  else s.havocKeys (s.addrKeys a n)

/-- A copy ends without its data: the destination is undefined and no signal is raised (R457, R458). -/
def State.failCopy (s : State) (c : Cmd) (status : Nat) : State :=
  (s.anyHavoc (srcPart c.src) (Copy.dst c.slot) (Copy.len c.slot)).putCmd { c.complete status 0 with sigOut := false }

/-- A waiting copy uses a range of the host window. -/
def Cmd.copiesThrough (c : Cmd) (m : HostMap) : Bool :=
  decide (c.phase = .waiting) && [0x30, 0x40, 0x41].contains (Slot.op c.slot) && !c.sigOut &&
  ((decide (Slot.op c.slot ≠ 0x41) && overlaps (Copy.src c.slot, Copy.len c.slot) (3 * 2 ^ 56 + m.winOff, m.len)) ||
    overlaps (Copy.dst c.slot, Copy.len c.slot) (3 * 2 ^ 56 + m.winOff, m.len))

/-- The map takes no new access; a copy of the partition that would go on through it completes with `ADDRESS`, and the command
itself waits, with the map's length in its result, until every access already begun has completed (R442). -/
def removeMap (s : State) (c : Cmd) : CmdRes :=
  let p := srcPart c.src
  let off := bits c.slot 303 256
  match (s.part p).maps.find? fun m => decide (m.winOff = off) with
  | none => refuse s c St.noSuchObject
  | some m =>
    let hit := s.cmds.filter fun y => decide (srcPart y.src = p) && y.copiesThrough m
    let s := hit.foldl (fun s y => s.failCopy y St.address) s
    (s.modPart p fun P => { P with maps := P.maps.filter fun x => decide (x.winOff ≠ off) }, { c with phase := .waiting, result := m.len })

def execHostmapRemove (src : CmdSrc) : State → Res := engines (cmdRow 0x21 (fun _ => true) removeMap src)

/-- The refusals that the three commands share. -/
def State.copyRefusal (s : State) (c : Cmd) : Option Nat :=
  let w := c.slot
  let p := srcPart c.src
  let fill := decide (Slot.op w = 0x41)
  let signals := !Copy.isLoad w && decide (Copy.sigKind w ≠ 0)
  if !Copy.isLoad w && (decide (Copy.sigKind w = 3) || (decide (Copy.sigKind w = 2) && decide (Copy.sigN w ≠ 0))) then some St.badField
  else if Copy.isLoad w && (decide (Copy.len w % 32 ≠ 0) || decide (Copy.dst w % 32 ≠ 0)) then some St.badField
  else if signals && !s.hasCtx p (Copy.sigCtx w) then some St.noSuchObject
  else if (!fill && !s.okRange p (Copy.src w) (Copy.len w) false [0, 1, 3]) ||
      !s.okRange p (Copy.dst w) (Copy.len w) true (if Copy.isLoad w then [0, 1] else [0, 1, 3]) then some St.address
  else if !fill && overlaps (Copy.src w, Copy.len w) (Copy.dst w, Copy.len w) then some St.badField
  else none

/-- The data moves, and the command waits for `COPY_COMPLETE`; an uncorrectable source ends it. -/
def moveData (s : State) (c : Cmd) (ue : List Nat) : CmdRes :=
  let w := c.slot
  let p := srcPart c.src
  let s := s.corrected ue
  match s.meetsBad ue (if Copy.src w / 2 ^ 56 = 3 then [] else s.addrKeys (Copy.src w) (Copy.len w)) with
  | some g =>
    let s := if g < 2 ^ 56 then s.moduleUe g else s.markBad g
    (s.anyHavoc p (Copy.dst w) (Copy.len w), c.complete St.memoryError 0)
  | none =>
    match s.anyRead p (Copy.src w) (Copy.len w) with
    | none => refuse s c St.address
    | some bs =>
      let status := if Copy.isLoad w ∧ bit w 352 ∧ crc32c bs ≠ bits w 351 320 then St.checkFailed else St.ok
      let s := if Copy.src w / 2 ^ 56 = 3 then s.addWork p 6 bs.length else s
      (s.anyWrite p (Copy.dst w) bs, { c with phase := .waiting, status := status })

def copyCmd (ue : List Nat) (s : State) (c : Cmd) : CmdRes :=
  match s.copyRefusal c with
  | some st => refuse s c st
  | none => moveData s c ue

def execCopy (src : CmdSrc) (ue : List Nat) : State → Res := hubWork (cmdRow 0x40 (fun _ => true) (copyCmd ue) src)

/-- The bytes that FILL writes. -/
def fillBytes (pattern a n : Nat) : Bytes := (List.range n).map fun i => BitVec.ofNat 8 (pattern / 2 ^ (8 * ((a + i) % 8)))

def fillCmd (s : State) (c : Cmd) : CmdRes :=
  match s.copyRefusal c with
  | some st => refuse s c st
  | none =>
    (s.anyWrite (srcPart c.src) (Copy.dst c.slot) (fillBytes (Copy.src c.slot) (Copy.dst c.slot) (Copy.len c.slot)), { c with phase := .waiting })

def execFill (src : CmdSrc) : State → Res := hubWork (cmdRow 0x41 (fun _ => true) fillCmd src)

/-- A queue of the partition has its pc inside the range (R460). -/
def State.codeInUse (s : State) (p a n : Nat) : Bool :=
  (s.partQueues p).any fun q =>
    let Q := s.queue q
    (decide (Q.st = .running) || decide (Q.st = .waiting) || decide (Q.st = .ending) || decide (Q.st = .stopped)) &&
    decide (a ≤ Q.pc) && decide (Q.pc < a + n)

def loadCmd (ue : List Nat) (s : State) (c : Cmd) : CmdRes :=
  match s.copyRefusal c with
  | some st => refuse s c st
  | none =>
    if s.codeInUse (srcPart c.src) (Copy.dst c.slot) (Copy.len c.slot) then refuse s c St.busy else moveData s c ue

def execProgLoad (src : CmdSrc) (ue : List Nat) : State → Res := hubWork (cmdRow 0x30 (fun _ => true) (loadCmd ue) src)

/-- The last write is visible: shard versions rise (R376), the CRC verdict is given, the bound signal is raised; with a
signal the command completes when its object has answered. -/
def execCopyComplete (src : CmdSrc) : State → Res :=
  engines fun s =>
    match s.waitingCmd src fun c => [0x30, 0x40, 0x41].contains (Slot.op c.slot) && !c.sigOut with
    | none => s
    | some c =>
      let w := c.slot
      let p := srcPart src
      let s := s.raiseShards p [(Copy.dst w, Copy.len w)]
      if Copy.isLoad w then
        if c.status = St.ok then s.putCmd (c.complete St.ok 0) else s.failCopy c c.status
      else if Copy.sigKind w = 0 then s.putCmd (c.complete St.ok 0)
      else
        let b : BoundSig :=
          { obj := Copy.sigObj w, kind := Copy.sigKind w, n := Copy.sigN w, qid := Copy.owner w, ctx := Copy.sigCtx w, part := p, pc := 0,
            seq := 0, causal := (s.part p).causal, origin := 1, cmd := c.id }
        ({ s with sync := { s.sync with bound := s.sync.bound ++ [b] } }).putCmd { c with sigOut := true }

end Sys2Proof.Machine
end

