-- ==== Sys2Proof/Machine/KentisSync.lean ====
section
/-! DEFINITION. Machine/KentisSync.lean: the commands on synchronisation objects (R461, R462), collective groups and
instances (R463 to R466) and master shards (R467). -/

namespace Sys2Proof.Machine

/-! ### Synchronisation objects -/
namespace SCmd
def obj (w : Nat) : Nat := bits w 153 138
def kind (w : Nat) : Nat := bits w 155 154
def partic (w : Nat) : Nat := bits w 164 156
def value (w : Nat) : Nat := bits w 180 165
def decl (w : Nat) : Bool := bit w 181
def ext (w : Nat) : Bool := bit w 182
def prodCore (w : Nat) : Nat := bits w 190 183
def prodQ (w : Nat) : Nat := bits w 192 191
def addr (w : Nat) : Nat := bits w 319 256
def gen (w : Nat) : Nat := bits w 351 320
def die (w : Nat) : Nat := bits w 353 352
def any (w : Nat) : Bool := bit w 354
end SCmd

/-- The object lies in a range of the partition (R201). -/
def State.objIn (s : State) (p o : Nat) : Bool := (s.part p).syncRanges.testBit (o / 256)

/-- Free objects of a die in the partition's ranges. -/
def State.freeObjs (s : State) (p d : Nat) : List Nat :=
  ((List.range 64).filter fun r => (s.part p).syncRanges.testBit (64 * d + r)).flatMap fun r =>
    (span (256 * (64 * d + r)) 256).filter fun o => decide ((s.obj o).kind = .free)

/-- Kind that a code names. -/
def objKind (k : Nat) : ObjKind := if k = 1 then .counter else if k = 2 then .flag else if k = 3 then .barrier else .free

/-- Producer table of a barrier: per participant the declared queue + 1. -/
def producerTable (bs : Bytes) : Table Nat :=
  (List.range 256).filterMap fun i =>
    let e := leNat (slice bs (2 * i) 2)
    if bit e 15 then some (i, 4 * bits e 7 0 + bits e 9 8 + 1) else none

/-- Reserved bits of a producer table are zero. -/
def producerTableOk (bs : Bytes) : Bool := (List.range 256).all fun i => decide (bits (leNat (slice bs (2 * i) 2)) 14 10 = 0)

/-- The object that an allocation asks for. -/
def newObject (w p : Nat) (tab : Table Nat) (frozen : Bool) : SyncObj :=
  { kind := objKind (SCmd.kind w), ctx := Slot.ctx w, part := p, frozen := frozen
    count := if SCmd.kind w = 3 then 0 else SCmd.value w
    partic := if SCmd.kind w = 3 then SCmd.partic w else 0
    prodDecl := SCmd.decl w, prodExt := SCmd.ext w, prodCore := SCmd.prodCore w, prodQ := SCmd.prodQ w, prodTab := tab }

/-- Fields out of range: a flag's value has one bit, a barrier has 1 to 256 participants. -/
def allocFieldsOk (w : Nat) : Bool :=
  if SCmd.kind w = 2 then decide (SCmd.value w ≤ 1)
  else if SCmd.kind w = 3 then decide (1 ≤ SCmd.partic w) && decide (SCmd.partic w ≤ 256)
  else true

/-- Allocate `o`: the declared producers are queues of the context, and the save area still suffices (R450, R461). -/
def allocObject (s : State) (c : Cmd) (o : Nat) : CmdRes :=
  let w := c.slot
  let p := srcPart c.src
  let x := Slot.ctx w
  match (if SCmd.kind w = 3 ∧ SCmd.addr w ≠ 0 then s.kRead p (SCmd.addr w) 512 [0] else .inr []) with
  | .inl st => refuse s c st
  | .inr bs =>
    let tab := if bs.isEmpty then [] else producerTable bs
    let owned (q : Nat) : Bool := s.ownsQueue x q
    if (SCmd.decl w && !SCmd.ext w && !owned (4 * SCmd.prodCore w + SCmd.prodQ w)) || !producerTableOk bs || tab.any (fun e => !owned (e.2 - 1)) then
      refuse s c St.badField
    else
      let t := s.setObj o (newObject w p tab (decide ((s.ctx x).st ≠ .resident)))
      if (s.ctx x).saveBytes < t.saveNeed x then refuse s c St.noResource else (t, c.complete St.ok o)

def syncAllocCmd (s : State) (c : Cmd) : CmdRes :=
  let w := c.slot
  let p := srcPart c.src
  let x := Slot.ctx w
  if !s.hasCtx p x then refuse s c St.noSuchObject
  else if (s.ctx x).st = .faulted then refuse s c St.ctxFaulted
  else if !allocFieldsOk w then refuse s c St.badField
  else if SCmd.any w then
    let l := s.freeObjs p (SCmd.die w)
    match l[Config.freeNat s.free % l.length]? with
    | none => refuse s c St.noResource
    | some o => allocObject { s with free := s.free + 1 } c o
  else if !s.objIn p (SCmd.obj w) then refuse s c St.noPermission
  else if (s.obj (SCmd.obj w)).kind ≠ .free then refuse s c St.busy
  else allocObject s c (SCmd.obj w)

def execSyncAlloc (src : CmdSrc) : State → Res := engines (cmdRow 0x50 (fun w => decide (SCmd.kind w ≠ 0)) syncAllocCmd src)

def syncFreeCmd (s : State) (c : Cmd) : CmdRes :=
  let p := srcPart c.src
  let o := SCmd.obj c.slot
  let O := s.obj o
  if !s.hasCtx p (Slot.ctx c.slot) then refuse s c St.noSuchObject
  else if !s.objIn p o then refuse s c St.noPermission
  else if O.kind = .free then refuse s c St.badState
  else if O.ctx ≠ Slot.ctx c.slot then refuse s c St.noPermission
  else if !O.waiters.isEmpty then refuse s c St.waitersPending
  else ((s.setObj o {}).releaseHeld, c.complete St.ok o)

def execSyncFree (src : CmdSrc) : State → Res := engines (cmdRow 0x50 (fun w => decide (SCmd.kind w = 0)) syncFreeCmd src)

/-- The assignment of SYNC_SET (R462). -/
def SyncObj.assign (o : SyncObj) (w : Nat) : SyncObj :=
  if o.kind = .barrier then { o with gen := SCmd.gen w, bmCur := 0, bmNext := 0 } else { o with count := SCmd.value w }

def syncSetCmd (s : State) (c : Cmd) : CmdRes :=
  let w := c.slot
  let p := srcPart c.src
  let o := SCmd.obj w
  let O := s.obj o
  if !s.hasCtx p (Slot.ctx w) then refuse s c St.noSuchObject
  else if !s.objIn p o then refuse s c St.noPermission
  else if O.kind = .free then refuse s c St.badState
  else if O.ctx ≠ Slot.ctx w then refuse s c St.noPermission
  else if O.kind = .flag ∧ 2 ≤ SCmd.value w then refuse s c St.badField
  else if O.frozen then refuse s c St.badState
  else if !O.waiters.isEmpty then refuse s c St.waitersPending
  else (s.setObj o (O.assign w), c.complete St.ok 0)

def execSyncSet (src : CmdSrc) : State → Res := engines (cmdRow 0x51 (fun _ => true) syncSetCmd src)

def syncReadCmd (s : State) (c : Cmd) : CmdRes :=
  let w := c.slot
  let p := srcPart c.src
  let img := (s.obj (SCmd.obj w)).bytes
  if !s.objIn p (SCmd.obj w) then refuse s c St.noPermission
  else if SCmd.addr w = 0 then (s, c.complete St.ok (leNat (img.take 16)))
  else if !s.okRange p (SCmd.addr w) 128 true [0, 1, 3] then refuse s c St.address
  else (s.anyWrite p (SCmd.addr w) img, c.complete St.ok (leNat (img.take 16)))

def execSyncRead (src : CmdSrc) : State → Res := hubWork (cmdRow 0x52 (fun _ => true) syncReadCmd src)

/-! ### Groups (R340, R341, R373, R374, R463) -/

def groupOf (w : Nat) : Nat := bits w 131 128

def layoutOf (w epoch : Nat) : Layout :=
  { epoch := epoch, origin := bits w 142 132, px := bits w 147 143, py := bits w 152 148, pz := bits w 156 153 }

/-- The refusal of a member box. -/
def State.boxRefusal (s : State) (p : Nat) (l : Layout) : Option Nat :=
  if l.px = 0 ∨ l.py = 0 ∨ l.pz = 0 ∨ !inTorus s.fab.dims l.origin ∨ (List.range 3).any (fun d => decide (torusSize s.fab.dims d < l.size d)) ∨
      (l.rankOf s.fab.dims s.myId).isNone then some St.badField
  else if (l.modules s.fab.dims).any fun m => decide (m ≠ s.myId) && decide ((s.session (State.sessKey p 1 m)).st ≠ .opened) then some St.notReady
  else none

def groupDefineCmd (s : State) (c : Cmd) : CmdRes :=
  let p := srcPart c.src
  let l := layoutOf c.slot 0
  match s.boxRefusal p l with
  | some st => refuse s c st
  | none =>
    if (s.group p (groupOf c.slot)).isSome then refuse s c St.busy
    else (s.setGroup p (groupOf c.slot) (some { cur := l }), c.complete St.ok (s.groupResult l))

def execCollGroupDefine (src : CmdSrc) : State → Res :=
  engines (cmdRow 0x60 (fun w => decide (bits w 147 143 ≠ 0)) groupDefineCmd src)

def groupRemoveCmd (s : State) (c : Cmd) : CmdRes :=
  let p := srcPart c.src
  let g := groupOf c.slot
  match s.group p g with
  | none => refuse s c St.noSuchObject
  | some G =>
    if (s.part p).insts.any fun x => decide (IBlk.group x.blk = g) then refuse s c St.busy
    else (s.setGroup p g none, c.complete St.ok (s.groupResult G.cur))

def execCollGroupRemove (src : CmdSrc) : State → Res :=
  engines (cmdRow 0x60 (fun w => decide (bits w 147 143 = 0)) groupRemoveCmd src)

/-- The new layout is installed, or waits for the oldest of three to drain. -/
def epochCmd (s : State) (c : Cmd) : CmdRes :=
  let p := srcPart c.src
  let g := groupOf c.slot
  match s.group p g with
  | none => refuse s c St.noSuchObject
  | some G =>
    let l := layoutOf c.slot ((G.cur.epoch + 1) % 2 ^ 16)
    match s.boxRefusal p l with
    | some st => refuse s c st
    | none =>
      let G := { G with old := G.old.filter (s.layoutInUse p g) }
      if G.waiting.isSome then (s, c)
      else if 2 ≤ G.old.length then (s.setGroup p g (some { G with waiting := some l }), { c with phase := .waiting })
      else (s.setGroup p g (some { cur := l, old := G.old ++ [G.cur] }), c.complete St.ok (s.groupResult l))

def execEpochAdvance (src : CmdSrc) : State → Res := engines (cmdRow 0x62 (fun _ => true) epochCmd src)

/-! ### Instances (R342, R343, R353, R373, R379, R464, R466) -/

/-- Fields of an instance block within the ranges of R342, R343 and R379. -/
def blockOk (b : Nat) : Bool :=
  let op := IBlk.op b
  let n := IBlk.count b
  decide (1 ≤ op) && decide (op ≤ 7) && decide (bits b 1343 512 = 0) && decide (bits b 386 384 = 0) && decide (bits b 144 0 = 0) &&
  decide (IBlk.srcKind b ≤ 2) && decide (IBlk.srcFmt b ≤ 2) && decide (IBlk.dstFmt b ≤ 2) && decide (IBlk.verMode b ≤ 2) &&
  decide (1 ≤ n) && decide (n ≤ 2 ^ 28) &&
  (if IBlk.reduces b then
     (decide (IBlk.srcKind b ≠ 1) || (decide (n % 256 = 0) && decide (n / 256 ≤ 65536))) &&
     (decide (IBlk.srcKind b ≠ 2) || (IBlk.bfx b && decide (IBlk.srcFmt b ≠ 2)))
   else true) &&
  (if 6 ≤ op then decide (1 ≤ IBlk.experts b) && decide (IBlk.experts b ≤ 4096) && decide (1 ≤ IBlk.capacity b) &&
     decide (1 ≤ IBlk.kRoute b) && decide (IBlk.kRoute b ≤ 8)
   else true)

/-- The agreement identifiers of two bank-fed instances overlap (R353). -/
def agreeMeet (a b : Nat) : Bool :=
  IBlk.reduces a && IBlk.reduces b && decide (IBlk.srcKind a = 1) && decide (IBlk.srcKind b = 1) &&
  (decide ((IBlk.agreeBase b + 2 ^ 16 - IBlk.agreeBase a) % 2 ^ 16 < IBlk.tiles a) ||
   decide ((IBlk.agreeBase a + 2 ^ 16 - IBlk.agreeBase b) % 2 ^ 16 < IBlk.tiles b))

/-- The objects that an instance uses are counters or flags of its context, its trigger a counter, and its owner is a queue
of the context (R342). -/
def State.objectsOk (s : State) (b : Nat) : Bool :=
  let own (ks : List ObjKind) (o : Nat) : Bool := decide ((s.obj o).ctx = IBlk.ctx b) && ks.contains (s.obj o).kind
  let signals := [IBlk.doneObj b] ++ (if IBlk.reduces b ∧ IBlk.srcKind b = 1 then [IBlk.agreeObj b] else []) ++
    (if IBlk.op b = 3 ∧ IBlk.arrivalAddr b ≠ 0 then [IBlk.pieceObj b] else [])
  own [.counter] (IBlk.trigObj b) && signals.all (own [.counter, .flag]) &&
  (s.ctx (IBlk.ctx b)).queues.contains (IBlk.owner b)

/-- The refusal of an instance block. -/
def State.blockRefusal (s : State) (p b : Nat) : Option Nat :=
  let insts := (s.part p).insts
  let x := IBlk.ctx b
  if !blockOk b then some St.badField
  else if !s.hasCtx p x then some St.noSuchObject
  else if (s.ctx x).st = .faulted then some St.ctxFaulted
  else if (s.ctx x).st ≠ .resident ∨ (s.part p).refusing then some St.badState
  else
    match s.group p (IBlk.group b) with
    | none => some St.noSuchObject
    | some G =>
      if IBlk.op b = 7 ∧ !insts.any (fun i => decide (i.h = IBlk.pair b) && decide (IBlk.op i.blk = 6)) then some St.noSuchObject
      else if G.cur.epoch ≠ IBlk.epoch b then some St.epochMismatch
      else if 64 ≤ insts.length then some St.noResource
      else if insts.any fun i => decide (i.ctx = x) && agreeMeet i.blk b then some St.busy
      else if IBlk.op b = 4 ∧ IBlk.count b % G.cur.members ≠ 0 then some St.badField
      else if !s.objectsOk b then some St.badField
      else if (s.blockRanges b (((s.inst p (IBlk.pair b)).map (·.blk)).getD 0) G.cur.members (s.rankIn G.cur)).any fun r => !s.okRange p r.1 r.2.1 r.2.2 [0, 1] then some St.address
      else if IBlk.op b = 3 ∧ IBlk.verMode b ≠ 0 ∧ ((s.part p).shardOf (IBlk.srcAddr b) (IBlk.count b)).isNone then some St.badField
      else none

/-- Arm an instance with a handle: it waits for its trigger. -/
def State.armInst (s : State) (p h uid b : Nat) (l : Layout) : State :=
  let x : Inst := { h := h, uid := uid, pairUid := ((s.inst p (IBlk.pair b)).map (·.uid)).getD 0, ctx := IBlk.ctx b, part := p, blk := b, layout := l }
  let s := s.hubUnwait (.coll p h) (IBlk.trigObj b)
  ((s.modPart p fun P => { P with insts := P.insts ++ [x] }).waitTrigger x).drainAll p

def collStartCmd (s : State) (c : Cmd) : CmdRes :=
  let p := srcPart c.src
  match s.kRead p (bits c.slot 255 192) 256 [0] with
  | .inl st => refuse s c st
  | .inr bs =>
    let b := leNat bs
    match s.blockRefusal p b, s.group p (IBlk.group b) with
    | some st, _ => refuse s c st
    | none, none => refuse s c St.noSuchObject
    | none, some G =>
      match (List.range 64).find? fun h => (s.inst p h).isNone with
      | none => refuse s c St.noResource
      | some h => (s.armInst p h c.id b G.cur, c.complete St.ok h)

def execCollStart (src : CmdSrc) : State → Res := engines (cmdRow 0x61 (fun w => !bit w 128) collStartCmd src)

/-- A member that is cancelled while it waits for its trigger ends the round that others have in flight, as their held roll calls show
(R464, R476). -/
def State.cancelWaiting (s : State) (x : Inst) : State :=
  let rb := leNat (s.addrRead (IBlk.paramAddr x.blk) 64)
  let y : Inst := { x with rb := rb, sig := roundSig x.blk rb, phase := .roll }
  let inFlight := s.atHand (s.instRanges x) && (s.part x.part).xheld.any fun m => y.inRound m && decide (y.sig = XHdr.sig m)
  (if inFlight then (failIn (s, y) St.aborted).1 else s).disarm x

/-- An instance that waits for its trigger is disarmed at once; another when its round has ended (R464). -/
def collCancelCmd (s : State) (c : Cmd) : CmdRes :=
  match s.inst (srcPart c.src) (Slot.handle c.slot) with
  | none => refuse s c St.noSuchObject
  | some x =>
    if x.phase = .trigger then (s.cancelWaiting x, c.complete St.ok 0)
    else (s.setInst { x with cancel := true }, { c with phase := .waiting })

def execCollCancel (src : CmdSrc) : State → Res := engines (cmdRow 0x61 (fun w => bit w 128) collCancelCmd src)

/-! ### Master shards (R376, R467) -/

def shardNum (w : Nat) : Nat := bits w 295 288
def shardAction (w : Nat) : Nat := bits w 297 296

def State.shard (s : State) (p n : Nat) : Option Shard := (s.part p).shards.find? fun h => decide (h.num = n)

def shardResult (h : Shard) : Nat := pack [(0, 32, h.ver), (32, 24, h.tid), (56, 8, h.num)]

def shardRegisterCmd (s : State) (c : Cmd) : CmdRes :=
  let w := c.slot
  let p := srcPart c.src
  let h : Shard := { num := shardNum w, base := bits w 191 128, len := bits w 255 192, tid := bits w 279 256, ver := 0 }
  if shardAction w = 3 ∨ h.base % 64 ≠ 0 ∨ h.len % 64 ≠ 0 ∨ h.len = 0 then refuse s c St.badField
  else if (s.shard p h.num).isSome then refuse s c St.busy
  else if !s.okRange p h.base h.len true [0] then refuse s c St.address
  else if (s.part p).shards.any fun x => overlaps (x.base, x.len) (h.base, h.len) then refuse s c St.badField
  else (s.modPart p fun P => { P with shards := P.shards ++ [h] }, c.complete St.ok (shardResult h))

def execShardRegister (src : CmdSrc) : State → Res :=
  engines (cmdRow 0x63 (fun w => decide (shardAction w = 0) || decide (shardAction w = 3)) shardRegisterCmd src)

/-- An armed instance or a running checkpoint reads the shard's version. -/
def Partition.readsShard (P : Partition) (h : Shard) : Bool :=
  P.insts.any (fun x => decide (IBlk.op x.blk = 3) && decide (IBlk.verMode x.blk ≠ 0) &&
    within (IBlk.srcAddr x.blk, IBlk.count x.blk) (h.base, h.len)) ||
  P.ckpt.any fun c => (CBlk.ranges c.blk).any fun r => decide (r = (h.base, h.len))

def shardRemoveCmd (s : State) (c : Cmd) : CmdRes :=
  let p := srcPart c.src
  match s.shard p (shardNum c.slot) with
  | none => refuse s c St.noSuchObject
  | some h =>
    if (s.part p).readsShard h then refuse s c St.busy
    else (s.modPart p fun P => { P with shards := P.shards.filter fun x => decide (x.num ≠ h.num) }, c.complete St.ok (shardResult h))

def execShardRemove (src : CmdSrc) : State → Res := engines (cmdRow 0x63 (fun w => decide (shardAction w = 1)) shardRemoveCmd src)

def shardReadCmd (s : State) (c : Cmd) : CmdRes :=
  match s.shard (srcPart c.src) (shardNum c.slot) with
  | none => refuse s c St.noSuchObject
  | some h => (s, c.complete St.ok (shardResult h))

def execShardRead (src : CmdSrc) : State → Res := engines (cmdRow 0x63 (fun w => decide (shardAction w = 2)) shardReadCmd src)

end Sys2Proof.Machine
end

