-- ==== Sys2Proof/Machine/KentisServ.lean ====
section
/-! DEFINITION. Machine/KentisServ.lean: the commands of off-load policies and lendings (R388 to R391, R468), checkpoints
(R397, R403, R469), watches (R405 to R409, R470), FENCE (R471), dumps and recovery policy (R472, R473), shutdown (R474), and
the end of a unit's clear (R293, R390). -/

namespace Sys2Proof.Machine

/-! ### Off-load policies (R391, R396) -/

def blockAddr (w : Nat) : Nat := bits w 255 192

/-- Every entry of a slot table is within its ranges. -/
def State.slotsOk (s : State) (b : Nat) : Bool :=
  (List.range (PBlk.slots b)).all fun j =>
    let e := s.slotEntry b j
    decide (bits e 63 2 = 0) && decide (slotKind e ≤ 1) && decide (slotBytes e % 64 = 0) && decide (slotLocal e % 64 = 0)

/-- Every range of a policy within the partition lies there. -/
def State.policyRanges (s : State) (p b : Nat) : Bool :=
  let n := PBlk.slots b
  s.okRange p (PBlk.statusAddr b) (8 * n) true [0] && s.okRange p (PBlk.workAddr b) (4 * s.slotChunks b * n) true [0] &&
  (List.range n).all fun j =>
    let e := s.slotEntry b j
    s.okRange p (slotLocal e) (slotBytes e) false [0] && s.okRange p (slotRestore e) (slotBytes e) true [0]

/-- The target range lies in one host map, or in lent units of this partition as the far module says (log 38). -/
def State.targetOk (s : State) (p b : Nat) (lent : Bool) : Bool :=
  let n := s.slotTarget b (PBlk.slots b) - PBlk.targetBase b
  if PBlk.lent b then decide (PBlk.targetBase b / 2 ^ 56 = 0x80) && s.bulkOpen p (PBlk.targetBase b) && lent
  else decide (PBlk.targetBase b / 2 ^ 56 = 3) && (s.part p).maps.any fun m =>
    m.rd && m.wr && within (PBlk.targetBase b % 2 ^ 56, n) (m.winOff, m.len)

/-- A service's owner is a queue of its context (R386). -/
def State.ownerOk (s : State) (ctx owner : Nat) : Bool := (s.ctx ctx).queues.contains owner

/-- The objects of a policy are counters of its context, and its owner is one of its queues (R386, R391). -/
def State.policyObjects (s : State) (b : Nat) : Bool :=
  [PBlk.stashObj b, PBlk.backObj b, PBlk.relObj b, PBlk.freeObj b, PBlk.readyObj b].all (fun o =>
    decide ((s.obj o).kind = .counter) && decide ((s.obj o).ctx = PBlk.ctx b)) && s.ownerOk (PBlk.ctx b) (PBlk.owner b)

/-- The refusal of a policy block. -/
def State.policyRefusal (s : State) (p b : Nat) (lent : Bool) : Option Nat :=
  if bits b 136 0 ≠ 0 ∨ PBlk.slots b = 0 ∨ 1024 < PBlk.slots b ∨ PBlk.depth b = 0 ∨ 64 < PBlk.depth b ∨
      PBlk.targetBase b % 65536 ≠ 0 then some St.badField
  else if !s.hasCtx p (PBlk.ctx b) then some St.noSuchObject
  else if (s.ctx (PBlk.ctx b)).st = .faulted then some St.ctxFaulted
  else if !s.policyObjects b then some St.badField
  else if !s.okRange p (PBlk.slotAddr b) (32 * PBlk.slots b) false [0] then some St.address
  else if !s.slotsOk b then some St.badField
  else if !s.policyRanges p b ∨ !s.targetOk p b lent then some St.address
  else if 4 ≤ (s.part p).policies.length then some St.noResource
  else none

/-- Withdraw the waits of a policy. -/
def State.unwaitPolicy (s : State) (p h b : Nat) : State :=
  (s.hubUnwait (.stash p h) (PBlk.stashObj b)).hubUnwait (.back p h) (PBlk.backObj b)

def offloadArmCmd (lent : Bool) (s : State) (c : Cmd) : CmdRes :=
  let p := srcPart c.src
  match s.kRead p (blockAddr c.slot) 64 [0] with
  | .inl st => refuse s c st
  | .inr bs =>
    let b := leNat bs
    match s.policyRefusal p b lent with
    | some st => refuse s c st
    | none =>
      match (List.range 4).find? fun h => (s.policy p h).isNone with
      | none => refuse s c St.noResource
      | some h =>
        let x : Policy := { h := h, ctx := PBlk.ctx b, blk := b }
        let s := (s.unwaitPolicy p h b).modPart p fun P => { P with policies := P.policies ++ [x] }
        (s.waitRound p x, c.complete St.ok h)

def execOffloadArm (src : CmdSrc) (lent : Bool) : State → Res :=
  engines (cmdRow 0x70 (fun w => decide (bits w 129 128 = 0)) (offloadArmCmd lent) src)

def offloadDisarmCmd (s : State) (c : Cmd) : CmdRes :=
  let p := srcPart c.src
  match s.policy p (Slot.handle c.slot) with
  | none => refuse s c St.noSuchObject
  | some x =>
    ((s.unwaitPolicy p x.h x.blk).modPart p fun P => { P with policies := P.policies.filter fun y => decide (y.h ≠ x.h) }, c.complete St.ok 0)

def execOffloadDisarm (src : CmdSrc) : State → Res :=
  engines (cmdRow 0x70 (fun w => decide (bits w 129 128 = 1)) offloadDisarmCmd src)

/-! ### Lending (R388 to R390, R468) -/

/-- Units on one die at consecutive addresses. -/
def consecutive : List Nat → Bool
  | u :: v :: l => decide (v = u + 1) && decide (u / 155 = v / 155) && consecutive (v :: l)
  | _ => true

def borrower (w : Nat) : Nat × Nat × Nat := (bits w 298 288, bits w 301 299, bits w 302 302)

/-- The partition has an open bulk session to a partition of another module (R388). -/
def State.bulkTo (s : State) (p m q : Nat) : Bool :=
  let S := s.session (State.sessKey p 2 m)
  decide (S.st = .opened) && decide (S.rpart = q)

/-- The units are cleared, and the lending is in force with the last of them. -/
def lendCmd (s : State) (c : Cmd) : CmdRes :=
  let w := c.slot
  let us := s.slotUnits c
  let l := borrower w
  if us.isEmpty ∨ us.length ≠ bits w 287 272 ∨ !consecutive us then refuse s c St.badField
  else if !s.bulkTo (srcPart c.src) l.1 l.2.1 then refuse s c St.notReady
  else if us.any fun u => (s.memUnit u).lent.isSome || decide ((s.memUnit u).st ≠ .owned) then refuse s c St.busy
  else
    (s.enterClearing us fun x => { x with toOwned := true, lent := some l },
     { c with phase := .waiting, result := unitBase (us.headD 0) })

def execLend (src : CmdSrc) : State → Res := engines (cmdRow 0x70 (fun w => decide (bits w 129 128 = 2)) lendCmd src)

/-- The lending ends once the units have been cleared, by a clear that is under way already where there is one. -/
def revokeCmd (s : State) (c : Cmd) : CmdRes :=
  let us := s.slotUnits c
  if us.isEmpty ∨ us.length ≠ bits c.slot 287 272 then refuse s c St.badField
  else if us.any fun u => (s.memUnit u).lent.isNone then refuse s c St.noSuchObject
  else
    let t := s.enterClearing (us.filter fun u => decide ((s.memUnit u).st = .owned)) fun x => { x with toOwned := true }
    (us.foldl (fun t u => t.modUnit u fun x => { x with revoking := true }) t, { c with phase := .waiting })

def execRevoke (src : CmdSrc) : State → Res := engines (cmdRow 0x70 (fun w => decide (bits w 129 128 = 3)) revokeCmd src)

/-- Detail of event 0x04 for the lender (R444). -/
def lendingEnded (first n borrower : Nat) : Nat := pack [(0, 16, first), (16, 16, n), (32, 11, borrower), (43, 1, 1)]

/-- Event 0x04 for a REVOKE whose last unit has been cleared. -/
def State.reportRevoked (s : State) (u borrower : Nat) : State :=
  match s.cmds.find? fun c => decide (c.phase = .waiting) && decide (Slot.op c.slot = 0x70) && decide (bits c.slot 129 128 = 3) &&
      (s.slotUnits c).contains u with
  | none => s
  | some c =>
    if (s.slotUnits c).all fun v => decide ((s.memUnit v).st = .owned) then
      s.event (srcPart c.src) 0x04 (lendingEnded (bits c.slot 271 256) (bits c.slot 287 272) borrower)
    else s

/-- A unit as its clear leaves it. -/
def MemUnit.cleared (x : MemUnit) : MemUnit :=
  if x.toOwned then { x with st := .owned, toOwned := false, revoking := false, lent := if x.revoking then none else x.lent } else {}

/-- A partition that becomes READY opens its session pairs (R320). -/
def State.settleReady (s : State) (p : Nat) : State :=
  let t := s.settlePart p
  if (s.part p).st = .clearing ∧ (t.part p).st = .ready then (t.part p).peers.foldl (fun t e => t.openPair p e.1) t else t

/-- The unit reads as zero: it is OWNED or FREE, a lending that ended with it is reported to the lender (R468; the borrower
is on another module), and its partition is READY or gone with its last unit. -/
def execUnitClearEnd (d : Die) : State → Res :=
  hubWork fun s =>
    match (s.die d.val).clearing with
    | none => s
    | some (u, _) =>
      let U := s.memUnit u
      let s := s.modDie d.val fun x => { x with clearing := none }
      let s := (s.clearRange (unitBase u) unitBytes).modUnit u MemUnit.cleared
      let s := if U.revoking then s.reportRevoked u ((U.lent.map (·.1)).getD 0) else s
      s.settleReady U.part

/-! ### Checkpoints (R397 to R400, R403, R469) -/

/-- Fields of a checkpoint block. -/
def ckptBlockOk (b : Bytes) (begins : Bool) : Bool :=
  decide (1 ≤ CBlk.nRanges b) && decide (CBlk.nRanges b ≤ 64) && decide (1 ≤ CBlk.nTargets b) && decide (CBlk.nTargets b ≤ 6) &&
  decide (bits (CBlk.hdr b) 239 0 = 0) && (!begins || decide (CBlk.nSlots b = 1) || decide (CBlk.nSlots b = 2))

/-- The ranges and the status record lie in the partition. -/
def State.ckptRanges (s : State) (p : Nat) (b : Bytes) (write : Bool) : Bool :=
  ((CBlk.ranges b).all fun r => s.okRange p r.1 r.2 write [0]) && s.okRange p (CBlk.statusAddr b) 32 true [0]

/-- A target is lent for checkpoints, as the far module says, and long enough (R469). -/
def State.ckptTargetOk (s : State) (p : Nat) (b : Bytes) (found : List (Option (List Bytes))) (x : Nat × (Nat × Nat)) : Bool :=
  let sh := targetShare (CBlk.total b) (CBlk.nTargets b) x.1
  decide (x.2.1 / 2 ^ 56 = 0x80) && s.bulkOpen p x.2.1 && ((found[x.1]?).getD none).isSome &&
  decide (CBlk.nSlots b * (4096 + 4 * sh.1 + sh.2) ≤ x.2.2)

def ckptBeginCmd (found : List (Option (List Bytes))) (s : State) (c : Cmd) : CmdRes :=
  let p := srcPart c.src
  match s.kRead p (blockAddr c.slot) 1248 [0] with
  | .inl st => refuse s c st
  | .inr b =>
    if (s.part p).ckpt.isSome then refuse s c St.busy
    else if (s.part p).refusing then refuse s c St.badState
    else if !ckptBlockOk b true then refuse s c St.badField
    else if !s.hasCtx p (CBlk.ctx b) then refuse s c St.noSuchObject
    else if !s.ownerOk (CBlk.ctx b) (CBlk.owner b) then refuse s c St.badField
    else if !s.ckptRanges p b false ∨ (ckptIndex b).any (fun x => !s.ckptTargetOk p b found x) then refuse s c St.address
    else
      let seq := ((s.part p).ckptSeq + 1) % 2 ^ 32
      let k : Ckpt := { blk := b, seq := seq, mods := (CBlk.targets b).map fun t => moduleOfAddr t.1
                        slot := (List.range (CBlk.nTargets b)).map fun i => s.chooseSlot p (CBlk.nSlots b) (((found[i]?).getD none).getD []) }
      (s.modPart p fun P => { P with ckpt := some k, ckptSeq := seq }, c.complete St.ok seq)

def execCkptBegin (src : CmdSrc) (found : List (Option (List Bytes))) : State → Res :=
  hubWork (cmdRow 0x71 (fun _ => true) (ckptBeginCmd found) src)

def ckptRestoreCmd (s : State) (c : Cmd) : CmdRes :=
  let p := srcPart c.src
  match s.kRead p (blockAddr c.slot) 1248 [0] with
  | .inl st => refuse s c st
  | .inr b =>
    if !ckptBlockOk b false then refuse s c St.badField
    else if !s.hasCtx p (CBlk.ctx b) then refuse s c St.noSuchObject
    else if !s.ownerOk (CBlk.ctx b) (CBlk.owner b) then refuse s c St.badField
    else if !s.ckptRanges p b true ∨ !s.okRange p (CBlk.progOut b) 64 true [0] ∨ (CBlk.targets b).any (fun t => decide (t.1 / 2 ^ 56 ≠ 0x80)) then
      refuse s c St.address
    else
      (s.modPart p fun P => { P with restores := P.restores ++ [{ blk := b, seq := CBlk.seqReq b }] }, c.complete St.ok (CBlk.seqReq b))

def execCkptRestore (src : CmdSrc) : State → Res := engines (cmdRow 0x72 (fun _ => true) ckptRestoreCmd src)

/-! ### Watches (R405 to R409, R469, R470) -/

def watchKind (w : Nat) : Nat := bits w 129 128

/-- Most items of a watch by kind. -/
def maxItems (kind : Nat) : Nat := if kind = 0 then 4096 else if kind = 1 then 64 else 1024

/-- Fields of a watch item. -/
def watchItemOk (kind : Nat) (it : Bytes) : Bool :=
  if kind = 0 then true
  else if kind = 1 then decide (tensorFmt it ≤ 4) && decide (tensorRecs it ≤ 8) && decide (tensorPeriod it ≠ 0)
  else decide (scaleRecs it ≤ 8) && decide (leNat (slice it 65 1) ≤ 15) && decide (1 ≤ scaleHo it) && decide (scaleHo it ≤ 7) && decide (scaleFmt it ≤ 5)

def State.watchRefusal (s : State) (p kind : Nat) (b : Bytes) : Option Nat :=
  let items := (List.range (WBlk.items b)).map (WBlk.item kind b)
  if WBlk.items b = 0 ∨ maxItems kind < WBlk.items b ∨ bits (WBlk.hdr b) 212 0 ≠ 0 ∨ (kind ≠ 2 ∧ WBlk.ring b = 0) ∨
      items.any (fun it => !watchItemOk kind it) then some St.badField
  else if !s.hasCtx p (WBlk.ctx b) then some St.noSuchObject
  else if (s.ctx (WBlk.ctx b)).st = .faulted then some St.ctxFaulted
  else if !s.ownerOk (WBlk.ctx b) (WBlk.owner b) then some St.badField
  else if (watchWrites kind b).any (fun r => !s.okRange p r.1 r.2 true [0]) ∨
      items.any (fun it => (watchItemRanges kind it).any fun r => !s.okRange p r.1 r.2 false [0]) then some St.address
  else none

/-- Withdraw the waits of a watch. -/
def State.unwaitWatch (s : State) (p : Nat) (x : Watch) : State :=
  let s := s.hubUnwait (x.client p) (WBlk.trigObj x.blk)
  if x.kind = 2 then s.hubUnwait (.scaleApply p) (WBlk.thirdObj x.blk) else s

def watchDefineCmd (s : State) (c : Cmd) : CmdRes :=
  let p := srcPart c.src
  let kind := watchKind c.slot
  if kind = 3 then refuse s c St.badField
  else if (s.watch p kind).isSome then refuse s c St.busy
  else
    match s.kRead p (blockAddr c.slot) 64 [0] with
    | .inl st => refuse s c st
    | .inr h =>
      match s.kRead p (blockAddr c.slot) (64 + WBlk.itemSize kind * WBlk.items h) [0] with
      | .inl st => refuse s c st
      | .inr b =>
        match s.watchRefusal p kind b with
        | some st => refuse s c st
        | none =>
          let x : Watch := { kind := kind, blk := b }
          let s := (s.unwaitWatch p x).modPart p fun P => { P with watches := P.watches ++ [x] }
          let s := s.waitWatch p x
          (if kind = 2 then s.waitApply p x else s, c.complete St.ok 0)

def execWatchDefine (src : CmdSrc) : State → Res := engines (cmdRow 0x80 (fun w => !bit w 130) watchDefineCmd src)

def watchRemoveCmd (s : State) (c : Cmd) : CmdRes :=
  let p := srcPart c.src
  let kind := watchKind c.slot
  if kind = 3 then refuse s c St.badField
  else
    match s.watch p kind with
    | none => refuse s c St.noSuchObject
    | some x => ((s.unwaitWatch p x).modPart p fun P => { P with watches := P.watches.filter fun y => decide (y.kind ≠ kind) }, c.complete St.ok 0)

def execWatchRemove (src : CmdSrc) : State → Res := engines (cmdRow 0x80 (fun w => bit w 130) watchRemoveCmd src)

/-- The ring entry holds this step's record of the item. -/
def Watch.holds (x : Watch) (step i : Nat) : Bool :=
  let e := step % WBlk.ring x.blk
  let key := if x.kind = 0 then e else if x.kind = 1 then 64 * e + i else 0
  decide (Tbl.get 0 x.steps key = step + 1)

def watchReadCmd (s : State) (c : Cmd) : CmdRes :=
  let w := c.slot
  let p := srcPart c.src
  let kind := watchKind w
  let step := bits w 319 256
  let first := bits w 335 320
  let n := bits w 351 336
  if kind = 3 then refuse s c St.badField
  else
    match s.watch p kind with
    | none => refuse s c St.noSuchObject
    | some x =>
      if WBlk.items x.blk < first + n then refuse s c St.badField
      else if (span first n).any fun i => !x.holds step i then refuse s c St.noSuchObject
      else
        let bs := (span first n).flatMap fun i => s.addrRead (WBlk.recAddr kind x.blk step i) (WBlk.recSize kind)
        if !s.okRange p (blockAddr w) bs.length true [0, 1, 3] then refuse s c St.address
        else (s.anyWrite p (blockAddr w) bs, c.complete St.ok n)

def execWatchRead (src : CmdSrc) : State → Res := hubWork (cmdRow 0x81 (fun _ => true) watchReadCmd src)

/-! ### FENCE (R471) -/

/-- A command of the named rings, taken before the FENCE and not itself one, has not completed. -/
def State.fenceBlocked (s : State) (c : Cmd) : Bool :=
  let mask := bits c.slot 143 128
  s.cmds.any fun y =>
    decide (y.id < c.id) && decide (y.phase ≠ .done) && decide (Slot.op y.slot ≠ 0x90) &&
    match y.src with
    | .ring q r => decide (q.val = srcPart c.src) && (decide (mask = 0) || mask.testBit r.val)
    | .mgmt _ => false

def fenceCmd (s : State) (c : Cmd) : CmdRes := if s.fenceBlocked c then (s, c) else (s, c.complete St.ok 0)

def execFence (src : CmdSrc) : State → Res := engines (cmdRow 0x90 (fun _ => true) fenceCmd src)

/-! ### Dumps and recovery policy (R472, R473) -/

def dumpFetchCmd (s : State) (c : Cmd) : CmdRes :=
  let p := srcPart c.src
  let x := Slot.ctx c.slot
  let dst := bits c.slot 255 192
  if !s.hasCtx p x then refuse s c St.noSuchObject
  else
    match (s.ctx x).st, (s.ctx x).dump with
    | .faulted, some d =>
      let result := pack [(0, 64, d.length), (64, 8, (s.ctx x).queues.length)]
      if bits c.slot 319 256 < d.length then (s, c.complete St.noResource result)
      else if !s.okRange p dst d.length true [0, 3] then refuse s c St.address
      else (s.anyWrite p dst (s.dumpNow x d), c.complete St.ok result)
    | _, _ => refuse s c St.badState

def execDumpFetch (src : CmdSrc) : State → Res := hubWork (cmdRow 0xA0 (fun _ => true) dumpFetchCmd src)

/-- The settings in the layout of the body's bits [143:128]. -/
def Partition.recoverySettings (P : Partition) : Nat := pack [(0, 1, b2n P.noReplay), (1, 6, P.hangLog2), (15, 1, b2n P.notify)]

def recoveryPolicyCmd (s : State) (c : Cmd) : CmdRes :=
  let p := srcPart c.src
  let h := bits c.slot 134 129
  if h ≠ 0 ∧ (h < 20 ∨ 40 < h) then refuse s c St.badField
  else
    (s.modPart p fun P => { P with notify := bit c.slot 143, hangLog2 := h, noReplay := bit c.slot 128 },
     c.complete St.ok (s.part p).recoverySettings)

def execRecoveryPolicy (src : CmdSrc) : State → Res := engines (cmdRow 0xA1 (fun _ => true) recoveryPolicyCmd src)

/-! ### Shutdown (R474) -/

/-- The partition refuses new work, and the command waits. -/
def shutdownPrepareCmd (s : State) (c : Cmd) : CmdRes :=
  (s.modPart (srcPart c.src) fun P => { P with refusing := true }, { c with phase := .waiting })

def execShutdownPrepare (src : CmdSrc) : State → Res := engines (cmdRow 0xB0 (fun w => !bit w 129) shutdownPrepareCmd src)

/-- `TIMEOUT_S` has passed. -/
def execShutdownPrepareTimeout (src : CmdSrc) : State → Res :=
  engines fun s =>
    match s.waitingCmd src fun c => decide (Slot.op c.slot = 0xB0) with
    | none => s
    | some c => s.putCmd (c.complete St.timeout 0)

def shutdownCancelCmd (s : State) (c : Cmd) : CmdRes :=
  (s.modPart (srcPart c.src) fun P => { P with refusing := false, prepared := false, prepSuspend := false }, c.complete St.ok 0)

def execShutdownCancel (src : CmdSrc) : State → Res := engines (cmdRow 0xB0 (fun w => bit w 129) shutdownCancelCmd src)

end Sys2Proof.Machine
end

