-- ==== Sys2Proof/Machine/Host.lean ====
section
/-! DEFINITION. Machine/Host.lean: the host ports: command rings (R416 to R426), MSI-X (R427), BAR2 (R428, R429), links,
resets and failed requests (R411 to R414, R431 to R433). -/

namespace Sys2Proof.Machine

/-! ### Functions (R413, R432, R435) -/

/-- A function is present: function 0 always, another one while its partition has it. -/
def State.fnHere (s : State) (h f : Nat) : Bool :=
  decide (f = 0) ||
  (decide (f ≤ 8) && decide ((s.part (f - 1)).port = h + 1) &&
    (decide ((s.part (f - 1)).st = .clearing) || decide ((s.part (f - 1)).st = .ready)))

/-- The function of a partition. -/
def State.fnOf (s : State) (p : Nat) : Func := s.func (s.part p).hostPort (p + 1)
def State.modFn (s : State) (p : Nat) (g : Func → Func) : State := s.modFunc (s.part p).hostPort (p + 1) g

/-- The BARs of a partition's function accept a request; `tee`: within its IDE stream and with the TEE bit set. -/
def State.barOpen (s : State) (p : Nat) (tee : Bool) : Bool :=
  decide ((s.part p).port ≠ 0) && s.fnHere (s.part p).hostPort (p + 1) &&
  match (s.part p).tdi with
  | 0 => true
  | 1 => true
  | 2 => tee
  | _ => false

/-- A function answers a request with Unsupported Request: its AER status says so (R411, R435, log 97); one that is not there
answers the same and holds nothing (R414). -/
def State.unsupported (s : State) (p : Nat) : State :=
  let P := s.part p
  if P.port ≠ 0 ∧ s.fnHere P.hostPort (p + 1) then
    s.modFn p fun g => { g with aer := if g.aer.testBit 20 then g.aer else g.aer + 2 ^ 20 }
  else s

/-! ### Ring control (R417, R418) -/

/-- Commands taken from the ring that have not completed. -/
def State.taken (s : State) (p : Part) (r : RingIx) : Bool := s.cmds.any fun c => decide (c.src = .ring p r)

def State.draining (s : State) (p : Part) (r : RingIx) : Bool := !(s.ring p.val r.val).enable && s.taken p r

/-- The 64-byte control entry as it reads. -/
def Ring.entry (R : Ring) (draining : Bool) : Nat :=
  pack [(448, 64, R.cqBase), (440, 4, R.cqLog2), (435, 5, R.msixVec), (384, 32, R.expected), (352, 32, R.written),
    (320, 32, R.consumed), (288, 32, R.badQuotes), (2, 1, b2n R.overrun), (1, 1, b2n draining), (0, 1, b2n R.enable)]

/-- Settings that a write of the entry places, each unless its value is invalid. -/
def Ring.configure (R : Ring) (w : Nat) : Ring :=
  { R with
    cqBase := if bits w 511 448 % 4096 = 0 then bits w 511 448 else R.cqBase
    cqLog2 := if bits w 443 440 ≤ 10 then bits w 443 440 else R.cqLog2
    msixVec := if bits w 439 435 ≤ 29 then bits w 439 435 else R.msixVec }

/-- `ENABLE` changes from 0 to 1: the ring starts afresh. -/
def Ring.started (R : Ring) : Ring :=
  { R with enable := true, expected := 1, window := [], written := 0, consumed := 0, overrun := false, overrunRec := none }

/-- Event records that ring 0 can take now leave (R445). -/
def State.ringEvents (s : State) (p : Part) (r : RingIx) : State := if r.val = 0 then s.flushEvents p.val 64 else s

def State.enableRing (s : State) (p : Part) (r : RingIx) : State :=
  if (s.ring p.val r.val).enable || s.taken p r then s else ((s.modRing p.val r.val Ring.started).backRing p.val r.val 0 (2 ^ 19)).ringEvents p r

def State.disableRing (s : State) (p : Part) (r : RingIx) : State := s.modRing p.val r.val fun R => { R with enable := false }

/-- A write of bytes of the control entry: settings first, then `ENABLE`. -/
def State.controlWrite (s : State) (p : Part) (r : RingIx) (off : Nat) (data : Bytes) : State :=
  let R := s.ring p.val r.val
  let w := leNat (splice (leBytes 64 (R.entry (s.draining p r))) off data)
  let s := s.addWork p.val 6 data.length
  let s := if R.enable || s.taken p r then s else s.modRing p.val r.val fun R => R.configure w
  if bit w 0 then s.enableRing p r else s.disableRing p r

/-! ### Command submission (R419 to R423, R426) -/

/-- A quote that the ring may accept. -/
def Ring.quoteOk (R : Ring) (w : Nat) : Bool :=
  decide ((bits w 95 64 + 2 ^ 32 - R.consumed) % 2 ^ 32 ≤ (R.written + 2 ^ 32 - R.consumed) % 2 ^ 32)

/-- The quote of a command that the ring takes: accepted, or counted in `BAD_QUOTES`. -/
def Ring.quote (R : Ring) (w : Nat) : Ring :=
  if !bit w 48 then R
  else if R.quoteOk w then { R with consumed := bits w 95 64 }
  else { R with badQuotes := satAdd 32 R.badQuotes 1 }

/-- The slot at `EXPECTED`. -/
def Ring.slot (R : Ring) : Nat := leNat (Mem.read R.window (128 * (R.expected % 4096)) 128)

/-- The ring looks at the slot at `EXPECTED`, at most `n` times: it takes its command, or on a full ring accepts its quote
alone. One that an overrun stopped takes nothing, and still accepts a quote while it is full (R422, R426). -/
def State.takeSlots (s : State) (p : Part) (r : RingIx) : Nat → State
  | 0 => s
  | n + 1 =>
    let R := s.ring p.val r.val
    let w := R.slot
    if !R.enable || decide (Slot.seq w ≠ R.expected) then s
    else
      let R := if !R.room && bit w 48 && R.quoteOk w then { R with consumed := bits w 95 64 } else R
      if !R.room || R.overrun then s.modRing p.val r.val fun _ => R
      else
        ((s.modRing p.val r.val fun _ => { R.quote w with expected := (R.expected + 1) % 2 ^ 32 }).takeCmd (.ring p r) w none).takeSlots p r n

/-- A write that reaches dword 0 of the slot at `EXPECTED` with a sequence a whole number of passes ahead (R422). -/
def Ring.overruns (R : Ring) (off n : Nat) : Bool :=
  let a := 128 * (R.expected % 4096)
  let d := (Slot.seq R.slot + 2 ^ 32 - R.expected) % 2 ^ 32
  R.enable && !R.overrun && overlaps (off, n) (a, 4) && decide (d ≠ 0) && decide (d % 4096 = 0) && decide (d < 2 ^ 31)

def State.slotWrite (s : State) (p : Part) (r : RingIx) (off : Nat) (data : Bytes) : State :=
  let s := (s.addWork p.val 6 data.length).modRing p.val r.val fun R => { R with window := Mem.write R.window off data }
  let s := s.modRing p.val r.val fun R =>
    if R.overruns off data.length then { R with overrun := true, overrunRec := some (Slot.op R.slot, Slot.tag R.slot) } else R
  ((s.backRing p.val r.val off data.length).takeSlots p r 4096).ringEvents p r

/-! ### BAR2 (R428, R429) -/

/-- The default size: the smallest of 1 GiB to 16 TiB that covers all of the partition's memory. -/
def State.bar2Default (s : State) (p : Nat) : Nat :=
  ((List.range 15).find? fun i => decide ((s.unitsOf p).length * unitBytes ≤ 2 ^ (30 + i))).getD 14 + 30

/-- Where an offset of a partition's BAR2 leads: an address of a unit that the partition has and that is not lent; none beyond
its memory, in a unit that is being cleared, and while memory is in self refresh (log 98). -/
def State.bar2Addr (s : State) (p off : Nat) : Option Nat :=
  match (s.unitsOf p)[off / unitBytes]? with
  | none => none
  | some u =>
    if !s.powered ∨ (s.memUnit u).st ≠ .owned ∨ (s.memUnit u).lent.isSome then none else some (unitBase u + off % unitBytes)

/-- A write is taken; discarded and counted where it leads nowhere. -/
def State.bar2Write (s : State) (p off : Nat) (data : Bytes) : State :=
  match s.bar2Addr p off with
  | none => { s with badRequests := satAdd 32 s.badRequests 1 }
  | some a => ((s.addWork p 6 data.length).modWrite a data).raiseShards p [(a, data.length)]

/-! ### Writes of the hosts in order (R22, R26, R429, log 90) -/

def HostWrite.part : HostWrite → Nat
  | .bar2 p _ _ => p.val
  | .slot p _ _ _ => p.val
  | .control p _ _ _ => p.val
  | .ring p _ _ => p.val

/-- The partition's carved memory is within reach, as it is where every unit is. -/
def State.carveReached (s : State) (p : Nat) : Bool :=
  (s.unitsOf p).all (fun u => s.hubReaches (unitBase u)) || (s.carved p).all s.hubReaches

/-- Nothing holds a write: slots lie in the partition's carved memory and BAR2 leads to its units, and a change of mode, or a
hub link that failed, holds either. -/
def State.hostReaches (s : State) : HostWrite → Bool
  | .bar2 p off _ => (s.bar2Addr p.val off).all s.hubWrites
  | .slot p _ _ _ => !s.memHeld && s.carveReached p.val
  | _ => true

def State.applyWrite (s : State) : HostWrite → State
  | .bar2 p off data => s.bar2Write p.val off data
  | .slot p r off data => s.slotWrite p r off data
  | .control p r off data => s.controlWrite p r off data
  | .ring p r on => if on then s.enableRing p r else s.disableRing p r

/-- Writes are carried out in order, up to the first that something holds: those left, and the state. -/
def State.drainWrites : List HostWrite → State → List HostWrite × State
  | [], s => ([], s)
  | w :: l, s => if s.hostReaches w then State.drainWrites l (s.applyWrite w) else (w :: l, s)

/-- The writes that a port holds drain. -/
def State.drainPort (s : State) (h : Nat) : State :=
  let r := State.drainWrites (s.pciPort h).held s
  r.2.modPci h fun q => { q with held := r.1 }

/-- A write of a host arrives: carried out at once, or held behind what its port holds. -/
def State.hostPut (s : State) (w : HostWrite) : State :=
  let h := (s.part w.part).hostPort
  if (s.pciPort h).held.isEmpty && s.hostReaches w then s.applyWrite w
  else (s.modPci h fun q => { q with held := q.held ++ [w] }).drainPort h

/-- A write at the function of its partition. -/
def hostWriteRow (w : HostWrite) (tee : Bool) : State → Res :=
  fabric fun s => if s.barOpen w.part tee then s.hostPut w else s.unsupported w.part

def execRingEnable (p : Part) (r : RingIx) (tee : Bool) : State → Res := hostWriteRow (.ring p r true) tee
def execRingDisable (p : Part) (r : RingIx) (tee : Bool) : State → Res := hostWriteRow (.ring p r false) tee

def execRingControlWrite (p : Part) (r : RingIx) (off : Nat) (data : Bytes) (tee : Bool) (s : State) : Res :=
  if 64 < off + data.length then .fault (.malformed "RING_CONTROL_WRITE") else hostWriteRow (.control p r off data) tee s

def execSlotWrite (p : Part) (r : RingIx) (off : Nat) (data : Bytes) (tee : Bool) (s : State) : Res :=
  if 2 ^ 19 < off + data.length then .fault (.malformed "SLOT_WRITE") else hostWriteRow (.slot p r off data) tee s

/-- Beyond the aperture the function does not claim the request. -/
def execBar2Write (p : Part) (off : Nat) (data : Bytes) (tee : Bool) (s : State) : Res :=
  if 4096 < off % 4096 + data.length then .fault (.malformed "BAR2_WRITE")
  else if s.barOpen p.val tee && decide (2 ^ (s.fnOf p.val).bar2Log2 ≤ off) then fabric id s
  else hostWriteRow (.bar2 p off data) tee s

/-! ### Completion (R421 to R426, R433) -/

/-- The record of the oldest command of the ring leaves it. -/
def State.dropCmd (s : State) (c : Cmd) : State := { s with cmds := s.cmds.filter fun y => decide (y.id ≠ c.id) }

/-- Write a record and send the ring's message. -/
def State.ringRecord (s : State) (p : Part) (r : RingIx) (w : Nat) : State :=
  (s.putRecord p.val r.val w).msix (s.part p.val).hostPort (p.val + 1) (s.ring p.val r.val).msixVec

/-- The oldest command of the ring has completed: its record is written where there is room; a disabled ring discards one
that finds none. After every taken command the record of an overrun follows. -/
def State.complete (s : State) (p : Part) (r : RingIx) : State :=
  let R := s.ring p.val r.val
  match s.cmds.find? fun c => decide (c.src = .ring p r) with
  | some c =>
    if c.phase ≠ .done then s
    else if c.noRecord || (!R.enable && !R.room) then s.dropCmd c
    else if R.room then
      (s.dropCmd c).ringRecord p r (recordWord (Slot.seq c.slot) c.status (Slot.op c.slot) (Slot.tag c.slot) c.result r.val)
    else s
  | none =>
    match R.overrunRec with
    | none => s
    | some (op, tag) =>
      let t := s.modRing p.val r.val fun R => { R with overrunRec := none }
      if R.room then t.ringRecord p r (recordWord R.expected St.ringOverrun op tag 0 r.val)
      else if R.enable then s else t

def execCompletionRecord (p : Part) (r : RingIx) : State → Res :=
  fabric fun s => ((s.complete p r).ringEvents p r).takeSlots p r 4096

/-- The period of a vector ends; where records were written during it, one further message goes out (R427). -/
def execMsixPeriodEnd (h : HPort) (f : Fn) (v : Fin 32) : State → Res :=
  fabric fun s =>
    let x := Tbl.get {} (s.func h.val f.val).vecs v.val
    let put (y : Vec) := s.modFunc h.val f.val fun g => { g with vecs := Tbl.set {} g.vecs v.val y }
    if !x.running then s
    else if !x.again then put { x with running := false }
    else if x.masked then put { x with running := false, again := false, pending := true }
    else (put { x with again := false }).out (.msix h f.val v.val)

/-- A vector is masked, or unmasked: one that is unmasked sends what it has pending (R427). No row of the table writes the
MSI-X table (log 22). -/
def State.maskVec (s : State) (h f v : Nat) (m : Bool) : State :=
  let x := Tbl.get {} (s.func h f).vecs v
  let put (y : Vec) := s.modFunc h f fun g => { g with vecs := Tbl.set {} g.vecs v y }
  if m then put { x with masked := true }
  else if x.pending then (put { x with masked := false, pending := false }).msix h f v
  else put { x with masked := false }

/-- A table entry as it reads: address, data, and the mask in bit 0 of the vector control. -/
def Vec.entry (x : Vec) : Nat := pack [(0, 64, x.addr), (64, 32, x.data), (96, 1, b2n x.masked)]

/-- A write of bytes of a vector's entry of the MSI-X table. -/
def State.vecWrite (s : State) (h f v off : Nat) (data : Bytes) : State :=
  let w := leNat (splice (leBytes 16 (Tbl.get {} (s.func h f).vecs v).entry) off data)
  let s := s.modFunc h f fun g =>
    { g with vecs := Tbl.upd {} g.vecs v fun x => { x with addr := bits w 63 2 * 4, data := bits w 95 64 } }
  s.maskVec h f v (bit w 96)

/-! ### Size of BAR2 (R428) -/

/-- Host software sets the size; a locked TDI's configuration is frozen. -/
def execBar2Resize (p : Part) (log2 : Nat) : State → Res :=
  fabric fun s =>
    let P := s.part p.val
    if P.port = 0 ∨ !s.fnHere P.hostPort (p.val + 1) ∨ P.tdi = 1 ∨ P.tdi = 2 ∨ log2 < 30 ∨ 44 < log2 then s
    else s.modFn p.val fun g => { g with bar2Log2 := log2 }

/-! ### Configuration, link and reset (R412, R414, R432, R433, R608) -/

/-- Outcome of a configuration request: 0 ready, 1 Request Retry Status, 2 Unsupported Request. -/
def execConfigRequest (h : HPort) (f : Nat) : State → Res :=
  fabric fun s => s.out (.config h f (if !s.fnHere h.val f then 2 else if s.power.ready then 0 else 1))

/-- A rate, as `PCI_LINK_STATE` codes it, a width and a FLIT mode that a link can settle at (R411, R412). -/
def pciLinkOk (rate width : Nat) (flit : Bool) : Bool :=
  decide (1 ≤ rate) && decide (rate ≤ 6) && [1, 2, 4, 8, 16].contains width && (flit || decide (rate ≠ 6)) && (!flit || decide (5 ≤ rate))

/-- The widest link that the lanes of a host port allow, but for those that self-test found bad: hub analogue places
48 + 16 × port + lane (R591, log 77). -/
def State.widthAllowed (s : State) (h : Nat) : Nat :=
  let bad (n : Nat) : Bool := s.bist.faults.any fun f => decide (f.1 = 50) && decide (48 + 16 * h ≤ f.2) && decide (f.2 < 48 + 16 * h + n)
  if !bad 16 then 16 else if !bad 8 then 8 else if !bad 4 then 4 else if !bad 2 then 2 else 1

def execPciLinkUp (h : HPort) (rate width : Nat) (flit : Bool) : State → Res :=
  fabric fun s =>
    if (s.pciPort h.val).perst || !pciLinkOk rate width flit || decide (s.widthAllowed h.val < width) then s
    else s.modPci h.val fun q => { q with rate := rate, width := width, flit := flit }

def execPerst (h : HPort) : State → Res :=
  fabric fun s => s.modPci h.val fun q => { q with perst := false }

def DeXfer.fail (t : DeXfer) (cause : Nat) : DeXfer := { t with cause := cause }

/-- Host memory that a failed transfer was writing is undefined (R254). -/
def State.hostUndefined (s : State) (p : Nat) (ts : List DeXfer) : State :=
  (ts.flatMap fun t => t.sides.2.filter inWindow).foldl (fun s r => s.anyHavoc p r.1 r.2) s

/-- Transfers of a partition with an access in flight fault with cause 0x45 (R433). -/
def State.cutTransfers (s : State) (p : Nat) : State :=
  let hits (moving : Bool) (t : DeXfer) : Bool := decide (t.part s = p) && t.hostInFlight moving
  let cut := s.des.flatMap fun e => (e.2.active.filter (hits true)).toList ++ e.2.waiting.filter (hits false)
  let mark (moving : Bool) (t : DeXfer) : DeXfer := if hits moving t then t.fail 0x45 else t
  { s.hostUndefined p cut with
    des := Tbl.mapAll {} (fun _ E => { E with active := E.active.map (mark true), waiting := E.waiting.map (mark false) }) s.des }

/-- A reset of a partition's function (R433, R534). -/
def State.resetFn (s : State) (p : Nat) : State :=
  let s := s.cutTransfers p
  let maps := (s.part p).maps
  let hit := s.cmds.filter fun c => decide (srcPart c.src = p) && maps.any c.copiesThrough
  let s := hit.foldl (fun s c => s.failCopy c St.address) s
  let ofRing (c : Cmd) : Bool := match c.src with | .ring q _ => decide (q.val = p) | .mgmt _ => false
  let s := { s with cmds := s.cmds.map fun c => if ofRing c then { c with noRecord := true } else c }
  let s := s.modPart p fun P => { P with
    maps := []
    rings := Tbl.mapAll {} (fun _ R => { R with enable := false, overrunRec := none }) P.rings
    tdi := if P.tdi = 1 ∨ P.tdi = 2 then 3 else P.tdi
    stopMute := decide (P.stopping ≠ 0) }
  (s.modPci (s.part p).hostPort fun q => { q with held := q.held.filter fun w => decide (w.part ≠ p) }).modFn p
    fun g => { g with vecs := [], bar2Log2 := s.bar2Default p }

def execFlr (p : Part) : State → Res :=
  fabric fun s => if (s.part p.val).port ≠ 0 ∧ s.fnHere (s.part p.val).hostPort (p.val + 1) then s.resetFn p.val else s

/-- A reset of a port function: its MSI-X state is reset, and it owns nothing else (R411, R433). -/
def State.resetPortFn (s : State) (h : Nat) : State := s.modFunc h 0 fun g => { g with vecs := [] }

/-- A hot reset or link-down: the same for every function of the port. -/
def execLinkDown (h : HPort) : State → Res :=
  fabric fun s =>
    let ps := (List.range 8).filter fun p => s.fnHere h.val (p + 1)
    let s := ps.foldl State.resetFn s
    (s.resetPortFn h.val).modPci h.val fun q => { q with rate := 0, width := 0, flit := false, ide := false }

/-- What the command whose turn it is writes to host memory beside a copy: its effect and its destination (R462, R470, R472). -/
def State.hostRecord (s : State) (c : Cmd) : Option ((State → Cmd → CmdRes) × Nat × Nat) :=
  let w := c.slot
  match Slot.op w with
  | 0x52 => some (syncReadCmd, SCmd.addr w, 128)
  | 0x81 => some (watchReadCmd, blockAddr w, bits w 351 336 * WBlk.recSize (watchKind w))
  | 0xA0 => some (dumpFetchCmd, blockAddr w, ((s.ctx (Slot.ctx w)).dump.getD []).length)
  | _ => none

/-- The host fails the write of such a command: it completes with `HOST_ERROR`, and the destination is undefined. -/
def State.failRecord (s : State) (src : CmdSrc) : State :=
  match s.turn src with
  | none => s
  | some c =>
    match s.hostRecord c with
    | none => s
    | some (f, a, n) =>
      let r := f s c
      if s.underRecovery c ∨ a / 2 ^ 56 ≠ 3 then s
      else if r.2.phase = .done ∧ r.2.status = St.ok then (r.1.anyHavoc (srcPart src) a n).putCmd (c.complete St.hostError 0)
      else r.1.putCmd r.2

/-- A request to a host fails: that of the DE's transfer with an access in flight, or of the source's copy or of its command
(R431). -/
def execHostCompletionTimeout (who : HostReq) : State → Res :=
  engines fun s =>
    match who with
    | .de c =>
      match (s.de c.val).active.filter (·.hostInFlight true), (s.de c.val).waiting.find? (·.hostInFlight false) with
      | some t, _ => (s.hostUndefined (t.part s) [t]).modDe c.val fun E => { E with active := some (t.fail 0x45) }
      | none, some t =>
        (s.hostUndefined (t.part s) [t]).modDe c.val fun E => { E with waiting := modFirst (·.hostInFlight false) (·.fail 0x45) E.waiting }
      | none, none => s
    | .cmd src =>
      match s.waitingCmd src fun c => c.copiesThrough { winOff := 0, len := 2 ^ 48, host := 0, rd := true, wr := true } with
      | none => s.failRecord src
      | some c => s.failCopy c St.hostError

end Sys2Proof.Machine
end

