-- ==== Sys2Proof/Machine/Security.lean ====
section
/-! DEFINITION. Machine/Security.lean: partitions (R513 to R521), SPDM and TDISP (R524 to R535), security states and debug
(R536 to R546). An operation of the dictionary answers a status (R488) and the state after it. -/

namespace Sys2Proof.Machine

/-- The outcome of a dictionary operation. -/
abbrev DictRes := Nat × State

def deny (s : State) (status : Nat) : DictRes := (status, s)

/-! ### Keys (R531, R534) -/

/-- Erase the keys of a partition's function; a locked TDI enters ERROR. -/
def State.eraseKeys (s : State) (p : Nat) : State :=
  (s.modFn p fun g => { g with spdm := [], ideKeyed := false }).modPart p fun P =>
    { P with tdi := if P.tdi = 1 ∨ P.tdi = 2 then 3 else P.tdi }

/-- The keys of every partition function. -/
def State.eraseAllKeys (s : State) : State :=
  s.keepSeq (((List.range 8).filter fun p => decide ((s.part p).port ≠ 0)).foldl State.eraseKeys s)

/-! ### Creating and destroying (R514 to R521) -/
namespace PRec
def part (w : Nat) : Nat := bits w 511 504
def clusters (w : Nat) : Nat := bits w 503 472
def units (w d : Nat) : Nat := bits w (447 + 8 * d) (440 + 8 * d)
def ranges (w d : Nat) : Nat := bits w (418 + 7 * d) (412 + 7 * d)
def port (w : Nat) : Nat := bits w 411 410
def debug (w : Nat) : Bool := bit w 409
end PRec

/-- Free units of a die, lowest first. -/
def State.freeUnits (s : State) (d : Nat) : List Nat := (span (155 * d) 155).filter fun u => decide ((s.memUnit u).st = .free)

/-- Free object ranges of a die, lowest first. -/
def State.freeRanges (s : State) (d : Nat) : List Nat := (span (64 * d) 64).filter fun k => s.parts.all fun P => !P.2.syncRanges.testBit k

def maskOf (l : List Nat) : Nat := l.foldl (fun m k => m + 2 ^ k) 0

/-- The refusal of a create record (R517, R614). -/
def State.createRefusal (s : State) (rec : Bytes) : Option Nat :=
  let w := leNat rec
  let dies := List.range 4
  let taken := (List.range 32).any fun k => (PRec.clusters w).testBit k &&
    (s.rel.withdrawn.testBit k || s.parts.any fun P => P.2.clusters.testBit k)
  if !s.power.ready ∨ !s.powered then some St.notReady
  else if rec.length ≠ 64 ∨ 7 < PRec.part w ∨ PRec.clusters w = 0 ∨ PRec.port w = 3 ∨ bits w 408 0 ≠ 0 ∨
      dies.any (fun d => decide (155 < PRec.units w d) || decide (64 < PRec.ranges w d)) then some St.badField
  else if (s.part (PRec.part w)).st ≠ .free ∨ taken ∨ s.power.shutTarget ≠ 0 ∨ s.power.toState.isSome then some St.badState
  else if dies.any fun d => decide ((s.freeUnits d).length < PRec.units w d) || decide ((s.freeRanges d).length < PRec.ranges w d) then
    some St.badState
  else none

/-- Resources are assigned, the partition is CLEARING, its function appears, and its units start to clear. -/
def State.createPart (s : State) (w : Nat) : State :=
  let p := PRec.part w
  let us := (List.range 4).flatMap fun d => (s.freeUnits d).take (PRec.units w d)
  let ks := (List.range 4).flatMap fun d => (s.freeRanges d).take (PRec.ranges w d)
  let P : Partition :=
    { st := .clearing, rcd := w, clusters := PRec.clusters w, syncRanges := maskOf ks, port := PRec.port w, debug := PRec.debug w
      tdi := if PRec.port w = 0 then 4 else 0 }
  let s := s.setPart p P
  let s := s.enterClearing us fun x => { x with part := p, toOwned := true }
  let s := if P.port = 0 then s else
    ((s.modFunc P.hostPort (p + 1) fun _ => { bar2Log2 := s.bar2Default p }).out (.function (hport P.hostPort) (p + 1) true)).msix P.hostPort 0 31
  s.settleReady p

def State.partCreate (s : State) (rec : Bytes) : DictRes :=
  match s.createRefusal rec with
  | some st => deny s st
  | none => (St.ok, s.createPart (leNat rec))

/-- Commands of a partition end without a record (R476); one of the station is answered ABORTED (R512). -/
def State.dropCmds (s : State) (p : Nat) : State :=
  let mine (c : Cmd) : Bool := decide (srcPart c.src = p)
  let one (s : State) (c : Cmd) : State :=
    match c.reply with
    | none => if c.isMgmt then s.out (.reply 0 0 0x02 St.aborted []) else s
    | some (k, rid) => s.reply k rid 0x02 St.aborted []
  let gone := s.cmds.filter mine
  gone.foldl one { s with cmds := s.cmds.filter fun c => !mine c }

/-- Every context of a partition is destroyed as CTX_DESTROY destroys it. -/
def State.destroyCtxs (s : State) (p : Nat) : State :=
  (s.ctxs.filter fun c => decide (c.2.part = p) && decide (c.2.st ≠ .none) && decide (c.2.st ≠ .destroying)).foldl
    (fun s c => s.beginDestroy c.1) s

/-- Peers with a session of the partition that is not CLOSED. -/
def State.peersOf (s : State) (p : Nat) : List Nat :=
  nub ((s.fab.sessions.filter fun x => decide (sessPart x.1 = p)).map fun x => sessPeer x.1)

/-- Destroy a partition in the order of R519. -/
def State.destroyPart (s : State) (p : Nat) : State :=
  let P := s.part p
  let s := s.modPart p fun P => { P with st := .destroying, traceBytes := 0, peers := [], voidPeers := [], cmdExpected := 1, stopping := 0 }
  let s := if P.port = 0 then s else (s.out (.function (hport P.hostPort) (p + 1) false)).msix P.hostPort 0 31
  let s := (s.dropCmds p).abortServices p
  let s := s.modPci P.hostPort fun q => { q with held := q.held.filter fun w => decide (w.part ≠ p) }
  let s := s.destroyCtxs p
  let s := (s.peersOf p).foldl (fun s m => s.closePair p m) s
  let s := if P.port = 0 then s else s.eraseKeys p
  let s := { s with mem := { s.mem with
    units := Tbl.mapAll {} (fun _ (x : MemUnit) => if x.part = p ∧ x.st = UnitSt.clearing then { x with toOwned := false, lent := none, revoking := false } else x) s.mem.units } }
  s.settlePart p

def State.partDestroy (s : State) (v : Nat) : DictRes :=
  if 7 < v then deny s St.badField
  else if (s.part v).st = .free ∨ (s.part v).st = .destroying then deny s St.badState
  else (St.ok, s.destroyPart v)

/-! ### Measurements (R528) -/

/-- The configuration record of a partition. -/
def Partition.config (P : Partition) : Bytes :=
  leBytes 64 (putField (putField P.rcd 472 32 P.clusters) 409 1 (b2n P.debug))

/-- The security record. -/
def State.securityRecord (s : State) : Bytes :=
  leBytes 16 (pack [(0, 8, s.sec.state), (8, 8, s.debugLevel), (16, 8, maskOf ((List.range 8).filter fun p => (s.part p).debug))])

/-- The active parameter image, signature included; empty where none is active. -/
def State.activeImage (s : State) : Bytes :=
  match s.mgmt.active with
  | some 0 => s.mgmt.slot0.data
  | some _ => s.mgmt.slot1.data
  | none => []

/-- Measurement `ix`; none where function `f` has no such index. -/
def State.measurement (s : State) (f ix : Nat) : Option Bytes :=
  match ix with
  | 1 => some (pad 64 Config.romDigest)
  | 2 => some (pad 64 (Config.sha3 s.activeImage))
  | 3 => some s.securityRecord
  | 4 => if f = 0 then none else some (pad 64 (Config.sha3 (s.part (f - 1)).config))
  | _ => none

/-! ### SPDM (R434, R526, R527, R529, R530) -/

/-- A request over the DOE mailbox of a function that is present and ready. -/
def doe (h : HPort) (f : Fn) (g : State → State) : State → Res :=
  fabric fun s => if s.fnHere h.val f.val ∧ s.power.ready then g s else s

/-- The algorithms and capabilities of the module, and no others (R527). -/
def spdmAlgs : List SpdmAlg := [.sha3x512, .mlDsa87, .mlKem1024, .aes256Gcm]
def spdmCaps : List SpdmCap := [.cert, .chal, .measSig, .keyEx, .mutAuth, .encrypt, .mac, .keyUpd]

/-- A requester that offers none of the algorithms receives an error response, and until one is agreed so do its requests that
need one (log 123). -/
def execNegotiateAlgorithms (h : HPort) (f : Fn) (supported : Bool) : State → Res :=
  doe h f fun s =>
    let s := (s.modFunc h.val f.val fun g => { g with noAlgs := !supported }).out (.spdm h f 1 supported [])
    if supported then s.out (.spdmProfile h f spdmAlgs spdmCaps) else s

/-- Slot 0 holds the Vangok chain, slot 1 the site certificate where there is one. -/
def State.certSlot (s : State) (slot : Nat) : Option Bytes :=
  if slot = 0 then some Config.deviceCert else if slot = 1 ∧ s.sec.siteCert ≠ [] then some s.sec.siteCert else none

def execGetCertificate (h : HPort) (f : Fn) (slot : Nat) : State → Res :=
  doe h f fun s => s.out (.spdm h f 2 (s.certSlot slot).isSome ((s.certSlot slot).getD []))

/-- A request of code `req` that uses the algorithms of the profile; an error response where none is agreed. -/
def algReq (h : HPort) (f : Fn) (req : Nat) (g : State → State) : State → Res :=
  doe h f fun s => if (s.func h.val f.val).noAlgs then s.out (.spdm h f req false []) else g s

/-- The response carries a signature by the device key. -/
def execChallenge (h : HPort) (f : Fn) (slot : Nat) : State → Res :=
  algReq h f 3 fun s =>
    match s.certSlot slot with
    | none => s.out (.spdm h f 3 false [])
    | some c => s.out (.spdm h f 3 true (Config.sign c))

/-- The measurement, signed. -/
def execGetMeasurements (h : HPort) (f : Fn) (ix : Nat) : State → Res :=
  algReq h f 4 fun s =>
    match s.measurement f.val ix with
    | none => s.out (.spdm h f 4 false [])
    | some m => s.out (.spdm h f 4 true (m ++ Config.sign m))

/-- A session opens, at most four per function; it may carry IDE_KM and TDISP messages where the requester authenticated
itself by a chain that ends at a device anchor. -/
def execKeyExchange (h : HPort) (f : Fn) (mutAuth anchored : Bool) : State → Res :=
  algReq h f 5 fun s =>
    if 4 ≤ (s.func h.val f.val).spdm.length then s.out (.spdm h f 5 false [])
    else (s.modFunc h.val f.val fun g => { g with spdm := g.spdm ++ [mutAuth && anchored] }).out (.spdm h f 5 true [])

/-- A session of a function that may carry IDE_KM and TDISP messages. -/
def State.trusted (s : State) (h f k : Nat) : Bool := ((s.func h f).spdm[k]?).getD false

/-- Function 0 keys the link stream of its port, a partition function its own selective stream. -/
def execIdeKm (h : HPort) (f : Fn) (session : Nat) : State → Res :=
  doe h f fun s =>
    if !s.trusted h.val f.val session then s.out (.spdm h f 6 false [])
    else
      let s := s.modFunc h.val f.val fun g => { g with ideKeyed := true }
      (if f.val = 0 then s.modPci h.val fun q => { q with ide := true } else s).out (.spdm h f 6 true [])

/-! ### TDISP (R532 to R535) -/

/-- A TDISP request to a partition's function, in a session that may carry one; otherwise an error response. -/
def tdisp (p : Part) (session req : Nat) (ok : State → Bool) (g : State → State) : State → Res :=
  fabric fun s =>
    let P := s.part p.val
    if P.port = 0 ∨ !s.fnHere P.hostPort (p.val + 1) ∨ s.power.ready = false then s
    else if s.trusted P.hostPort (p.val + 1) session && ok s then g s
    else s.out (.tdisp p req false)

/-- All conditions of R532. -/
def State.mayLock (s : State) (p : Nat) : Bool :=
  let P := s.part p
  decide (P.tdi = 0) && decide (2 ≤ s.sec.state) && (s.fnOf p).ideKeyed && !P.debug && decide (s.debugLevel ≠ 2) && decide (P.st = .ready)

/-- The memory ranges that the device interface report of a TDI lists: BAR0 and BAR2 of its function (R532). -/
def State.tdiRanges (s : State) (p : Nat) : List (Nat × Nat) := [(0, 2 ^ 26), (2, 2 ^ (s.fnOf p).bar2Log2)]

/-- The TDI is locked, and its device interface report is there to be read. -/
def execLockInterface (p : Part) (session : Nat) : State → Res :=
  tdisp p session 0 (fun s => s.mayLock p.val) fun s =>
    ((s.modPart p.val fun P => { P with tdi := 1 }).out (.tdisp p 0 true)).out (.tdiReport p (s.tdiRanges p.val))

def execStartInterface (p : Part) (session : Nat) : State → Res :=
  tdisp p session 1 (fun s => decide ((s.part p.val).tdi = 1)) fun s => (s.modPart p.val fun P => { P with tdi := 2 }).out (.tdisp p 1 true)

/-- Checkpoints end, contexts are destroyed with their policies and watches, host maps go, and the units clear. -/
def execStopInterface (p : Part) (session : Nat) : State → Res :=
  tdisp p session 2 (fun s => decide ((s.part p.val).stopping = 0) && decide ((s.part p.val).st = .ready)) fun s =>
    let s := (s.abortServices p.val).destroyCtxs p.val
    (s.modPart p.val fun P => { P with maps := [], stopping := 1, stopMute := false }).settlePart p.val

def execIdeIntegrityFailure (p : Part) : State → Res :=
  fabric fun s =>
    if (s.part p.val).tdi = 1 ∨ (s.part p.val).tdi = 2 then s.modPart p.val fun P => { P with tdi := 3 } else s

/-! ### Security states (R511, R526, R536 to R538) -/

/-- A write of `SEC_STATE_REQ`; a first write of 3 in ATTESTED waits 10 s for the second. -/
def State.secWrite (s : State) (v : Nat) : DictRes :=
  let put (x : Nat) (t : Option Nat) (s : State) : State := { s with sec := { s.sec with state := x, lockReqUs := t } }
  let st := s.sec.state
  if v = 0 ∨ 3 < v then (St.badField, put st none s)
  else if v = 1 ∧ st = 2 then (St.ok, put 1 none s.eraseAllKeys)
  else if v = 2 ∧ st = 1 ∧ s.debugLevel ≠ 2 then (St.ok, put 2 none s)
  else if v = 3 ∧ st = 2 then
    if s.sec.lockReqUs.any fun t => decide (s.clockUs ≤ t + 10000000) then (St.ok, put 3 none s) else (St.ok, put 2 (some s.clockUs) s)
  else (St.badState, put st none s)

def siteKeyBytes : Nat := 2592

/-- `SIGNER` of an image (R507). -/
def imageSigner (bs : Bytes) : Nat := bits (leNat (slice bs 0 64)) 399 392

/-- A write of `MGMT_SITE_KEY`: all zeros removes the key. The first key opens an UNPROVISIONED module, and the removal of
the last returns it there. -/
def State.siteKeyWrite (s : State) (sub : Nat) (key : Bytes) : DictRes :=
  let zero := key.all (· = 0)
  if key.length ≠ siteKeyBytes then deny s St.badField
  else if 2 ≤ s.sec.state ∨ (zero ∧ s.mgmt.active.isSome ∧ imageSigner s.activeImage = sub) then deny s St.badState
  else
    let ks := Tbl.set [] s.mgmt.siteKeys sub (if zero then [] else key)
    (St.ok, { s with
      mgmt := { s.mgmt with siteKeys := ks }
      sec := { s.sec with state := if ks.isEmpty then 0 else 1 } })

/-- A part of `SEC_SITE_CERT`. -/
def State.siteCertWrite (s : State) (off : Nat) (data : Bytes) : DictRes :=
  if 8192 < off + data.length then deny s St.badField
  else if 2 ≤ s.sec.state then deny s St.badState
  else (St.ok, { s with sec := { s.sec with siteCert := splice s.sec.siteCert off data } })

/-! ### Debug (R539 to R546) -/

def State.debugWrite (s : State) (p v : Nat) : DictRes :=
  if 1 < v then deny s St.badField
  else if (s.part p).st = .free ∨ (s.part p).tdi = 1 ∨ (s.part p).tdi = 2 then deny s St.badState
  else (St.ok, s.modPart p fun P => { P with debug := decide (v = 1) })

/-- A new challenge, drawn at random (R544). -/
def State.drawChallenge (s : State) : State :=
  { s with sec := { s.sec with challenge := freeBytes s.free 32 }, free := s.free + 32 }

/-- Length and header of a token (R543). -/
def State.tokenOk (s : State) (t : Bytes) : Bool :=
  let w := leNat (slice t 0 64)
  decide (t.length = 4691) && decide (bits w 511 480 = 0x44424755) && decide (bits w 479 472 = 2) && decide (bits w 471 448 = 0) &&
  decide (bits w 63 0 = 0) && decide (bits w 447 320 = leNat Config.identSerial) && decide (bits w 319 64 = leNat (pad 32 s.sec.challenge))

/-- A token is checked, and a new challenge drawn; an accepted one erases keys and enters D2, a rejected one counts. -/
def State.tokenWrite (s : State) (t : Bytes) (sigOk : Bool) : DictRes :=
  let status :=
    if 2 ≤ s.sec.state ∨ 4 ≤ s.sec.tokenFails then St.badState
    else if !s.tokenOk t then St.badField
    else if !sigOk then St.noPermission
    else St.ok
  let s := s.drawChallenge
  if status = St.ok then (status, { s.eraseAllKeys with sec := { s.sec with token := t, unlocked := true } })
  else (status, { s with sec := { s.sec with token := t, tokenFails := satAdd 8 s.sec.tokenFails 1 } })

/-- The logic that the debug header has on its scan chains (R546, R547). -/
def State.scanChains (s : State) : ScanChains :=
  if s.debugLevel ≠ 2 then .none
  else if s.power.state ≤ 1 then .full
  else if s.power.state = 2 then .hub
  else .hubAux

/-- Code of an instruction of the debug header: 0 BYPASS, 1 IDCODE, others are the rest of the instruction set. D2 offers
every one; at D0 and D1 one that is not offered acts as BYPASS. What an instruction's data registers shift is stated nowhere
(log 43). -/
def execDebugHeaderInstruction (ins : Nat) (s : State) : Res :=
  if !s.auxOn then .next s
  else .next (s.out (.jtag (if 2 ≤ ins ∧ s.debugLevel ≠ 2 then 0 else ins) s.scanChains))

end Sys2Proof.Machine
end

