-- ==== Sys2Proof/Machine/Power.lean ====
section
/-! DEFINITION. Machine/Power.lean: power states and their transitions (R599 to R605, R609, R614, R615), operating modes
(R24 to R29), clocks and thermal and power limits (R603, R610 to R613). The start-up timeline stands in
Machine/StartUp.lean, after the dictionary that it loads. -/

namespace Sys2Proof.Machine

/-! ### What a loss of power leaves (R205, R283, R292, R495, R521, R596) -/

/-- Place of a sub-channel, keeping what the sparing record holds. -/
def SubCh.recorded (x : SubCh) : SubCh := { x with ce := 0, newUe := false }

/-- The sparing record in flash. -/
def DieMem.recorded (d : DieMem) : DieMem :=
  { d with subch := Tbl.mapAll {} (fun _ x => x.recorded) d.subch, clearQ := [], clearing := none }

/-- A port without power. -/
def Port.unpowered (p : Port) : Port := { plugged := p.plugged, lowPower := p.lowPower }

/-- What the dictionary reads of the dies is kept as they lose power (R512). -/
def State.keepShown (s : State) : State :=
  let v : Shown := { clusters := s.power.clusters, ftTest := s.rel.ftTest, dies := s.mem.dies }
  { s with shown := if s.powered then some v else s.shown }

/-- The same for the parts of the hub. -/
def State.keepHubShown (s : State) : State :=
  let put (v : Shown) : Shown := { v with fab := s.fab, pci := s.pci, ports := s.parts.map fun P => (P.1, P.2.port) }
  { s with shown := if s.hubOn then s.shown.map put else s.shown }

/-- A field test that a loss of power ends leaves its slot a healthy spare: the spec gives such a test no outcome (log 91). -/
def State.testsEnded (s : State) : Table Nat :=
  Tbl.mapAll slotMapReset (fun _ m => (List.range 9).foldl (fun m i => if slotCode m i = 9 then setSlot m i 8 else m) m) s.rel.slotMap

/-- The compute dies lose their power: engines, queues, objects and on-die memories are gone; what is being tested or
moved ends. -/
def State.diesOff (s : State) : State :=
  let s := s.keepShown
  { s with
    queues := []
    mes := []
    ses := []
    des := []
    tandem := 0
    bankFlight := []
    gated := 0
    mem := { s.mem with cells := s.mem.cells.filter fun c => decide (c.1 < 2 ^ 56), bad := s.mem.bad.filter fun g => decide (g < 2 ^ 56) }
    rel := { s.rel with recoveries := [], migrations := [], retirePend := [], ftTest := none, slotMap := s.testsEnded }
    power := { s.power with modeChange := none, modeQueued := none, modeDeferred := none, peakOn := false, clusters := [] } }

/-- The hub's main logic and the memory lose their power too: no partition, session, command or link is left. -/
def State.mainOff (s : State) : State :=
  let s := s.diesOff
  let s := s.keepHubShown
  { s with
    sync := {}
    mem := { s.mem with cells := [], bad := [], units := [], dies := Tbl.mapAll {} (fun _ d => d.recorded) s.mem.dies }
    fab := { s.fab with
      ports := Tbl.mapAll {} (fun _ p => p.unpowered) s.fab.ports
      linkMap := []
      sessions := []
      openQ := []
      openRetry := []
      assembly := []
      rx := [] }
    pci := Tbl.mapAll {} (fun _ q => { q with rate := 0, width := 0, flit := false, ide := false, held := [] }) s.pci
    funcs := []
    cmds := []
    ctxs := []
    parts := []
    power := { s.power with keptObjs := [], ready := false, toState := none, startStep := none, shutTarget := 0, shutSecs := 0 } }

/-- A burn that is cut short uses up its bank, and its repairs stay in the soft record (R594). -/
def BistSt.burnLost (b : BistSt) : BistSt :=
  match b.burning with
  | some x => { b with burning := none, fuseUsed := Tbl.upd 0 b.fuseUsed x.1 (· + 1) }
  | none => b

/-- What is left in P4: flash, fuses, the one-time store and the meter; every other register is as at reset. -/
def State.cold (s : State) : State :=
  let s := s.mainOff
  { State.reset with
    pending := s.pending
    free := s.free
    clockUs := s.clockUs
    outbox := s.outbox
    meter := s.meter
    mem := { cells := [], host := s.mem.host, dies := s.mem.dies, trainStored := s.mem.trainStored, trainLast := s.mem.trainLast }
    fab := { ports := s.fab.ports }
    pci := s.pci
    mgmt := { slot0 := s.mgmt.slot0, slot1 := s.mgmt.slot1, siteKeys := s.mgmt.siteKeys }
    sec := { state := s.sec.state, siteCert := s.sec.siteCert }
    rel := { State.reset.rel with
      strikes := s.rel.strikes, margin := s.rel.margin, slotMap := s.rel.slotMap, withdrawn := s.rel.withdrawn
      cperCount := s.rel.cperCount, cper := s.rel.cper }
    bist := { s.bist.burnLost with budgetMs := 30000, running := none, testOver := false, ranNow := [] }
    power := { presN := s.power.presN, absent := s.power.absent, mv := s.power.mv, overVolt := s.power.overVolt, lastStop := s.power.lastStop } }

/-- An abrupt loss of power (R596, R601). -/
def State.powerLoss (s : State) : State :=
  if s.power.hotSwap then
    { s with bist := { s.bist with stale := true }, power := { s.power with lastStop := 1 } }.cold
  else s

/-! ### The input (R599 to R602) -/

/-- The soft start begins: time 0 of the timeline (R607). -/
def State.softStart (s : State) : State :=
  { s with power := { s.power with hotSwap := true, absent := false, overVolt := false, startStep := some 0, startFrom := 4 } }

/-- The input lies between the turn-on thresholds. -/
def turnOn (mv : Nat) : Bool := decide (48000 < mv) && decide (mv < 61000)

def execPowerOn (mv : Nat) : State → Res :=
  anyTime fun s =>
    if s.power.hotSwap ∨ s.power.absent = false ∨ !turnOn mv then s
    else ({ s with power := { s.power with presN := false, mv := mv } }).softStart

def execPresNHigh : State → Res :=
  anyTime fun s =>
    let s := s.powerLoss
    { s with power := { s.power with presN := true, absent := true, mv := 0 } }

def execInputUndervoltage : State → Res :=
  anyTime fun s =>
    let s := s.powerLoss
    { s with power := { s.power with absent := true, mv := 0 } }

/-- Above 62.0 V the module turns off; below 61.0 V it turns on again. -/
def execInputOvervoltage (mv : Nat) : State → Res :=
  anyTime fun s =>
    if 62000 < mv then
      let s := s.powerLoss
      { s with power := { s.power with absent := true, overVolt := true, mv := mv } }
    else if s.power.overVolt ∧ s.power.presN = false ∧ turnOn mv then ({ s with power := { s.power with mv := mv } }).softStart
    else s

/-- `WAKE_N` low for 10 ms: the module leaves P4 where its input is there. -/
def execWakeN : State → Res :=
  anyTime fun s =>
    if s.power.state = 4 ∧ s.power.hotSwap = false ∧ s.power.presN = false ∧ s.power.absent = false ∧ turnOn s.power.mv then s.softStart
    else s

/-! ### Operating modes (R26 to R29, R512, R615) -/

/-- A start of the timeline is under way, or the dies are off. -/
def State.notRunning (s : State) : Bool := s.power.startStep.isSome || !s.powered

/-- Engine recovery, context suspension or a shutdown defers a mode change. -/
def State.modeHeld (s : State) : Bool :=
  !s.rel.recoveries.isEmpty || s.power.toState.isSome || s.ctxs.any fun c => decide (c.2.st = .suspending)

/-- Begin a change where the mode differs. -/
def State.beginMode (s : State) (v : Nat) : State :=
  if v = s.power.mode then s else { s with power := { s.power with modeChange := some (0, v) } }

/-- Change to the last value written, or defer the change while something holds it (R28). -/
def State.tryMode (s : State) (v : Nat) : State :=
  let t : State := { s with power := { s.power with modeQueued := none, modeDeferred := none } }
  if s.modeHeld then { t with power := { t.power with modeDeferred := some v } } else t.beginMode v

def State.modeWrite (s : State) (v : Nat) : DictRes :=
  if 2 < v then deny s St.badField
  else
    let s := { s with power := { s.power with modeReg := v } }
    (St.ok,
      if s.notRunning then s
      else if s.power.modeChange.isSome then { s with power := { s.power with modeQueued := some v, modeDeferred := none } }
      else s.tryMode v)

/-- No engine holds an operation: instructions already issued have completed. -/
def State.enginesIdle (s : State) : Bool :=
  s.mes.all (fun e => e.2.ops.all fun o => s.heldUp e.1 o) &&
  s.ses.all (fun e => e.2.ops.all fun o => decide (o.phase ≠ .ran)) && s.des.all fun e => e.2.active.isNone && e.2.shadow.isNone

/-- The phases of a mode change: issue stops, engines drain, controllers and PLLs switch, issue resumes and held writes
drain; then a change queued behind it. -/
def execModeChangeStep : State → Res :=
  hub fun s =>
    let put (c : Option (Nat × Nat)) (s : State) : State := { s with power := { s.power with modeChange := c } }
    match s.power.modeChange with
    | none => s
    | some (0, v) => put (some (1, v)) s
    | some (1, v) => if s.enginesIdle then put (some (2, v)) s else s
    | some (2, v) => { s with power := { s.power with modeChange := some (3, v), mode := v } }
    | some (_, _) =>
      let s := ((put none s).drainPort 0).drainPort 1
      match s.power.modeQueued with
      | none => s
      | some v => s.tryMode v

def execDeferredModeChange : State → Res :=
  hub fun s =>
    match s.power.modeDeferred with
    | none => s
    | some v =>
      if s.modeHeld || s.notRunning || s.power.modeChange.isSome then s
      else s.tryMode v

/-! ### Leaving service (R583, R588, R589, R604, R605, R614) -/

/-- No partition is left. -/
def State.allFree (s : State) : Bool := s.parts.all fun P => decide (P.2.st = .free)

/-- The module enters P3: auxiliary logic and the meter stay on. -/
def State.standby (s : State) (stop : Nat) : State :=
  let s := s.mainOff
  { s with power := { s.power with state := 3, rails := 3, lastStop := stop } }

/-- The module enters P4: the hot-swap stage opens. -/
def State.switchedOff (s : State) : State := ({ s with power := { s.power with lastStop := 0 } }).cold

/-- The last step of an orderly entry to P3 or P4, once a commit has released the flash (R512). -/
def State.finishEntry (s : State) : State :=
  if s.mgmt.committing then s
  else
    let s := { s with bist := { s.bist with testOver := false } }
    if s.power.toState = some 4 then s.switchedOff else s.standby 0

/-- `AGE` of a slice that did not run rises, up to 65,535 (R590). -/
def ageEntry (w : Nat) : Nat := putField w 48 16 (satAdd 16 (bits w 63 48) 1)

/-- The end of a shutdown's self-test: the slices that did not run grow older. -/
def BistSt.aged (b : BistSt) : Table Nat :=
  (List.range 51).foldl (fun t i => if b.ranNow.contains i then t else Tbl.upd 0 t i ageEntry) b.results

/-- Self-test begins once every partition is gone; a shutdown with a skip request has none. -/
def State.beginSelfTest (s : State) : State :=
  match s.power.toState with
  | some t =>
    if t < 3 ∨ s.bist.running.isSome ∨ s.bist.testOver ∨ !s.allFree then s
    else if s.bist.skipNext then
      let b := { s.bist with ranNow := [] }
      { s with bist := { b with results := b.aged, skipNext := false, testOver := true, slicesRun := 0, lastMs := 0 } }.finishEntry
    else
      { s with bist := { s.bist with
          running := some (s.bist.cursor, 0, 0, if s.bist.fullNext then none else some s.bist.budgetMs)
          fullNext := false
          ranNow := [] } }
  | none => s

/-- Entry to P3 or P4: every partition is destroyed, and then self-test runs. Out of P2 the dies stay off, and the module
leaves at once. -/
def State.leave (s : State) (t : Nat) : State :=
  let s := { s with power := { s.power with toState := some t, shutTarget := 0, shutSecs := 0 } }
  let ps := (s.parts.filter fun P => decide (P.2.st = .clearing) || decide (P.2.st = .ready)).map (·.1)
  let s : State := s.keepSeq (ps.foldl State.destroyPart s)
  if s.power.state = 2 then { s with parts := [] }.finishEntry else s.beginSelfTest

/-- Objects of a partition whose images go to its memory: those that are allocated, but for suspended contexts' own, which are
in their save areas (R205). -/
def State.keptOf (s : State) (p : Nat) : List Nat :=
  (s.sync.objs.filter fun o => decide (o.2.kind ≠ .free) && decide (o.2.part = p) && decide ((s.ctx o.2.ctx).st ≠ .suspended)).map (·.1)

/-- The images of a partition's objects, 128 bytes per object, beside its ring windows (R205). -/
def State.keepImages (s : State) (p : Nat) : State :=
  let bs := (s.keptOf p).flatMap fun o => (s.obj o).bytes
  s.carveWrite p (2 ^ 23) bs.length fun b m => Mem.write m (b + 2 ^ 23) bs

/-- Entry to P2: allocated objects are kept in module memory, memory is in self refresh, the dies are off. Signals that the hub has
raised and that wait for a suspended context, and the grants of its services, stay with it (R205, log 94). -/
def State.retain (s : State) : State :=
  let s := (List.range 8).foldl State.keepImages s
  let s := { s with power := { s.power with keptObjs := s.sync.objs, shutTarget := 0, shutSecs := 0 } }
  let s := { s with sync := { s.sync with objs := [], flight := [] } }.diesOff
  { s with power := { s.power with state := 2, rails := 31 } }

/-- Every partition that exists is prepared as the target asks. -/
def State.prepared (s : State) (t : Nat) : Bool :=
  s.parts.all fun P => decide (P.2.st = .free) || (P.2.prepared && (P.2.prepSuspend || decide (t ≠ 2)))

/-- A transition is in progress. -/
def State.moving (s : State) : Bool := s.power.toState.isSome || s.power.startStep.isSome

/-- A wake follows the timeline from the hub main rails (P3), or from the die rails (P2). -/
def State.wake (s : State) : State :=
  { s with power := { s.power with
      toState := some 0, startFrom := s.power.state, startStep := some (if s.power.state = 3 then 2 else 7) } }

/-- A write of `PWR_STATE`: a write of 1 has `BAD_FIELD`, every other refused write `BAD_STATE` (R604). -/
def State.stateWrite (s : State) (v : Nat) : DictRes :=
  if v = 1 then deny s St.badField
  else if 4 < v ∨ s.moving then deny s St.badState
  else if v = 0 then
    if s.power.state = 2 ∨ (s.power.state = 3 ∧ s.mgmt.recovery = false) then (St.ok, s.wake) else deny s St.badState
  else if v = 2 then
    if s.powered ∧ s.prepared 2 then (St.ok, s.retain) else deny s St.badState
  else if s.power.state ≤ 2 ∧ s.prepared v then (St.ok, s.leave v)
  else deny s St.badState

/-- A pending request enters its state as soon as R604 allows it. -/
def State.tryShutdown (s : State) : State :=
  if s.power.shutTarget = 0 ∨ s.moving ∨ !s.prepared s.power.shutTarget then s
  else if s.power.shutTarget = 2 then (if s.powered then s.retain else s)
  else s.leave s.power.shutTarget

/-- A write of `PWR_SHUTDOWN_REQ` gives every partition notice; a second one replaces it. -/
def State.shutdownReq (s : State) (v : Nat) : DictRes :=
  let t := bits v 18 16
  let n := bits v 15 0
  if 2 ^ 19 ≤ v ∨ t < 2 ∨ 4 < t ∨ n = 0 ∨ 3600 < n then deny s St.badField
  else if s.moving ∨ 2 < s.power.state then deny s St.badState
  else
    let s := { s with power := { s.power with shutTarget := t, shutSecs := n, shutFrom := s.clockUs } }
    let ps := (s.parts.filter fun P => decide (P.2.st ≠ .free)).map (·.1)
    (St.ok, (s.keepSeq (ps.foldl (fun s p => s.event p 0x05 n) s)).tryShutdown)

/-- The notice expires: P3 or P4 is entered regardless, a request for P2 lapses. -/
def execShutdownNoticeExpiry : State → Res :=
  hub fun s =>
    if s.power.shutTarget = 0 then s
    else if s.power.shutTarget = 2 ∨ s.moving then { s with power := { s.power with shutTarget := 0, shutSecs := 0 } }
    else s.leave s.power.shutTarget

/-- What the module does of its own in a microsecond without a command: sparing copies go on (R280), checkpoints take their next
steps (R399), the acknowledgements that are due are sent (R325), a pending shutdown whose partitions are prepared is entered, and
one whose partitions are gone goes on. -/
def State.idle (s : State) : State :=
  let t := { s.copiesOn.ckptsOn.acksOn (s.clockUs + 1) with clockUs := s.clockUs + 1 }
  { (if t.bist.testOver then t.finishEntry else t.tryShutdown.beginSelfTest) with pending := s.pending, clockUs := t.clockUs, meter := s.meter }

/-! ### Clocks (R603, R610 to R613) -/

/-- A hub service, a transfer or a collective round is at work. -/
def State.hubBusy (s : State) : Bool :=
  s.parts.any (fun P => P.2.ckpt.isSome || !P.2.restores.isEmpty || P.2.insts.any (fun x => decide (x.phase ≠ .trigger)) ||
    P.2.policies.any (fun x => x.slots.any fun j => decide (j.2 = .copying) || decide (j.2 = .restoring)) ||
    P.2.watches.any fun w => !w.scanning.isEmpty) ||
  !s.cmds.isEmpty || s.des.any (fun e => e.2.active.isSome || e.2.shadow.isSome || !e.2.waiting.isEmpty) || !s.fab.rx.isEmpty

/-- Code of the power state as `PWR_STATE` reads (R602, R603). -/
def State.stateCode (s : State) : Nat :=
  if s.power.state = 0 ∧ s.gated = 2 ^ 32 - 1 ∧ !s.hubBusy then 1 else s.power.state

def execClusterClockGate (k : Clu) : State → Res :=
  engines fun s => if s.clusterBusy k.val || s.gated.testBit k.val then s else { s with gated := s.gated + 2 ^ k.val }

/-- Throttle steps in force on a cluster. -/
def ClusterSt.steps (c : ClusterSt) : Nat := min 15 (c.step + c.peak + c.cap)

/-- Steps that a change of a cluster takes: at step 15 no further one is (R610). -/
def stepsTaken (f : ClusterSt → ClusterSt) (c : ClusterSt) : Nat := (f c).steps - c.steps

/-- Count throttle steps taken. -/
def State.countSteps (s : State) (n : Nat) : State :=
  { s with power := { s.power with throttleEvents := satAdd 32 s.power.throttleEvents n } }

/-- Change clusters alike, and count the steps that this takes. -/
def State.stepClusters (s : State) (ks : List Nat) (f : ClusterSt → ClusterSt) : State :=
  (ks.foldl (fun s k => s.modCluster k f) s).countSteps (ks.map fun k => stepsTaken f (s.cluster k)).sum

/-- Change every cluster. -/
def State.eachCluster (s : State) (f : ClusterSt → ClusterSt) : State := s.stepClusters (List.range 32) f

/-- A command of the clocks and limits: it occurs while the dies are on. -/
def clocks (f : State → State) : State → Res := hub fun s => if s.powered then f s else s

def execThrottleStepDown (k : Clu) (temp : Nat) : State → Res :=
  clocks fun s =>
    if temp < 95 then s
    else s.stepClusters [k.val] fun c => { c with temp := temp, step := if c.steps < 15 then c.step + 1 else c.step }

def execThrottleStepUp (k : Clu) (temp : Nat) : State → Res :=
  clocks fun s => if 90 < temp then s else s.modCluster k.val fun c => { c with temp := temp, step := c.step - 1 }

/-- The estimate of input power against `PWR_CAP_W`: one step more on every cluster while it passes the cap, one step less
once it does not. -/
def execPowerCapStep (watts : Nat) : State → Res :=
  clocks fun s =>
    if s.power.capW ≠ 0 ∧ s.power.capW < watts then s.eachCluster fun c => { c with cap := min 15 (c.cap + 1) }
    else s.eachCluster fun c => { c with cap := c.cap - 1 }

def execPeakLimit (watts : Nat) : State → Res :=
  clocks fun s =>
    if watts ≤ 2400 ∨ s.power.peakOn then s
    else
      let s := s.eachCluster fun c => { c with peak := 4 }
      { s with power := { s.power with peakOn := true } }

/-- The mode whose clocks and power hold: Lean while self-test runs (R584). -/
def State.ratesOf (s : State) : Nat := if s.bist.running.isSome then 2 else s.power.mode

/-- Sustained figure of R24, or `PWR_CAP_W` where lower. -/
def State.sustained (s : State) : Nat :=
  let w := match s.ratesOf with | 0 => 2000 | 1 => 1700 | _ => 1300
  if s.power.capW = 0 then w else min w s.power.capW

def execPeakRelease (avg : Nat) : State → Res :=
  clocks fun s =>
    if s.power.peakOn = false ∨ s.sustained < avg then s
    else
      let s := s.eachCluster fun c => { c with peak := 0 }
      { s with power := { s.power with peakOn := false } }

/-- Current arithmetic clock of a cluster in MHz: the mode value, less 3.3 % for each throttle step and each clock step of
its margin (R24, R572, R610). -/
def State.clusterMhz (s : State) (k : Nat) : Nat :=
  let f := match s.ratesOf with | 0 => 3300 | 1 => 3000 | _ => 2400
  let n := (s.cluster k).steps + (s.marginOf k - 3)
  f * (30 - min 15 n) / 30

/-- A sensor at 110 °C: the die rails go, a failure record is written, and P3 is entered without self-test. -/
def execThermalTrip (k : Clu) (temp : Nat) : State → Res :=
  clocks fun s =>
    if temp < 110 then s
    else
      let s := s.cper { event := 0x000A, detail := pack [(0, 2, k.val / 8), (8, 8, temp), (16, 3, k.val % 8)], survives := false,
                        die := k.val / 8, cluster := k.val % 8, step := s.marginOf k.val }
      let ps := (s.parts.filter fun P => decide (P.2.st = .clearing) || decide (P.2.st = .ready)).map (·.1)
      let s : State := s.keepSeq (ps.foldl State.destroyPart s)
      -- the dies' fuses lose their power too
      { s with bist := { s.bist.burnLost with running := none, testOver := false } }.standby 2

end Sys2Proof.Machine
end

