-- ==== Sys2Proof/Machine/Recovery.lean ====
section
/-! DEFINITION. Machine/Recovery.lean: hang recovery and stalls (R551, R552, R556 to R564), the wait-cycle detector (R224,
R553 to R555), silent-error checks (R570), margining, field tests and migration (R571 to R577), and live registers (R581). -/

namespace Sys2Proof.Machine

/-! ### What an engine holds (R556, R557) -/

/-- An operation that an engine has accepted. -/
structure Kept where
  ctx : Nat
  qid : Nat
  pc : Nat
  seq : Nat
  ins : Nat

def State.kept (s : State) (c : Nat) (u : EngUnit) : List Kept :=
  match u with
  | .me => (s.me c).ops.map fun o => ⟨o.ctx, o.qid, o.pc, o.seq, o.ins⟩
  | .se => (s.se c).ops.map fun o => ⟨o.ctx, o.qid, o.pc, o.seq, o.ins⟩
  | .de => ((s.de c).active.toList ++ (s.de c).shadow.toList).map fun o => ⟨o.ctx, o.qid, o.pc, o.seq, o.ins⟩

/-- A flit of the message waits at a port of this module for a credit (R306). -/
def State.creditless (s : State) (m : FabMsg) : Bool :=
  s.fab.ports.any fun P => P.2.txq.any fun e => decide (e.1 = 0) && decide (e.2.type = 1) && decide (e.2.dst = m.dst) &&
    decide (e.2.spart = m.spart) && decide (e.2.vc = m.vc) && decide (e.2.sseq = m.sseq) && decide (Tbl.get 0 P.2.credits (bufKey e.2.vc e.2.dl) = 0)

/-- A transfer that a receiver's back-pressure, a session's window, fabric credit or an earlier one's bound completion holds
(R551). -/
def State.deHeld (s : State) (c : Nat) (t : DeXfer) : Bool :=
  let its (o : Outstanding) : Bool := o.de.any fun d => decide (d.1 = c) && decide (d.2.1 = t.qid) && decide (d.2.2.2 = t.seq)
  t.bankWait || (!t.started && (s.de c).waiting.any t.conflicts) ||
  s.fab.sessions.any fun x => x.2.waitq.any its || x.2.out.any fun o => its o && s.creditless o.msg

/-- The engine holds an operation of a context that `f` admits and that no other unit holds up (R551): not a held token, a
check, a wait for a token, a shadow transfer, or a transfer held at its receiver or in the fabric. -/
def State.atWork (s : State) (c : Nat) (u : EngUnit) (f : Nat → Bool) : Bool :=
  match u with
  | .me =>
    let e := s.me c
    let stopped := e.full || e.ops.any fun o => decide (o.phase = .checking)
    e.ops.any fun o => f o.ctx && decide (o.phase ≠ .tokenHeld) && decide (o.phase ≠ .checking) && !s.behindOutput c stopped o
  | .se => (s.se c).ops.any fun o => f o.ctx && decide (o.phase = .ran)
  | .de => (s.de c).active.any fun t => f t.ctx && !s.deHeld c t

def State.progressOf (s : State) (c : Nat) : EngUnit → Nat
  | .me => (s.me c).progress
  | .se => (s.se c).progress
  | .de => (s.de c).progress

/-- Insert into a list of rising numbers without repeats. -/
def insertUp (x : Nat) : List Nat → List Nat
  | [] => [x]
  | y :: l => if x < y then x :: y :: l else if x = y then y :: l else y :: insertUp x l

/-- Suspects of a hang in ascending order (R556). -/
def State.suspects (s : State) (c : Nat) (u : EngUnit) : List Nat :=
  ((s.kept c u).filter fun k => decide ((s.ctx k.ctx).st = .resident) || decide ((s.ctx k.ctx).st = .suspending)).foldr
    (fun k l => insertUp k.ctx l) []

/-! ### Replayable or not (R558) -/

/-- Some entry writes what it reads itself, or what an earlier one reads; entries as (reads, writes). -/
def clobbers {α : Type} (meet : α → α → Bool) : List (α × α) → List α → Bool
  | [], _ => false
  | (r, w) :: l, earlier => meet w r || earlier.any (meet w) || clobbers meet l (earlier ++ [r])

/-- Keys that an ME operation reads, epilogue included. -/
def State.meAllReads (s : State) (c : Nat) (o : MeOp) : List Nat :=
  s.meKeys c (s.meReads c o ++ if o.isMma && MRec.isOut o.rcd then s.epiReads c o.rcd else [])

/-- Ranges that a transfer reads, element by element, its block list among them; and those that it writes. -/
def State.xferRanges (s : State) (e : Nat) (t : DeXfer) : List (Nat × Nat) × List (Nat × Nat) :=
  let d := t.desc
  let els := elements d t.shape (s.readKeys (s.blockList e t))
  (elementReads d els ++ (if DRec.listed d then [(spadKey e (DRec.listAddr d), 16 * DRec.listLen d)] else []), elementWrites d els)

/-- The context's retained operations cannot be run again (R558). -/
def State.unreplayable (s : State) (c : Nat) (u : EngUnit) (x : Nat) : Bool :=
  match u with
  | .me =>
    let ops := (s.me c).ops.filter fun o => decide (o.ctx = x)
    clobbers meets (ops.map fun o => (s.meAllReads c o, s.meKeys c (s.meWrites c o))) [] ||
    (s.halves c).any fun h => (List.range 4).any fun b => (s.ctx x).banks.contains (c + h, b) && (s.bank (c + h) b).gotTransfer
  | .se =>
    let ops := (s.se c).ops.filter fun o => decide (o.ctx = x)
    clobbers meets (ops.map fun o => (s.seReadKeys c o.rcd (s.seParams c o.rcd), s.seWriteKeys c o.rcd (s.seParams c o.rcd))) []
  | .de =>
    let ops := ((s.de c).active.toList ++ (s.de c).shadow.toList).filter fun t => decide (t.ctx = x)
    ops.any (fun t => decide (3 ≤ DRec.op t.desc)) || clobbers rangesMeet (ops.map (s.xferRanges c)) []

/-! ### Freeze and thaw (R556) -/

def State.setFrozen (s : State) (x : Nat) (b : Bool) : State :=
  (s.ctx x).queues.foldl (fun s q => if (s.queue q).st = .faulted then s else s.modQueue q fun Q => { Q with frozen := b }) s

def Recovery.involves (r : Recovery) (x : Nat) : Bool := r.todo.contains x || decide (r.current = some x) || r.cleared.contains x

/-- Fault a suspect with cause 0x08 at the first operation that the engine retains of it; its dump is that of the freeze. -/
def State.faultSuspect (s : State) (r : Recovery) (ks : List Kept) (x kind : Nat) : State :=
  match ks.find? fun k => decide (k.ctx = x) with
  | none => s
  | some k =>
    let s := s.faultQueue k.qid
      { pc := k.pc, seq := k.seq, unit := 6, cause := 0x08, eng := Ins.eng k.ins,
        detail := detail08 kind (engCode r.unit) r.total (s.queue k.qid).seq } 1
    match r.dumps.find? fun d => decide (d.1 = x) with
    | some d => s.modCtx x fun c => { c with dump := some d.2 }
    | none => s

/-- A trace record of a recovery step in every partition concerned (R564). -/
def State.traceStep (s : State) (ps : List Nat) (c : Nat) (u : EngUnit) : State :=
  ps.foldl (fun s p => s.traceHub p 10 3 0 c 0 (engCode u)) s

/-! ### Reset and replay (R560 to R562) -/

/-- A transfer as it was accepted. -/
def DeXfer.again (t : DeXfer) : DeXfer :=
  { t with started := false, cause := 0, written := 0, clamps := 0, sat := false, nonfinite := false, remote := 0, reads := [], got := [],
           bankWait := false, ranges := [] }

/-- The messages of ended transfers are nobody's (R561). -/
def State.disown (s : State) (c : Nat) (ks : List Kept) : State :=
  let g (o : Outstanding) : Outstanding :=
    { o with de := o.de.filter fun d => !(decide (d.1 = c) && ks.any fun k => decide (k.qid = d.2.1) && decide (k.seq = d.2.2.2)) }
  { s with fab := { s.fab with sessions := Tbl.mapAll {} (fun _ x => { x with out := x.out.map g, waitq := x.waitq.map g }) s.fab.sessions } }

/-- The operation of the ME has written its output. -/
def MeOp.wrote (o : MeOp) : Bool := decide (o.phase = .tokenHeld) || decide (o.phase = .checking)

/-- The outputs of the operations in the engine, which their end leaves undefined (R561): of each its context, whether it had written
them and the re-issue writes them at once, and their keys. -/
def State.endedWrites (s : State) (c : Nat) (u : EngUnit) : List (Nat × Bool × List Nat) :=
  match u with
  | .me => (s.me c).ops.map fun o => (o.ctx, o.wrote, s.meKeys c (s.meWrites c o))
  | .se => (s.se c).ops.map fun o => (o.ctx, false, s.seWriteKeys c o.rcd (s.seParams c o.rcd))
  | .de => ((s.de c).active.toList ++ (s.de c).shadow.toList).map fun t => (t.ctx, false, (s.xferRanges c t).2.flatMap fun r => span r.1 r.2)

/-- An operation as the ME runs it again, without a check. -/
def MeOp.again (o : MeOp) : MeOp := { o with sampled := false }

/-- Tokens that operations of an SE held are discarded as it is reset, which frees their slots (R150). -/
def State.discardTokens (s : State) (e : Nat) (ops : List SeOp) : State :=
  let lead := s.leadOf e
  let held := ops.filter (·.slot)
  if held.isEmpty then s
  else
    (s.modMe lead fun m => { m with
      tokens := held.foldl (fun l o => dropFirst (fun t => t.taken && decide (o.token = some t.token)) l) m.tokens }).postHeld lead

/-- The engine is cleared; what R557 retains of it is in the recovery. -/
def State.clearEngine (s : State) (c : Nat) (u : EngUnit) : State :=
  match u with
  | .me => (s.halves c).foldl (fun s h => s.modMe (c + h) fun e => { e with ops := [], banks := [] }) s
  | .se => (s.discardTokens c (s.se c).ops).modSe c fun e => { e with ops := [] }
  | .de => s.modDe c fun e => { e with active := none, shadow := none }

/-- A bank rebuilt from its chain list: where the operand bytes have changed, its accumulators are undefined (R100). -/
def State.rebuilt (s : State) (c h k : Nat) (b : Bank) : Bank :=
  if s.holdKept c h b.chain then b
  else { b with accs := ((List.range b.accs.length).zip b.accs).map fun x => x.2.undefined (k + 8 * x.1) }

/-- Banks of which `f` holds return to the engine, rebuilt. -/
def State.restoreBanks (s : State) (c : Nat) (bs : Table Bank) (f : Nat × Nat → Bool) : State :=
  (bs.filter fun e => f (e.1 / 4, e.1 % 4)).foldl (fun s e =>
    ({ s with free := s.free + bankDraws }.setBank (e.1 / 4) (e.1 % 4) (s.rebuilt c (e.1 / 4 - c) s.free e.2)).meProgress c
      (if e.1 / 4 = c then e.2.rebuildSteps else 0)) s

/-- k steps and epilogue elements of an operation that runs again beside the rebuilding of its bank: its sums had left the bank,
or its output was written (R550, log 120). -/
def State.rerunSteps (s : State) (c : Nat) (o : MeOp) : Nat :=
  if o.isMma then
    (if o.wrote ∨ o.phase = .output then MRec.padded o.rcd else 0) + if o.wrote then 256 * (s.halves c).length else 0
  else 0

/-- An SE operation runs again on the tile of the token that it had taken; the slot is gone (R150). -/
def State.rerunSe (s : State) (c : Nat) (o : SeOp) : State :=
  let s := s.modSe c fun e => { e with ops := e.ops ++ [{ o with phase := if o.phase = .ran then .queued else o.phase }] }
  if o.phase = .ran then s.runSe c [] { o with phase := .queued } else s

/-- The suspect's retained operations enter the reset engine in acceptance order. -/
def State.reissue (s : State) (r : Recovery) (x : Nat) : State :=
  let c := r.core
  match r.unit with
  | .me =>
    let s := s.restoreBanks c r.banks fun b => (s.ctx x).banks.contains b
    let s := (r.outs.filter fun o => decide (o.1 = x)).foldl (fun s o => s.writeKeys o.2) s
    let ops := r.meOps.filter fun o => decide (o.ctx = x)
    let s := (s.modMe c fun e => { e with ops := e.ops ++ ops }).meProgress c ((ops.map (s.rerunSteps c)).foldl (· + ·) 0)
    -- an abandoned check is over, and its operation completes as R105 and R107 state
    (((ops.filter fun o => decide (o.phase = .checking)).foldl (fun s o => s.finishMe c o) s).postHeld c).enterStage c
  | .se => (r.seOps.filter fun o => decide (o.ctx = x)).foldl (fun s o => s.rerunSe c o) s
  | .de =>
    match (r.deOps.filter fun t => decide (t.ctx = x)).map DeXfer.again with
    | [] => s
    | t :: l =>
      -- one that must wait for an earlier one's bound completion starts after it
      let s := s.modDe c fun e => { e with active := some t, shadow := l.head? }
      if (s.de c).waiting.any t.conflicts then s else s.startXfer c []

def State.recovery (s : State) (c : Nat) (u : EngUnit) : Option Recovery :=
  s.rel.recoveries.find? fun r => decide (r.core = c) && decide (r.unit = u)

def State.putRecovery (s : State) (r : Recovery) : State :=
  { s with rel := { s.rel with recoveries := s.rel.recoveries.map fun y => if y.core = r.core ∧ y.unit = r.unit then r else y } }

/-- Every suspect has been dealt with (R562 to R564): the cleared ones resume unless another recovery holds them; where
none was guilty, the hang is the hardware's. -/
def State.endRecovery (s : State) (r : Recovery) : State :=
  let s := { s with rel := { s.rel with recoveries := s.rel.recoveries.filter fun y => !(decide (y.core = r.core) && decide (y.unit = r.unit)) } }
  let s := r.cleared.foldl (fun s x =>
    if s.rel.recoveries.any fun y => y.involves x then s
    else
      let s := s.setFrozen x false
      if (s.part (s.ctx x).part).notify then s.event (s.ctx x).part 0x02 x else s) s
  if r.guilty = 0 ∧ r.cleared ≠ [] then
    let k := clusterOf r.core
    let slot := s.slotOf r.core
    (s.strike k slot).cperSlot k slot { event := 0x0001, detail := r.total, lcore := r.core, unit := engCode r.unit }
  else s

/-- The next suspect is replayed alone, in ascending order; one of two recoveries waits for both resets. -/
def State.nextSuspect (s : State) (r : Recovery) : State :=
  if r.resetting ∨ r.current.isSome then s
  else if r.todo.isEmpty then s.endRecovery r
  else
    let blocked (x : Nat) : Bool := s.rel.recoveries.any fun y =>
      !(decide (y.core = r.core) && decide (y.unit = r.unit)) && y.resetting && y.involves x
    match r.todo.find? fun x => !blocked x with
    | none => s
    | some x => (s.putRecovery { r with todo := r.todo.filter (· ≠ x), current := some x }).reissue r x

/-- Every recovery goes on where it can. -/
def State.advanceRecoveries (s : State) : State :=
  s.rel.recoveries.foldl (fun s r => match s.recovery r.core r.unit with | some y => s.nextSuspect y | none => s) s

/-! ### A hang (R551, R556) -/

/-- Steps 1 to 3 of a recovery: freeze, dump, and the reset begins; suspects that cannot be replayed fault. -/
def State.startRecovery (s : State) (c : Nat) (u : EngUnit) : State :=
  let ks := s.kept c u
  let xs := s.suspects c u
  let s := xs.foldl (fun s x => s.setFrozen x true) s
  let why : DumpWhy := { trigger := 1, cause := 0x08, lcore := c, unit := engCode u, progress := s.progressOf c u, gone := s.engSections c u }
  let dumps := ((List.range xs.length).zip xs).map fun i => (i.2, { s with free := s.free + i.1 }.dump i.2 why)
  let s := { s with free := s.free + xs.length }
  let kind (x : Nat) : Nat := if (s.part (s.ctx x).part).noReplay then 3 else if s.unreplayable c u x then 2 else 0
  let bad := (xs.map fun x => (x, kind x)).filter fun y => decide (y.2 ≠ 0)
  let ended := s.endedWrites c u
  let sampled := if u = .me then ((s.me c).ops.filter (·.sampled)).length else 0
  let r : Recovery :=
    { core := c, unit := u, todo := xs.filter fun x => decide (kind x = 0), total := xs.length
      parts := nub (xs.map fun x => (s.ctx x).part)
      meOps := if u = .me then (s.me c).ops.map MeOp.again else []
      seOps := if u = .se then (s.se c).ops.map fun o => { o with slot := false } else []
      deOps := if u = .de then (s.de c).active.toList ++ (s.de c).shadow.toList else []
      banks := if u = .me then (s.halves c).flatMap fun h => (s.me (c + h)).banks.map fun b => (4 * (c + h) + b.1, b.2) else []
      dumps := dumps
      outs := (ended.filter (·.2.1)).map fun e => (e.1, e.2.2.zip (s.readKeys e.2.2)) }
  let s := ended.foldl (fun s e => s.havocWritten e.2.2) s
  let s := (s.disown c ks).clearEngine c u
  let s := { s with rel := { s.rel with
    recoveries := s.rel.recoveries ++ [r]
    hangs := satAdd 32 s.rel.hangs 1
    jaySkipped := (s.rel.jaySkipped + sampled) % 2 ^ 64 } }
  bad.foldl (fun s y => s.faultSuspect r ks y.1 y.2) (s.traceStep r.parts c u)

/-- The engine hangs again while a suspect is replayed: that suspect is guilty (R562). What stands in the engine for
suspects already cleared is rebuilt with the reset, so it stays. -/
def State.guilty (s : State) (r : Recovery) (x : Nat) : State :=
  let c := r.core
  let ks := s.kept c r.unit
  let s := s.disown c (ks.filter fun k => decide (k.ctx = x))
  let s := match r.unit with
    | .me =>
      let s : State := s.modMe c fun e => { e with ops := e.ops.filter fun o => decide (o.ctx ≠ x) }
      let hs := (s.halves c).map (c + ·)
      (s.ctx x).banks.foldl (fun (s : State) (b : Nat × Nat) => if hs.contains b.1 then s.setBank b.1 b.2 {} else s) s
    | .se => (s.discardTokens c ((s.se c).ops.filter fun o => decide (o.ctx = x))).modSe c fun e => { e with ops := e.ops.filter fun o => decide (o.ctx ≠ x) }
    | .de => s.clearEngine c .de
  let s := (s.putRecovery { r with resetting := true, current := none, guilty := r.guilty + 1 }).faultSuspect r ks x 0
  s.traceStep [(s.ctx x).part] c r.unit

/-- A context with an operation in the engine is being suspended, and the window does not run (R551). -/
def State.suspendsAt (s : State) (c : Nat) (u : EngUnit) : Bool := (s.kept c u).any fun k => decide ((s.ctx k.ctx).st = .suspending)

def execHangDetected (c : Core) (u : EngUnit) : State → Res :=
  engines fun s =>
    if s.power.modeChange.isSome then s
    else
      match s.recovery c.val u with
      | none => if s.suspendsAt c.val u = false ∧ (s.atWork c.val u fun _ => true) then s.startRecovery c.val u else s
      | some r =>
        match r.current with
        | some x => if r.resetting = false ∧ s.atWork c.val u (fun y => decide (y = x)) then s.guilty r x else s
        | none => s

/-- The reset is done (R560): banks of contexts that are no suspects, or cleared, are rebuilt, and the replays begin. -/
def execEngineResetDone (c : Core) (u : EngUnit) : State → Res :=
  engines fun s =>
    match s.recovery c.val u with
    | none => s
    | some r =>
      if r.resetting then
        let later (b : Nat × Nat) : Bool := r.todo.any fun x => (s.ctx x).banks.contains b
        let live (b : Nat × Nat) : Bool := s.ctxs.any fun y =>
          (decide (y.2.st = .resident) || decide (y.2.st = .suspending)) && y.2.banks.contains b
        let s := s.restoreBanks c.val r.banks fun b => !later b && live b
        let s := s.putRecovery { r with resetting := false, banks := r.banks.filter fun e => later (e.1 / 4, e.1 % 4) }
        (s.traceStep r.parts c.val u).advanceRecoveries
      else s

/-- The suspect's operations in the engine have all completed, but for what another unit holds up: held tokens and what stands
behind them, and waits for tokens. -/
def State.replayDone (s : State) (c : Nat) (u : EngUnit) (x : Nat) : Bool :=
  match u with
  | .me => (s.me c).ops.all fun o => decide (o.ctx ≠ x) || s.heldUp c o
  | .se => (s.se c).ops.all fun o => decide (o.ctx ≠ x) || decide (o.phase ≠ .ran)
  | .de => (s.de c).active.all (fun t => decide (t.ctx ≠ x)) && (s.de c).shadow.all fun t => decide (t.ctx ≠ x)

/-- The operations of the suspect under replay have all completed; a suspect that another fault took is passed over. -/
def execSuspectCleared (c : Core) (u : EngUnit) : State → Res :=
  engines fun s =>
    match s.recovery c.val u with
    | none => s
    | some r =>
      match r.current with
      | none => s.advanceRecoveries
      | some x =>
        if !s.replayDone c.val u x then s
        else (s.putRecovery { r with current := none, cleared := r.cleared ++ [x] }).advanceRecoveries

/-! ### Stalls (R552) -/

/-- The context waits on an object declared external (R223). -/
def State.waitsOutside (s : State) (q : Nat) : Bool := (s.queue q).wait.any fun w => (s.obj w.op.obj).prodDecl && (s.obj w.op.obj).prodExt

/-- A round, checkpoint, restore, off-load copy or watch scan of the context is at work. -/
def State.serviceAtWork (s : State) (x : Nat) : Bool :=
  let P := s.part (s.ctx x).part
  P.insts.any (fun i => decide (i.ctx = x) && decide (i.phase ≠ .trigger)) ||
  P.ckpt.any (fun k => decide (CBlk.ctx k.blk = x)) || P.restores.any (fun k => decide (CBlk.ctx k.blk = x)) ||
  P.policies.any (fun y => decide (y.ctx = x) && y.slots.any fun j => decide (j.2 = .copying) || decide (j.2 = .restoring)) ||
  P.watches.any fun y => decide (WBlk.ctx y.blk = x) && !y.scanning.isEmpty

def State.stalled (s : State) (x : Nat) : Bool :=
  let qs := (s.ctx x).queues
  let held : Bool := (s.mes.any fun e => e.2.ops.any fun o => decide (o.ctx = x)) || (s.ses.any fun e => e.2.ops.any fun o => decide (o.ctx = x)) ||
    s.des.any fun e => e.2.active.any (fun t => decide (t.ctx = x)) || e.2.shadow.any fun t => decide (t.ctx = x)
  decide ((s.ctx x).st = .resident) && qs.any (fun q => decide ((s.queue q).st = .waiting)) &&
  qs.all (fun q => decide ((s.queue q).st ≠ .running) && decide ((s.queue q).st ≠ .ending)) && !held && !s.serviceAtWork x &&
  !qs.any (fun q => decide ((s.queue q).st = .waiting) && s.waitsOutside q) && !s.rel.recoveries.any fun r => r.involves x

/-- Record a fault in each of a context's queues, and fault the context with the first. -/
def State.faultQueues (s : State) (fs : List (Nat × Fault197)) (trigger : Nat) : State :=
  match fs with
  | [] => s
  | (q, i) :: l =>
    let s := l.foldl (fun s y => if (s.queue y.1).st = .faulted then s else s.setQueue y.1 ((s.queue y.1).stopFaulted (faultRec (s.queue y.1) y.1 y.2))) s
    s.faultQueue q i trigger

/-- The place of a pending wait. -/
def State.waitPlace (s : State) (q : Nat) : Nat × Nat :=
  match (s.queue q).wait with
  | some w => (w.op.pc, w.op.seq)
  | none => ((s.queue q).pc, (s.queue q).seq)

def execStallDetected (x : Nat) : State → Res :=
  engines fun s =>
    if s.stalled x then
      s.faultQueues (((s.ctx x).queues.filter fun q => decide ((s.queue q).st = .waiting)).map fun q =>
        (q, { pc := (s.waitPlace q).1, seq := (s.waitPlace q).2, unit := 6, cause := 0x08, detail := detail08 1 0 0 (s.queue q).seq })) 2
    else s

/-! ### Wait-cycle detector (R224, R553 to R555) -/

/-- A pending wait of a queue: who waits (the queue itself, or a hub service that it owns), the object (0xFFFF for a token), its
place, and the producers on its edges. -/
structure WaitNode where
  q : Nat
  who : Client
  obj : Nat
  pc : Nat
  seq : Nat
  prods : List Nat
  /-- No edge means that nothing can satisfy the wait. -/
  bare : Bool := false
deriving DecidableEq, Repr

/-- Producers declared for a wait at an object (R553). -/
def SyncObj.producers (o : SyncObj) (gen : Nat) : List Nat :=
  if o.kind = .barrier then
    let d := (gen + 2 ^ 32 - o.gen) % 2 ^ 32
    (o.prodTab.filter fun e => decide (e.2 ≠ 0) && decide (e.1 < o.partic) &&
      !(if d = 0 then o.bmCur.testBit e.1 else if d = 1 then o.bmNext.testBit e.1 else true)).map (·.2 - 1)
  else if o.prodDecl && !o.prodExt then [4 * o.prodCore + o.prodQ]
  else []

/-- A hub service as the detector sees it (R347, R386): whose trigger wait is its own, the queue that it counts as, the objects
that it raises once triggered, and whether the work of an earlier trigger is still under way. -/
structure HubService where
  who : Client
  owner : Nat
  raises : List Nat
  busy : Bool

def Inst.service (i : Inst) (p : Nat) : HubService :=
  ⟨.coll p i.h, IBlk.owner i.blk, [IBlk.agreeObj i.blk, IBlk.pieceObj i.blk, IBlk.doneObj i.blk], decide (i.phase ≠ .trigger)⟩

def Policy.services (y : Policy) (p : Nat) : List HubService :=
  [⟨.stash p y.h, PBlk.owner y.blk, [PBlk.freeObj y.blk], y.slots.any fun j => decide (j.2 = .copying)⟩,
   ⟨.back p y.h, PBlk.owner y.blk, [PBlk.readyObj y.blk], y.backward⟩]

def Watch.services (y : Watch) (p : Nat) : List HubService :=
  ⟨y.client p, WBlk.owner y.blk, WBlk.doneObj y.blk :: if y.kind = 0 then [WBlk.thirdObj y.blk] else [], !y.scanning.isEmpty⟩ ::
  if y.kind = 2 then [⟨.scaleApply p, WBlk.owner y.blk, [], false⟩] else []

def State.hubServices (s : State) : List HubService :=
  s.parts.flatMap fun P =>
    P.2.insts.map (Inst.service · P.1) ++ P.2.policies.flatMap (Policy.services · P.1) ++ P.2.watches.flatMap (Watch.services · P.1)

/-- The service has nothing under way: it does no more until its trigger comes. -/
def State.dormant (s : State) (v : HubService) : Bool :=
  !v.busy && s.sync.objs.any fun o => o.2.waiters.any fun w => decide (w.who = v.who)

/-- Services at rest that count as queue `r` and raise the object. -/
def State.resting (s : State) (r o : Nat) : List HubService :=
  s.hubServices.filter fun v => decide (v.owner = r) && v.raises.contains o && s.dormant v

/-- Something on its way, or a service at work, counts as queue `r` and names the object (R554). -/
def State.signalDue (s : State) (r o : Nat) : Bool :=
  let x (t : DeXfer) : Bool := decide (t.qid = r) && decide (DRec.sigKind t.desc ≠ 0) && !DRec.sigRemote t.desc && decide (DRec.sigObj t.desc = o)
  (s.des.any fun e => e.2.waiting.any x) || ((List.range 256).any fun k => (s.deHeldOps k).any x) ||
  (s.sync.bound.any fun b => decide (b.qid = r) && decide (b.obj = o)) ||
  (s.sync.flight.any fun p => decide (p.qid = r) && decide (p.obj = o) && p.remote.isNone && !(p.isWait && decide (p.opc ≠ 0x76))) ||
  (s.cmds.any fun c => [0x40, 0x41].contains (Slot.op c.slot) && decide (c.phase ≠ .done) && decide (Copy.owner c.slot = r) &&
    decide (Copy.sigKind c.slot ≠ 0) && decide (Copy.sigObj c.slot = o)) ||
  (s.hubServices.any fun v => decide (v.owner = r) && v.raises.contains o && !s.dormant v) ||
  s.parts.any fun P => (P.2.ckpt.toList ++ P.2.restores).any fun k => decide (CBlk.owner k.blk = r) && decide (CBlk.doneObj k.blk = o)

/-- The edge to a producer stands (R554). -/
def State.edgeStands (s : State) (r o : Nat) : Bool :=
  let t := (s.queue r).st
  (decide (t = .waiting) || decide (t = .idle) || decide (t = .ended) || decide (t = .faulted)) && !s.signalDue r o

/-- The queue's own waits: at an object, and for a tile-queue token (R150). -/
def State.ownWaits (s : State) (q : Nat) : List WaitNode :=
  let Q := s.queue q
  (match Q.wait with
   | some w =>
     if Q.st = .waiting ∧ w.arrived ∧ Q.notice.isNone then
       [{ q := q, who := .queue q, obj := w.op.obj, pc := w.op.pc, seq := w.op.seq, prods := (s.obj w.op.obj).producers w.op.gen }]
     else []
   | none => []) ++
  s.ses.flatMap fun e =>
    let lead := s.leadOf e.1
    if (s.me lead).tokens.any fun t => !t.taken then []
    else
      (e.2.ops.filter fun o => decide (o.qid = q) && decide (o.phase = .token)).map fun o =>
        let ps := nub (((s.meHeld lead).filter fun m => decide (m.ctx = o.ctx)).map (·.qid))
        { q := q, who := .queue q, obj := 0xFFFF, pc := o.pc, seq := o.seq, prods := ps, bare := ps.isEmpty }

/-- Trigger waits of services that the queue owns, each a wait of that queue (R347, R386). -/
def State.triggerWaits (s : State) (q : Nat) : List WaitNode :=
  let vs := s.hubServices.filter fun v => decide (v.owner = q)
  s.sync.objs.flatMap fun o =>
    (o.2.waiters.filter fun w => vs.any fun v => decide (v.who = w.who)).map fun w =>
      { q := q, who := w.who, obj := o.1, pc := (s.queue q).pc, seq := (s.queue q).seq, prods := o.2.producers w.gen }

def State.waits (s : State) (q : Nat) : List WaitNode := s.ownWaits q ++ s.triggerWaits q

def State.standing (s : State) (n : WaitNode) : List Nat := n.prods.filter fun r => s.edgeStands r n.obj

/-- The producer can never act, and no service at rest that counts as it could. -/
def State.deadEnd (s : State) (n : WaitNode) (r : Nat) : Bool :=
  let t := (s.queue r).st
  (decide (t = .idle) || decide (t = .ended) || decide (t = .faulted)) && (s.resting r n.obj).isEmpty

/-- The waits that hold back a producer of `n`: those of the services at rest that are to raise the object for it, or else its
own (log 106). -/
def State.holding (s : State) (n : WaitNode) (r : Nat) : List WaitNode :=
  match s.resting r n.obj with
  | [] => s.ownWaits r
  | vs => (s.triggerWaits r).filter fun w => vs.any fun v => decide (v.who = w.who)

/-- Standing edges of a wait: each a producer with a wait that holds it back. -/
def State.edges (s : State) (n : WaitNode) : List (Nat × WaitNode) :=
  (s.standing n).flatMap fun r => (s.holding n r).map fun m => (r, m)

/-- A path of waits that comes back to `goal`, found breadth first: each wait with the producer that it waits on. -/
def findCycle (edges : WaitNode → List (Nat × WaitNode)) (goal : WaitNode) :
    Nat → List (List (WaitNode × Nat) × WaitNode) → List WaitNode → Option (List (WaitNode × Nat))
  | 0, _, _ => none
  | _, [], _ => none
  | k + 1, (path, n) :: rest, seen =>
    let es := edges n
    match es.find? fun e => decide (e.2 = goal) with
    | some e => some (path ++ [(n, e.1)])
    | none =>
      let new := es.filter fun e => !seen.contains e.2
      findCycle edges goal k (rest ++ new.map fun e => (path ++ [(n, e.1)], e.2)) (seen ++ new.map (·.2))

/-- The queues of a cycle, each once with the wait and the producer that its record names: a queue that waits on its own service
is in the cycle by that service's trigger wait. -/
def cycleQueues (path : List (WaitNode × Nat)) : List (WaitNode × Nat) :=
  let away := path.filter fun e => decide (e.2 ≠ e.1.q)
  (if away.isEmpty then path else away).foldr (fun e l => e :: l.filter fun y => decide (y.1.q ≠ e.1.q)) []

/-- The queues of a cycle of standing edges through a wait of queue `k`. -/
def State.waitCycle (s : State) (k : Nat) : Option (List (WaitNode × Nat)) :=
  ((s.waits k).findSome? fun n => findCycle s.edges n 4096 [([], n)] [n]).map cycleQueues

/-- `DETAIL` of cause 0x07 (R555). -/
def detail07 (length : Nat) (orphan : Bool) (prod obj : Nat) : Nat :=
  pack [(27, 5, min length 31), (26, 1, b2n orphan), (24, 2, prod % 4), (16, 8, prod / 4), (0, 16, obj)]

def WaitNode.fault (n : WaitNode) (detail : Nat) : Nat × Fault197 :=
  (n.q, { pc := n.pc, seq := n.seq, unit := 5, cause := 0x07, detail := detail })

/-- The wait can never be satisfied: a producer on an edge never acts, or a token has no producer. -/
def State.orphan (s : State) (n : WaitNode) : Option (Nat × Fault197) :=
  if n.bare then some (n.fault (detail07 1 true 0 n.obj))
  else ((s.standing n).find? (s.deadEnd n)).map fun r => n.fault (detail07 1 true r n.obj)

def State.reportDeadlock (s : State) (fs : List (Nat × Fault197)) : State :=
  { s with rel := { s.rel with deadlocks := satAdd 32 s.rel.deadlocks 1 } }.faultQueues fs 3

def execDeadlockCheck (c : Core) (q : QIx) : State → Res :=
  engines fun s =>
    let k := qid c q
    match (s.waits k).findSome? s.orphan with
    | some f => s.reportDeadlock [f]
    | none =>
      match s.waitCycle k with
      | some path => s.reportDeadlock (path.map fun e => e.1.fault (detail07 path.length false e.2 e.1.obj))
      | none => s

/-! ### Silent-error checks (R570) -/

/-- The runs that are outvoted (0 the origin, 1 the checker, 2 the third run), where two of them agree. -/
def jayVote (origin checker third fourth : Nat) : Option (List Nat) :=
  if third = origin then some [1]
  else if third = checker then some [0]
  else if fourth = origin then some [1, 2]
  else if fourth = checker then some [0, 2]
  else if fourth = third then some [0, 1]
  else none

/-- A strike to the spare of a checker's cluster (R571). -/
def State.strikeSpare (s : State) (k : Nat) : State := match s.spareOf k with | some slot => s.strike k slot | none => s

/-- The spares that make the third and the fourth run, the next in rotation (R570); the rotation goes on behind them. -/
def State.furtherRuns (s : State) (c : Nat) (o : MeOp) (third : Bool) : List Nat × State :=
  let ks := (s.checkers c o.ctx).take (if third then 1 else 2)
  (ks, match ks.getLast? with | some k => { s with rel := { s.rel with jayNext := (k + 1) % 32 } } | none => s)

/-- One bit of CRC-64 with polynomial 0x42F0_E1EB_A9EA_3693, not reflected. -/
def crcStep (c : Nat) (b : Bool) : Nat :=
  let d := 2 * c % 2 ^ 64
  if c.testBit 63 != b then d ^^^ 0x42F0E1EBA9EA3693 else d

/-- CRC-64 of bytes, each from its highest bit, with initial value 0 (R570). -/
def crc64 (l : Bytes) : Nat :=
  l.foldl (fun c b => (List.range 8).foldl (fun c i => crcStep c (b.toNat.testBit (7 - i))) c) 0

/-- What the comparison of an operation covers: its output bytes in row-major order, the statistics record if it wrote one, and the flag bits
[17:14] of its token, in a byte (R570, log 68). -/
def State.checkedBytes (s : State) (c : Nat) (o : MeOp) : Bytes :=
  s.readKeys (s.meKeys c (s.mmaWrites c o.rcd)) ++ leBytes 1 (bits o.token 17 14)

/-- The CRCs of the runs are compared: each that of the exact bits, to which the errors of the run add its operand (log 68). The
outputs in memory are the exact bits, so a majority's bits are those. -/
def execJayCompare (c : Core) (origin checker third fourth : Nat) : State → Res :=
  engines fun s =>
    match (s.me c.val).ops.find? fun o => decide (o.phase = .checking) with
    | none => s
    | some o =>
      if origin % 2 ^ 64 = checker % 2 ^ 64 then s.finishMe c.val o
      else
        let k := clusterOf c.val
        let slot := s.slotOf c.val
        let s := { s with rel := { s.rel with jayMismatch := (s.rel.jayMismatch + 1) % 2 ^ 64 } }
        let crc := crc64 (s.checkedBytes c.val o)
        let report (s : State) : State :=
          s.cperSlot k slot { event := 0x0002, detail := pack [(32, 32, crc ^^^ origin), (0, 32, crc ^^^ checker)], lcore := c.val, unit := 1 }
        let decided := decide (third % 2 ^ 64 = origin % 2 ^ 64) || decide (third % 2 ^ 64 = checker % 2 ^ 64)
        let (runs, s) := s.furtherRuns c.val o decided
        match jayVote (origin % 2 ^ 64) (checker % 2 ^ 64) (third % 2 ^ 64) (fourth % 2 ^ 64) with
        | none => (report s).startRecovery c.val .me
        | some out =>
          let s := out.foldl (fun s i =>
            if i = 0 then s.strike k slot else if i = 1 then s.strikeSpare o.checker else runs.head?.elim s s.strikeSpare) s
          (report s).finishMe c.val o

/-! ### Strikes and margins (R571 to R573) -/

def execStrikeExpiry (k : Clu) (slot : Fin 9) : State → Res :=
  hub fun s => { s with rel := { s.rel with strikes := Tbl.upd 0 s.rel.strikes (9 * k.val + slot.val) (· - 1) } }

def execMarginReturn (k : Clu) : State → Res :=
  hub fun s => { s with rel := { s.rel with margin := Tbl.set 0 s.rel.margin k.val (s.marginOf k.val - 1) } }

/-! ### Field tests and migration (R38, R39, R575 to R577) -/

/-- The cluster's spare runs a check (R569). -/
def State.checkerBusy (s : State) (k : Nat) : Bool :=
  s.mes.any fun e => e.2.ops.any fun o => decide (o.phase = .checking) && decide (o.checker = k)

/-- The slot can be tested now: a spare, or an active slot whose cluster has a free spare. -/
def State.testable (s : State) (i : Nat) : Bool :=
  let code := slotCode (s.slotMap (i / 9)) (i % 9)
  code ≠ 0xA && (s.spareOf (i / 9)).isSome && !s.checkerBusy (i / 9) && !s.rel.retirePend.any fun p => decide (p.1 = i / 9)

/-- The next slot in rotation is tested: a spare at once, an active one after the migration of its core (R575). -/
def execFieldTestStart : State → Res :=
  engines fun s =>
    if s.rel.ftPeriod = 0 ∨ s.rel.ftTest.isSome ∨ s.rel.migrations.any (·.2.2) then s
    else
      match ((List.range 288).map fun i => (s.rel.ftNext + i) % 288).find? s.testable with
      | none => s
      | some i =>
        let k := i / 9
        let slot := i % 9
        let code := slotCode (s.slotMap k) slot
        let s := { s with rel := { s.rel with ftNext := (i + 1) % 288 } }
        if code = 8 then
          let s := s.setSlotMap k (setSlot (s.slotMap k) slot 9)
          { s with rel := { s.rel with ftTest := some (k, slot) } }
        else
          match s.spareOf k with
          | some sp => { s with rel := { s.rel with migrations := s.rel.migrations ++ [(8 * k + code, sp, true)] } }
          | none => s

def execFieldTestEnd (pass : Bool) : State → Res :=
  engines fun s =>
    match s.rel.ftTest with
    | none => s
    | some (k, slot) =>
      let s := { s with rel := { s.rel with
        ftTest := none
        migrations := s.rel.migrations.filter fun g => !(decide (g.1 / 8 = k) && g.2.2) } }
      if pass then s.setSlotMap k (setSlot (s.slotMap k) slot 8)
      else
        let s := { s with rel := { s.rel with ftFailed := satAdd 16 s.rel.ftFailed 1 } }
        s.markRetired k slot 1 0

/-- Every operation that the core's engines have accepted has completed, and no recovery is at them (R577). -/
def State.coreIdle (s : State) (c : Nat) : Bool :=
  let one (i : Nat) : Bool :=
    (s.me i).ops.all (fun o => decide (o.phase = .tokenHeld)) && (s.se i).ops.all (fun o => decide (o.phase ≠ .ran)) &&
    (s.de i).active.isNone && (s.de i).shadow.isNone && !s.rel.recoveries.any fun r => decide (r.core = i)
  one c && one (s.leadOf c)

/-- Retirements of a cluster that still wait are looked at again. -/
def State.retryRetire (s : State) (k : Nat) : State :=
  let l := s.rel.retirePend.filter fun p => decide (p.1 = k)
  let s := { s with rel := { s.rel with retirePend := s.rel.retirePend.filter fun p => decide (p.1 ≠ k) } }
  l.foldl (fun s p => s.retire p.1 p.2) s

/-- A logical core moves to another slot of its cluster: for a retirement first, else for a field test. Its state is kept by
logical core, so only the slot map changes (R577). -/
def execMigration (c : Core) : State → Res :=
  engines fun s =>
    let k := clusterOf c.val
    let slot := s.slotOf c.val
    if !s.coreIdle c.val then s
    else
      match s.spareOf k with
      | none => s.retryRetire k
      | some sp =>
        if s.checkerBusy k then s
        else if s.rel.retirePend.contains (k, slot) then
          let s := { s with rel := { s.rel with retirePend := s.rel.retirePend.filter (· ≠ (k, slot)) } }
          let s := s.setSlotMap k (setSlot (s.slotMap k) sp (c.val % 8))
          let s := { s with rel := { s.rel with migrations := s.rel.migrations.filter fun g => decide (g.1 / 8 ≠ k) } }
          (s.markRetired k slot 0 c.val).retryRetire k
        else
          match s.rel.migrations.find? fun g => decide (g.1 = c.val) && decide (g.2.1 = sp) with
          | none => s
          | some _ =>
            let s := s.setSlotMap k (setSlot (setSlot (s.slotMap k) slot 9) sp (c.val % 8))
            { s with rel := { s.rel with ftTest := some (k, slot) } }

/-! ### Live registers (R581) -/

def obsGroup (v : Nat) : Nat := bits v 63 56
def obsCore (v : Nat) : Nat := bits v 55 48

/-- The engine that a group reads does not answer while its reset runs (R559). -/
def State.silent (s : State) (g c : Nat) : Bool :=
  s.silentSections.contains (g + 1, c)

/-- Registers of a group (log 23). -/
def State.liveRegs (s : State) (v : Nat) : Bytes :=
  let c := obsCore v
  match obsGroup v with
  | 1 => (s.queue (4 * c + bits v 47 46)).bytes
  | 2 => (List.range 4).flatMap fun b => (s.bank c b).header
  | 3 => s.seSection c
  | 4 => s.deSection c
  | 5 => s.progressSection c
  | _ => leBytes 8 (s.slotMap (clusterOf c)) ++ leBytes 8 (s.marginOf (clusterOf c))

/-- What the entry of a selection shows: status 2 once it is no longer open (R581). -/
def obsShown (data : Bytes) (isOpen : Bool) : Bytes := if isOpen || data.isEmpty then data else leBytes 8 2

/-- What a selection answers: a status word, and with status 0 the registers. -/
def State.observe (s : State) (v : Nat) (permitted : Bool) : Bytes :=
  if !permitted ∨ obsGroup v = 0 ∨ 6 < obsGroup v then leBytes 8 2
  else if !s.powered ∨ s.silent (obsGroup v) (obsCore v) then leBytes 8 1
  else leBytes 8 0 ++ s.liveRegs v

/-- The module's selection answers only at D2. -/
def State.selectObs (s : State) (v : Nat) : State :=
  { s with rel := { s.rel with obsSelect := v, obsData := s.observe v s.sec.unlocked } }

/-- A partition's selection reads its own cores while R540 opens them. -/
def State.selectPartObs (s : State) (p v : Nat) : State :=
  let d := s.observe v (s.debugOpen p && s.hasCluster p (clusterOf (obsCore v)))
  s.modPart p fun P => { P with obsSelect := v, obsData := d }

end Sys2Proof.Machine
end

