-- ==== Sys2Proof/Machine/SelfTest.lean ====
section
/-! DEFINITION. Machine/SelfTest.lean: the shutdown self-test and what follows from it, repairs and fuses (R583 to R598). -/

namespace Sys2Proof.Machine

/-! ### Slices (R585, R588, R590) -/

/-- Longest running time of a slice in ms. -/
def sliceMs (i : Nat) : Nat :=
  if i < 32 then 120 else if i < 36 then 200 else if i = 36 then 300 else if i < 41 then 150 else if i = 41 then 100
  else if i < 46 then 2600 else if i < 50 then 80 else 300

def sliceEntry (age ms detail result : Nat) : Nat := pack [(48, 16, age), (32, 16, ms), (8, 24, detail), (0, 2, result)]
def entryDetail (w : Nat) : Nat := bits w 31 8
def entryResult (w : Nat) : Nat := bits w 1 0

/-- Slot places, as 9 × cluster + slot, that a slice tests, with whether it failed each; a core logic slice fails those
that its `DETAIL` marks, a die SRAM slice those among its faults (place 16 × cluster of the die + slot). -/
def slicePlaces (i detail : Nat) (faults : List Nat) : List (Nat × Bool) :=
  if i < 32 then (List.range 9).map fun s => (9 * i + s, detail.testBit s)
  else if 37 ≤ i ∧ i < 41 then
    (List.range 8).flatMap fun k => (List.range 9).map fun s => (9 * (8 * (i - 37) + k) + s, faults.contains (16 * k + s))
  else []

/-- Passes in a row of a slot, at most three (R595). -/
def countPasses (t : Table Nat) (ps : List (Nat × Bool)) : Table Nat :=
  ps.foldl (fun t p => Tbl.set 0 t p.1 (if p.2 then 0 else min 3 (Tbl.get 0 t p.1 + 1))) t

/-- Room for soft repairs: a die holds 4,096, the hub 1,024 (R592). -/
def softRoom (d : Nat) : Nat := if d = 4 then 1024 else 4096

/-- Where an SRAM slice finds soft repairs: die 0 to 3, or 4 for the hub. -/
def sramDie (i : Nat) : Option Nat := if 37 ≤ i ∧ i < 41 then some (i - 37) else if i = 41 then some 4 else none

/-- Soft repairs of an SRAM slice that the record has no room for (R592). -/
def BistSt.noRoom (b : BistSt) (i detail : Nat) : Nat :=
  match sramDie i with
  | some d => Tbl.get 0 b.soft d + detail % 2 ^ 24 - softRoom d
  | none => 0

/-- Faults that a slice leaves: those that it reports with result 2, and of those that it repaired, the last ones that the
record has no room for (R592). -/
def BistSt.marks (b : BistSt) (i result detail : Nat) (faults : List Nat) : List Nat :=
  if result = 2 then (if i < 32 then (List.range 9).filter fun s => detail.testBit s else faults)
  else if result = 3 then faults.drop (faults.length - b.noRoom i detail)
  else []

/-- What a slice that has run leaves: its entry, its faults, soft repairs, passes in a row, and the full passes. -/
def BistSt.record (b : BistSt) (i result detail ms : Nat) (faults : List Nat) : BistSt :=
  let marks := b.marks i result detail faults
  let places := slicePlaces i (if result = 2 then detail else 0) marks
  let since := insertUp i b.passesSince
  { b with
    results := Tbl.set 0 b.results i (sliceEntry 0 ms (detail - b.noRoom i detail) (if result = 3 ∧ marks ≠ [] then 2 else result))
    faults := b.faults.filter (fun f => decide (f.1 ≠ i)) ++ marks.map fun f => (i, f)
    soft := match sramDie i with
      | some d => Tbl.upd 0 b.soft d fun n => min (softRoom d) (n + detail % 2 ^ 24)
      | none => b.soft
    corePass := if i < 32 then countPasses b.corePass places else b.corePass
    sramPass := if 32 ≤ i then countPasses b.sramPass places else b.sramPass
    ranNow := b.ranNow ++ [i]
    cursor := (i + 1) % 51
    passes := if since.length = 51 then (b.passes + 1) % 2 ^ 32 else b.passes
    passesSince := if since.length = 51 then [] else since }

/-- The self-test of this shutdown ends. -/
def BistSt.close (b : BistSt) (used n : Nat) : BistSt :=
  { b with
    results := b.aged
    running := none
    testOver := true
    stale := false
    lastMs := used
    slicesRun := n }

/-- The slice at the cursor ends: the next one runs if it fits and is not the first again; else the module leaves. -/
def State.sliceEnd (s : State) (result detail ms : Nat) (faults : List Nat) : State :=
  match s.bist.running with
  | none => s
  | some (first, elapsed, n, budget) =>
    let i := s.bist.cursor
    let b := s.bist.record i result detail ms faults
    let s := if 42 ≤ i ∧ i < 46 then s.modDie (i - 42) fun d => { d with poison := [] } else s
    let used := elapsed + ms
    let fits : Bool := match budget with | none => true | some k => decide (used + sliceMs b.cursor ≤ k)
    if b.cursor ≠ first ∧ fits then { s with bist := { b with running := some (first, used, n + 1, budget) } }
    else { s with bist := b.close used (n + 1) }.finishEntry

def execSelfTestSliceEnd (result detail ms : Nat) (faults : List Nat) : State → Res :=
  anyTime fun s => if result = 0 ∨ 3 < result then s else s.beginSelfTest.sliceEnd result detail ms faults

/-! ### Consequences at the next start (R591) -/

/-- A slot is retired at a start: no context runs, and a spare takes its core over at once. -/
def State.retireNow (s : State) (k slot reason : Nat) : State :=
  let code := slotCode (s.slotMap k) slot
  if code = 0xA then s
  else if 8 ≤ code then s.markRetired k slot reason 0
  else
    match s.spareOf k with
    | some sp => (s.setSlotMap k (setSlot (s.slotMap k) sp code)).markRetired k slot reason (8 * k + code)
    | none => (s.markRetired k slot reason (8 * k + code)).withdraw k (8 * k + code) slot

/-- Lanes that an on-board link starts with. -/
def linkWidth (failing : Nat) : Nat := if failing = 0 then 16 else if failing ≤ 4 then 12 else if failing ≤ 8 then 8 else 0

/-- Widest width of a Walien port, in lanes, that its passing pairs allow (R299). -/
def portPairs (passing : Nat) : Nat := if passing < 2 then 0 else passing

/-- One fault: a slot, a cluster memory, or a sub-channel. -/
def State.applyFault (s : State) (f : Nat × Nat) : State :=
  if f.1 < 32 then s.retireNow f.1 (f.2 % 9) 1
  else if 37 ≤ f.1 ∧ f.1 < 41 then
    let k := 8 * (f.1 - 37) + f.2 / 16 % 8
    if f.2 % 16 < 9 then s.retireNow k (f.2 % 16) 1
    else if s.rel.withdrawn.testBit k then s
    else s.withdraw k (8 * k) 0
  else if 42 ≤ f.1 ∧ f.1 < 46 then s.spareTrigger (f.1 - 42) (f.2 % 256)
  else s

/-- Failing lane pairs of Walien port `w`: hub analogue places 8 × port + lane. -/
def BistSt.badPairs (b : BistSt) (w : Nat) : Nat :=
  maskOf ((List.range 4).filter fun j => b.faults.any fun f => decide (f.1 = 50) && decide (f.2 < 48) && decide (f.2 / 8 = w) && decide (f.2 % 8 / 2 = j))

/-- Failing lanes of on-board link `l`: die analogue places 16 × link + lane, and, at the hub ends of the die links, hub
analogue places 80 + 16 × die + lane (log 77). -/
def BistSt.badLanes (b : BistSt) (l : Nat) : Nat :=
  ((List.range 16).filter fun i => b.faults.any fun f =>
    (decide (46 ≤ f.1) && decide (f.1 < 50) && decide (f.2 = 16 * l + i)) ||
    (decide (6 ≤ l) && decide (f.1 = 50) && decide (f.2 = 80 + 16 * (l - 6) + i))).length

/-- A Walien port starts without its failing pairs, FAILED with fewer than two passing. -/
def State.startPort (s : State) (w : Nat) : State :=
  let bad := s.bist.badPairs w
  let n := popCount bad 4
  if n = 0 then s
  else if portPairs (4 - n) = 0 then (s.modPort w fun p => { p with pairsOff := bad, pairsDead := bad }).failPort w
  else s.modPort w fun p => { p with pairsOff := bad, pairsDead := bad, lanes := min p.lanes (2 * portPairs (4 - n)) }

/-- `ATTENTION`: a failed slice whose failure leaves service unchanged. -/
def BistSt.attends (b : BistSt) : Bool :=
  (span 32 5 ++ [41]).any (fun i => decide (entryResult (Tbl.get 0 b.results i) = 2)) ||
  (span 46 5).any fun i => decide (entryResult (Tbl.get 0 b.results i) = 2) && (entryDetail (Tbl.get 0 b.results i)).testBit 23

/-- What failed slices bring about, before `MODULE_READY`; the Walien ports have started without their failing pairs. -/
def State.applySelfTest (s : State) : State :=
  let s : State := s.keepSeq (s.bist.faults.foldl State.applyFault s)
  { s with
    bist := { s.bist with attention := s.bist.attends }
    power := { s.power with links := (List.range 10).foldl (fun t l =>
      let w := linkWidth (s.bist.badLanes l)
      if w = 16 then t else Tbl.set 16 t l (min w (Tbl.get 16 t l))) s.power.links } }

/-! ### Requests and repair (R589, R592 to R595) -/

/-- A request for the next shutdown cancels one of the other kind. -/
def State.fullNextWrite (s : State) (v : Nat) : DictRes :=
  if v ≠ 1 then deny s St.badField else (St.ok, { s with bist := { s.bist with fullNext := true, skipNext := false } })

def State.skipNextWrite (s : State) (v : Nat) : DictRes :=
  if v ≠ 1 then deny s St.badField else (St.ok, { s with bist := { s.bist with fullNext := false, skipNext := true } })

/-- Fuse banks fitted. -/
def fuseBanks (d : Nat) : Nat := if d = 4 then 2 else 4

def State.softOf (s : State) (d : Nat) : Nat := Tbl.get 0 s.bist.soft d
def State.fuseUsed (s : State) (d : Nat) : Nat := Tbl.get 0 s.bist.fuseUsed d

/-- A write of `REP_FUSE_BURN`: its refusal, or the burn starts and the reply waits. -/
def State.fuseWrite (s : State) (v : Nat) (origin : Option (Nat × Nat)) : DictRes :=
  if 4 < v then deny s St.badField
  else if !s.powered ∨ !s.allFree then deny s St.badState
  else if s.bist.burning.isSome then deny s St.busy
  else if fuseBanks v ≤ s.fuseUsed v ∨ s.softOf v = 0 then deny s St.noResource
  else (St.ok, { s with bist := { s.bist with burning := some (v, origin) } })

/-- The burn is complete: its repairs leave the soft record. -/
def State.fuseDone (s : State) (d : Nat) : State :=
  { s with bist := { s.bist with
    soft := Tbl.upd 0 s.bist.soft d (· - 512)
    fuseUsed := Tbl.upd 0 s.bist.fuseUsed d (· + 1)
    burning := none } }

/-- A logical core of the cluster without a slot, if any. -/
def missingCore (m : Nat) : Option Nat := (List.range 8).find? fun c => (List.range 9).all fun i => decide (slotCode m i ≠ c)

/-- A write of `REP_UNRETIRE`: an accepted slot is the spare, and takes over a core that has no slot, which ends a
withdrawal. -/
def State.unretireWrite (s : State) (v : Nat) : DictRes :=
  let k := bits v 12 8
  let slot := bits v 3 0
  if 2 ^ 13 ≤ v ∨ bits v 7 4 ≠ 0 ∨ 8 < slot then deny s St.badField
  else if slotCode (s.slotMap k) slot ≠ 0xA ∨ Tbl.get 0 s.bist.corePass (9 * k + slot) < 3 ∨
      Tbl.get 0 s.bist.sramPass (9 * k + slot) < 3 ∨ s.strikesOf k slot ≠ 0 then deny s St.badState
  else
    match missingCore (s.slotMap k) with
    | none => (St.ok, s.setSlotMap k (setSlot (s.slotMap k) slot 8))
    | some c =>
      let s := s.setSlotMap k (setSlot (s.slotMap k) slot c)
      (St.ok, if (missingCore (s.slotMap k)).isNone ∧ s.rel.withdrawn.testBit k then { s with rel := { s.rel with withdrawn := s.rel.withdrawn - 2 ^ k } } else s)

end Sys2Proof.Machine
end

