-- ==== Sys2Proof/Machine/Meter.lean ====
section
/-! DEFINITION. Machine/Meter.lean: the usage meter and the hub's copy of its records (R617 to R634). No command of the
module reaches the meter: what one of its own leaves changed is the meter, what it sends out, and the free values. -/

namespace Sys2Proof.Machine

/-- Answer of a command of the meter (R621, R622). -/
def onMeter (f : State → State) (s : State) : Res :=
  let t := f s
  .next { s with meter := t.meter, mirror := t.mirror, outbox := t.outbox, free := t.free }

/-- Units of the accumulator in a milliwatt-hour and in a watt-hour (R617, R631). -/
def mWhUnits : Nat := 2 ^ 20
def whUnits : Nat := 1000 * mWhUnits

/-- Ticks of a reading interval (R620). -/
def intervalTicks : Nat := 1966080

/-! ### Records (R625) -/

/-- The 64-byte body. -/
def MeterRec.body (r : MeterRec) : Bytes :=
  leBytes 64 (pack [(448, 64, r.energy), (416, 32, r.seq), (384, 32, r.boots), (320, 64, r.ticks), (256, 64, Config.meterSerial),
    (224, 32, Config.meterCalId), (208, 16, Config.meterFw), (192, 16, r.vMin), (176, 16, r.vMax), (160, 16, r.pMax),
    (148, 1, b2n r.selfTestFail), (147, 1, b2n r.serialMismatch), (146, 1, b2n r.overrange), (145, 1, b2n r.belowImin), (144, 1, b2n r.start)])

/-- The signed record of 4,691 bytes. -/
def MeterRec.record (r : MeterRec) : Bytes := r.body ++ pad 4627 (Config.meterSign r.body)

/-- The record of the interval that ends, at `ticks`. -/
def MeterSt.reading (m : MeterSt) (ticks vMin vMax pMax : Nat) (fail start : Bool) : MeterRec :=
  { energy := m.acc / mWhUnits, seq := m.nextSeq, boots := m.boots, ticks := ticks, vMin := vMin, vMax := vMax, pMax := pMax
    selfTestFail := fail, serialMismatch := m.serialMismatch, overrange := m.overrange, belowImin := m.belowImin, start := start }

/-- The newest `n` entries. -/
def newest {α : Type} (n : Nat) (l : List α) : List α := l.drop (l.length - n)

/-- The meter keeps the newest 1,440 records, and a new interval begins (R626). -/
def MeterSt.issue (m : MeterSt) (r : MeterRec) : MeterSt :=
  { m with nextSeq := m.nextSeq + 1, records := newest 1440 (m.records ++ [r]), intervalEmpty := true, overrange := false, belowImin := false }

/-- A record is issued, and leaves for the hub where the link is up (R627). -/
def State.issue (s : State) (m : MeterSt) (r : MeterRec) : State :=
  { s with
    meter := m.issue r
    mirror := if s.mirror.linkUp then { s.mirror with sending := newest 1440 (s.mirror.sending ++ [r]) } else s.mirror }

/-! ### Power and samples (R617 to R620, R623, R631) -/

/-- The hub's answer to the comparison of serials: agreement, mismatch, or none. -/
def MeterSt.compared (m : MeterSt) (answer : Option Bool) : MeterSt :=
  { m with serialKnown := answer.isSome, serialMismatch := decide (answer = some false) }

/-- The meter powers up and issues the `START` reading, within 5 ms (163 ticks); the interval is empty, and its voltages and
power are free values. -/
def execMeterPowerUp (answer : Option Bool) : State → Res :=
  onMeter fun s =>
    if s.meter.powered then s
    else
      let m := { s.meter with
        powered := true
        boots := s.meter.boots + 1
        acc := s.meter.nvAcc
        intervalEmpty := true
        overrange := false
        belowImin := false }.compared answer
      let free (i w : Nat) : Nat := Config.freeNat (s.free + i) % 2 ^ w
      { s.issue m (m.reading (m.ticks + Config.freeNat (s.free + 3) % 164) (free 0 16) (free 1 16) (free 2 16) false true) with
        free := s.free + 4 }

/-- A sample: its energy is added, and the LED pulses at each whole watt-hour crossed. -/
def execMeterSample (mv ma uWh20 : Nat) : State → Res :=
  onMeter fun s =>
    let m := s.meter
    if !m.powered then s
    else
      let v := mv / 10
      let acc := m.acc + uWh20
      let pulses := acc / whUnits - m.acc / whUnits
      { s with
        outbox := s.outbox ++ List.replicate pulses .led
        meter := { m with
          acc := acc
          vMin := if m.intervalEmpty then v else min m.vMin v
          vMax := if m.intervalEmpty then v else max m.vMax v
          intervalEmpty := false
          overrange := m.overrange || decide (60000 < ma) || decide (mv < 46000) || decide (62000 < mv)
          belowImin := m.belowImin || decide (ma < 250) } }

/-- An interval ends; a record whose signing the loss of input interrupts is not issued, and its `SEQ` stays. -/
def execMeterReading (pMax : Nat) (selfTestFail signed : Bool) : State → Res :=
  onMeter fun s =>
    let m := s.meter
    if !m.powered then s
    else
      let m := { m with ticks := m.ticks + intervalTicks }
      if !signed then { s with meter := m }
      else
        let vMin := if m.intervalEmpty then Config.freeNat s.free % 2 ^ 16 else m.vMin
        let vMax := if m.intervalEmpty then Config.freeNat (s.free + 1) % 2 ^ 16 else m.vMax
        { s.issue m (m.reading m.ticks vMin vMax pMax selfTestFail false) with free := s.free + 2 }

def execMeterNvWrite : State → Res :=
  onMeter fun s => if s.meter.powered then { s with meter := { s.meter with nvAcc := s.meter.acc } } else s

/-- The input falls below 40 V: the energy is saved and the meter stops, part of the way through an interval. -/
def execMeterHoldupSave : State → Res :=
  onMeter fun s =>
    if !s.meter.powered then s
    else
      { s with
        meter := { s.meter with
          nvAcc := s.meter.acc, powered := false, ticks := s.meter.ticks + Config.freeNat s.free % intervalTicks }
        mirror := { s.mirror with linkUp := false, sending := [] }
        free := s.free + 1 }

/-- Without an answer the comparison is repeated every 60 s; a hub that is off gives none. -/
def execSerialCheckRetry (answer : Option Bool) : State → Res :=
  onMeter fun s =>
    if !s.meter.powered || s.meter.serialKnown || !s.auxOn then s else { s with meter := s.meter.compared answer }

/-! ### The hub's copy (R627 to R630) -/

/-- Records of the meter that the hub has yet to receive. -/
def State.meterAfter (s : State) : List MeterRec :=
  match s.mirror.hubHigh with
  | some h => s.meter.records.filter fun r => decide (h < r.seq)
  | none => newest 64 s.meter.records

def State.meterWaiting (s : State) : Nat := if s.mirror.linkUp then s.mirror.sending.length else s.meterAfter.length

/-- The link returns: the hub asks for what it lacks. -/
def execMeterRecordRequest : State → Res :=
  onMeter fun s =>
    if !s.auxOn || !s.meter.powered || s.mirror.linkUp then s
    else { s with mirror := { s.mirror with linkUp := true, sending := s.meterAfter } }

/-- Records missing before one that arrives. -/
def MirrorSt.missing (m : MirrorSt) (r : MeterRec) : Nat :=
  match m.hubHigh with
  | some h => r.seq - h - 1
  | none => 0

/-- A record arrives: its mirror slot first, and then `METER_LATEST`. -/
def MirrorSt.arrive (m : MirrorSt) (r : MeterRec) : MirrorSt :=
  { m with
    slots := Tbl.set none m.slots (r.seq % 60) (some r)
    latest := some r
    records := newest 64 (m.records ++ [r])
    gaps := satAdd 15 m.gaps (m.missing r)
    hubHigh := some (max r.seq (m.hubHigh.getD 0)) }

def execMeterRecordArrive : State → Res :=
  onMeter fun s =>
    match s.mirror.sending with
    | [] => s
    | r :: rs => if s.auxOn && s.mirror.linkUp then { s with mirror := { s.mirror with sending := rs }.arrive r } else s

/-- `METER_STATE`. -/
def State.meterWord (s : State) : Nat :=
  pack [(31, 1, b2n s.mirror.linkUp), (16, 15, s.mirror.gaps), (0, 16, min s.meterWaiting 65535)]

/-- `METER_RECORDS`: the newest 64 signed records, oldest first. -/
def MirrorSt.recordBytes (m : MirrorSt) : Bytes := m.records.flatMap MeterRec.record

end Sys2Proof.Machine
end

