-- ==== Sys2Proof/Machine/Dict.lean ====
section
/-! DEFINITION. Machine/Dict.lean: the entries of the object dictionary and what each reads (R285, R338, R339, R446, R491 to
R503, R581, R582, R598, R616, R628, R633), as each principal may reach them. -/

namespace Sys2Proof.Machine

/-- Entry types (R493): a number of `w` bits, `n` bytes, or a domain of at most `max` bytes. -/
inductive ETy where
  | num (w : Nat)
  | blob (n : Nat)
  | domain (max : Nat)
deriving DecidableEq, Repr

/-- An entry: type, rights of MGMT, of a host and of a partition (bit 0 read, bit 1 write), and what it reads. -/
structure Entry where
  ty : ETy
  mgmt : Nat
  host : Nat
  part : Nat
  num : Nat := 0
  bytes : Bytes := []

/-! ### Forms of the access columns -/

def numEntry (m h p w v : Nat) : Option Entry := some { ty := .num w, mgmt := m, host := h, part := p, num := v % 2 ^ w }
def blobEntry (m h p n : Nat) (b : Bytes) : Option Entry := some { ty := .blob n, mgmt := m, host := h, part := p, bytes := pad n b }
def domEntry (m h p max : Nat) (b : Bytes) : Option Entry := some { ty := .domain max, mgmt := m, host := h, part := p, bytes := b }

/-- Read-only for MGMT and hosts, and for partitions too. -/
def ro (w v : Nat) : Option Entry := numEntry 1 1 0 w v
def roAll (w v : Nat) : Option Entry := numEntry 1 1 1 w v
/-- Written by MGMT; partitions do not see it, or read it. -/
def setting (w v : Nat) : Option Entry := numEntry 3 1 0 w v
def settingAll (w v : Nat) : Option Entry := numEntry 3 1 1 w v
/-- Written by MGMT and read by nobody. -/
def trigger (w : Nat) : Option Entry := numEntry 2 0 0 w 0

/-- Sub-index 0 of an array holds its count; entry `i` of `n` stands at sub-index `i + 1`. -/
def array (sub n : Nat) (count : Option Entry) (f : Nat → Option Entry) : Option Entry :=
  if sub = 0 then count else if sub ≤ n then f (sub - 1) else none

def ascii (cs : List Char) : Bytes := cs.map fun c => BitVec.ofNat 8 c.toNat

/-! ### Words that entries read -/

/-- `MEM_DIE_STATE` (R285). -/
def DieMem.word (d : DieMem) : Nat :=
  pack [(16, 16, d.poison.length), (3, 1, b2n d.degraded), (0, 3, d.events.length)]

/-- `MEM_SUBCH_STATE` (R285). -/
def SubCh.word (x : SubCh) : Nat :=
  pack [(29, 3, x.st), (26, 3, x.event), (16, 8, min 255 x.ueLines.length), (0, 16, x.ce)]

def PortSt.code : PortSt → Nat
  | .down => 0
  | .training => 1
  | .securing => 2
  | .waitId => 3
  | .up => 4
  | .miswired => 5
  | .failed => 6

/-- `FAB_PORT_STATE` (R339); the neighbour's ID is valid from WAIT_ID. -/
def Port.word (p : Port) : Nat :=
  let known := decide (3 ≤ p.st.code)
  pack [(28, 4, p.st.code), (24, 4, p.lanes), (23, 1, b2n p.encrypted), (19, 4, p.pairsOff), (8, 11, if known then p.peerId else 0),
    (5, 3, p.peerPort)]

/-- `FAB_UNREACHABLE`: modules of the torus to which no route leads (R315). -/
def State.unreachable (s : State) : Nat :=
  if !s.fab.moduleId.testBit 15 then 0
  else ((List.range 2048).filter fun m => inTorus s.fab.dims m && (route s.fab.dims s.fab.linkMap s.myId m).isNone).length

/-- `PCI_LINK_STATE` (R436). -/
def State.linkWord (s : State) (h : Nat) : Nat :=
  let q := s.pciPort h
  pack [(28, 4, q.rate), (24, 4, q.width / 4), (23, 1, b2n q.flit), (22, 1, b2n q.ide),
    (8, 8, maskOf ((List.range 8).filter fun p => decide ((s.part p).port = h + 1)))]

/-- `REL_MARGIN` (R582). -/
def State.marginWord (s : State) (k : Nat) : Nat :=
  pack ((28, 4, s.marginOf k) :: (List.range 9).map fun i => (2 * i, 2, s.strikesOf k i))

/-- `FT_STATE` (R582). -/
def State.fieldTestWord (s : State) : Nat :=
  pack [(16, 16, min 65535 s.rel.ftFailed), (8, 8, match s.rel.ftTest with | some t => t.1 | none => 0xFF),
    (4, 4, match s.rel.ftTest with | some t => t.2 | none => 0)]

/-- `BIST_STATE` (R598). -/
def BistSt.word (b : BistSt) : Nat :=
  pack [(32, 32, b.passes), (16, 8, b.cursor), (8, 8, b.slicesRun), (2, 1, b2n b.attention), (1, 1, b2n b.stale),
    (0, 1, b2n (b.fullNext || b.skipNext))]

/-- `CLK_CLUSTER` (R616). -/
def State.clockWord (s : State) (k : Nat) : Nat :=
  pack [(16, 16, s.clusterMhz k), (8, 8, (s.cluster k).temp), (4, 4, (s.cluster k).steps)]

/-- Whole seconds left of a shutdown request. -/
def State.secondsLeft (s : State) : Nat := s.power.shutSecs - (s.clockUs - s.power.shutFrom) / 1000000

/-- `PWR_SHUTDOWN_REQ` as it reads. -/
def State.shutdownWord (s : State) : Nat :=
  if s.power.shutTarget = 0 then 0 else pack [(16, 3, s.power.shutTarget), (0, 16, s.secondsLeft)]

def imageVersion (bs : Bytes) : Nat := bits (leNat (slice bs 0 64)) 479 448

/-- `MGMT_IMAGE_STATE` of a slot (R498). -/
def State.imageWord (s : State) (k : Nat) : Nat :=
  let x := if k = 0 then s.mgmt.slot0 else s.mgmt.slot1
  if !x.present then 0
  else
    pack [(32, 32, imageVersion x.data), (24, 8, imageSigner x.data),
      (0, 2, if s.mgmt.active = some k then 3 else if x.valid then 1 else 2)]

/-- `IDENT_PARAM_SLOT` (R497, R509). -/
def State.paramSlot (s : State) : Nat := pack [(0, 1, s.mgmt.active.getD 0), (7, 1, b2n s.mgmt.recovery)]

/-- A cell of `PART_PEERS`. -/
def Partition.peersWord (P : Partition) (i : Nat) : Nat := pack ((List.range 16).map fun j => (4 * j, 4, Tbl.get 0 P.peers (16 * i + j)))

/-- `PART_WORK`: count 1, of core cycles, is a free value (R633, log 13). -/
def State.workOf (s : State) (p i : Nat) : Nat := if i = 1 then Config.freeNat s.free else Tbl.get 0 (s.part p).work i

/-! ### Entries by range (R496) -/

/-- Range 0x1000 (R497). -/
def State.identEntry (s : State) : Nat → Option Entry
  | 0 => roAll 8 8
  | 1 => blobEntry 1 1 1 16 (ascii ['V', 'G', 'K', '-', 'L', '6', 'T', '-', '1', '0', '2', '4', '0'])
  | 2 => blobEntry 1 1 1 16 Config.identSerial
  | 3 => blobEntry 1 1 1 2 (ascii ['A', '1'])
  | 4 => blobEntry 1 1 1 16 (ascii ['K', 'e', 'n', 't', 'i', 's', ' ', '1', '.', '4'])
  | 5 => roAll 64 Config.identMac
  | 6 => roAll 16 Config.identVendor
  | 7 => roAll 32 (imageVersion s.activeImage)
  | 8 => roAll 8 s.paramSlot
  | _ => none

/-- Range 0x1100 (R498). -/
def State.mgmtEntry (s : State) (i sub : Nat) : Option Entry :=
  let m := s.mgmt
  let only (e : Option Entry) : Option Entry := if sub = 0 then e else none
  match i with
  | 0x1101 => only (numEntry 3 0 0 8 m.plcaId)
  | 0x1102 => only (numEntry 3 0 0 8 m.plcaCount)
  | 0x1103 => only (blobEntry 3 1 0 16 m.ipv6)
  | 0x1104 => only (setting 16 m.udpPort)
  | 0x1105 => only (ro 8 (m.sessions.filter fun x => x.isOpen && !x.expired s.clockUs).length)
  | 0x1106 => only (ro 32 (min (2 ^ 32 - 1) m.authFails))
  | 0x1107 => only (ro 32 (min (2 ^ 32 - 1) m.badDatagrams))
  | 0x1110 => only (domEntry 2 0 0 1048576 m.stage)
  | 0x1111 => only (trigger 8)
  | 0x1112 => array sub 2 (ro 8 2) fun k => ro 64 (s.imageWord k)
  | 0x1120 => array sub 8 (ro 8 8) fun k => domEntry 1 1 0 8192 (Tbl.get [] m.anchors (k + 1))
  | 0x1121 => array sub 8 (ro 8 8) fun k => domEntry 1 1 0 8192 (Tbl.get [] m.devAnchors (k + 1))
  | 0x1122 => array sub 4 (ro 8 4) fun k => blobEntry 3 1 0 siteKeyBytes (Tbl.get [] m.siteKeys (k + 1))
  | _ => none

/-- Ranges 0x1200 and 0x1300 (R499, R616). -/
def State.powerEntry (s : State) (i sub : Nat) : Option Entry :=
  let only (e : Option Entry) : Option Entry := if sub = 0 then e else none
  match i with
  | 0x1201 => only (settingAll 8 s.power.modeReg)
  | 0x1202 => only (settingAll 8 s.stateCode)
  | 0x1203 => only (setting 32 s.shutdownWord)
  | 0x1204 => only (setting 16 s.power.capW)
  | 0x1205 => only (roAll 64 (Config.freeNat s.free))
  | 0x1206 => only (ro 16 s.power.readyMs)
  | 0x1207 => only (ro 8 s.power.lastStop)
  | 0x1301 => array sub 32 (ro 8 32) fun k => ro 32 (s.clockWord k)
  | 0x1302 => only (ro 32 s.power.throttleEvents)
  | _ => none

/-- Ranges 0x1400 and 0x1500 (R285, R436). -/
def State.memEntry (s : State) (i sub : Nat) : Option Entry :=
  let only (e : Option Entry) : Option Entry := if sub = 0 then e else none
  match i with
  | 0x1401 => only (roAll 32 10240)
  | 0x1402 => only (roAll 32 9920)
  | 0x1410 => only (setting 16 s.mem.scrubPeriodH)
  | 0x1411 => only (setting 16 s.mem.ceThreshold)
  | 0x1412 => only (trigger 16)
  | 0x1420 => array sub 4 (ro 8 4) fun d => ro 32 (s.die d).word
  | 0x1450 => only (ro 8 s.mem.trainLast)
  | 0x1501 => array sub 2 (ro 8 2) fun h => ro 32 (s.linkWord h)
  | 0x1502 => only (numEntry 3 3 0 16 s.msixMinUs)
  | 0x1503 => only (ro 32 s.badRequests)
  | _ => if 0x1440 ≤ i ∧ i ≤ 0x1443 ∧ sub < 256 then ro 32 (s.subch (i - 0x1440) sub).word else none

/-- Range 0x1600 (R41, R338). -/
def State.fabEntry (s : State) (i sub : Nat) : Option Entry :=
  let only (e : Option Entry) : Option Entry := if sub = 0 then e else none
  match i with
  | 0x1601 => only (settingAll 16 s.fab.moduleId)
  | 0x1602 => only (settingAll 16 s.fab.dims)
  | 0x1610 => only (setting 16 s.fab.vcWeights)
  | 0x1611 => only (setting 8 s.fab.vc0Cap)
  | 0x1612 => only (setting 8 s.fab.external)
  | 0x1620 => array sub 6 (ro 8 6) fun w => ro 32 (s.port w).word
  | 0x1630 => only (ro 32 (s.fab.sessions.filter fun x => decide (x.2.st = .opened)).length)
  | 0x1631 => only (ro 16 (pack [(8, 8, min 255 s.fab.openHigh), (0, 8, min 255 s.fab.openQ.length)]))
  | 0x1632 => only (ro 16 s.unreachable)
  | _ => none

/-- Ranges 0x1700 and 0x1C00 (R499, R549, R582). -/
def State.secEntry (s : State) (i sub : Nat) : Option Entry :=
  let only (e : Option Entry) : Option Entry := if sub = 0 then e else none
  match i with
  | 0x1701 => only (roAll 8 s.sec.state)
  | 0x1702 => only (trigger 8)
  | 0x1703 => only (domEntry 1 1 1 16384 Config.deviceCert)
  | 0x1704 => only (domEntry 3 1 1 8192 s.sec.siteCert)
  | 0x1705 => array sub 3 (roAll 8 3) fun k => blobEntry 1 1 1 64 ((s.measurement 0 (k + 1)).getD [])
  | 0x1710 => only (blobEntry 2 0 0 64 [])
  | 0x1711 => only (trigger 8)
  | 0x1C01 => only (roAll 8 s.debugLevel)
  | 0x1C02 => only (blobEntry 1 0 0 32 s.sec.challenge)
  | 0x1C03 => only (domEntry 2 0 0 8192 s.sec.token)
  | 0x1C04 => only (ro 8 s.sec.tokenFails)
  | 0x1C10 => only (numEntry 3 0 0 64 s.rel.obsSelect)
  | 0x1C11 => only (domEntry 1 0 0 4096 (obsShown s.rel.obsData s.sec.unlocked))
  | _ => none

/-- Ranges 0x1800, 0x1900 and 0x1A00 (R36, R410, R499, R582, R598). -/
def State.relEntry (s : State) (i sub : Nat) : Option Entry :=
  let only (e : Option Entry) : Option Entry := if sub = 0 then e else none
  let r := s.rel
  let b := s.bist
  match i with
  | 0x1801 => only (setting 8 r.hangWindowLog2)
  | 0x1802 => only (ro 32 (min (2 ^ 32 - 1) r.hangs))
  | 0x1803 => only (ro 32 (min (2 ^ 32 - 1) r.deadlocks))
  | 0x1810 => only (setting 8 r.jayLog2)
  | 0x1811 => only (setting 64 r.jaySeed)
  | 0x1812 => array sub 3 (ro 8 3) fun k => ro 64 (if k = 0 then r.jaySampled else if k = 1 then r.jaySkipped else r.jayMismatch)
  | 0x1820 => array sub 32 (ro 8 32) fun k => ro 64 (s.slotMap k)
  | 0x1830 => array sub 32 (ro 8 32) fun k => ro 32 (s.marginWord k)
  | 0x1840 => only (setting 32 r.ftPeriod)
  | 0x1841 => only (ro 32 s.fieldTestWord)
  | 0x1850 => only (ro 32 r.cperCount)
  | 0x1851 => only (domEntry 1 1 0 67584 r.cper.flatten)
  | 0x1901 => only (setting 32 b.budgetMs)
  | 0x1902 => only (ro 64 b.word)
  | 0x1903 => only (trigger 8)
  | 0x1904 => only (trigger 8)
  | 0x1905 => only (ro 32 b.lastMs)
  | 0x1910 => array sub 51 (ro 8 51) fun k => ro 64 (Tbl.get 0 b.results k)
  | 0x1920 => array sub 5 (ro 8 5) fun d => ro 16 (s.softOf d)
  | 0x1921 => array sub 5 (ro 8 5) fun d => ro 16 (pack [(8, 8, s.fuseUsed d), (0, 8, fuseBanks d)])
  | 0x1922 => only (trigger 8)
  | 0x1923 => only (trigger 16)
  | 0x1A01 => only (ro 32 (min (2 ^ 32 - 1) s.watchAlarms))
  | 0x1A02 => only (setting 8 s.watchRate)
  | 0x1A03 => only (ro 32 (min (2 ^ 32 - 1) s.watchLate))
  | _ => none

/-- Range of partition `p`, index B + `j` (R446, R500, R549, R582, R633). -/
def State.partEntry (s : State) (p j sub : Nat) : Option Entry :=
  let P := s.part p
  let only (e : Option Entry) : Option Entry := if sub = 0 then e else none
  match j with
  | 0x00 => only (roAll 8 (match P.st with | .free => 0 | .clearing => 1 | .ready => 2 | .destroying => 3))
  | 0x01 => only (blobEntry 1 1 1 64 P.config)
  | 0x02 => only (blobEntry 1 1 1 32 (leBytes 32 P.syncRanges))
  | 0x03 => only (numEntry 3 1 3 8 (b2n P.debug))
  | 0x04 => only (roAll 8 P.tdi)
  | 0x05 => only (blobEntry 1 1 1 64 ((s.measurement (p + 1) 4).getD []))
  | 0x10 => array sub 128 (roAll 8 128) fun i => settingAll 64 (P.peersWord i)
  | 0x20 => array sub 2 (roAll 8 2) fun i => if i = 0 then blobEntry 2 0 0 128 [] else roAll 32 P.cmdExpected
  | 0x21 => array sub 2 (roAll 8 2) fun i => if i = 0 then domEntry 1 1 1 2048 (P.evLog.flatMap (leBytes 32)) else roAll 32 P.evLogLost
  | 0x30 => only (numEntry 3 1 3 64 P.traceBase)
  | 0x31 => only (numEntry 3 1 3 64 P.traceBytes)
  | 0x32 => only (numEntry 3 1 3 32 P.traceMask)
  | 0x33 => only (roAll 64 P.traceWritten)
  | 0x34 => only (roAll 64 P.traceLost)
  | 0x40 => only (numEntry 3 1 3 64 P.obsSelect)
  | 0x41 => only (domEntry 1 1 1 4096 (obsShown P.obsData (s.debugOpen p)))
  | 0x50 => array sub 6 (roAll 8 6) fun i => roAll 64 (s.workOf p (i + 1))
  | _ => none

/-- Index of an array's count entry within a partition range. -/
def isCount (j sub : Nat) : Bool := decide (sub = 0) && [0x10, 0x20, 0x21, 0x50].contains j

/-- A partition that does not exist reads as zero, except for the count entries (R503). -/
def Entry.blank (e : Entry) : Entry :=
  { e with num := 0, bytes := match e.ty with | .blob n => leBytes n 0 | _ => [] }

/-- Range 0x3000 (R628). -/
def State.meterEntry (s : State) (i sub : Nat) : Option Entry :=
  if sub ≠ 0 then none
  else
    match i with
    | 0x3001 => blobEntry 1 1 0 64 (match s.mirror.latest with | some r => r.body | none => [])
    | 0x3002 => domEntry 1 1 0 16384 Config.meterCert
    | 0x3003 => domEntry 1 1 0 300224 s.mirror.recordBytes
    | 0x3004 => ro 32 s.meterWord
    | _ => none

/-- The part of an entry runs: clusters and memory with the dies, host ports, fabric, reliability and watch with the hub. -/
def State.partRuns (s : State) (i : Nat) : Bool :=
  match i / 0x100 with
  | 0x13 => s.powered
  | 0x14 => s.powered
  | 0x15 => s.hubOn
  | 0x16 => s.hubOn
  | 0x18 => s.hubOn
  | 0x1A => s.hubOn
  | _ => true

/-- The state with what the dictionary last read of the part of entry `i`, where that part is off (R512). -/
def State.viewed (s : State) (i : Nat) : State :=
  match s.shown with
  | none => s
  | some v =>
    if s.partRuns i then s
    else
      { s with
        power := { s.power with clusters := v.clusters }
        rel := { s.rel with ftTest := v.ftTest }
        mem := { s.mem with dies := v.dies }
        fab := v.fab
        pci := v.pci
        parts := v.ports.map fun p => (p.1, { port := p.2 }) }

/-- Every entry of the dictionary, of parts that run. -/
def State.entryNow (s : State) (i sub : Nat) : Option Entry :=
  if 0x2000 ≤ i ∧ i < 0x2800 then
    let p := (i - 0x2000) / 0x100
    let e := s.partEntry p (i % 0x100) sub
    if (s.part p).st = .free ∧ !isCount (i % 0x100) sub then e.map Entry.blank else e
  else
    match i / 0x100 with
    | 0x10 => if i = 0x1000 then s.identEntry sub else none
    | 0x11 => s.mgmtEntry i sub
    | 0x12 => s.powerEntry i sub
    | 0x13 => s.powerEntry i sub
    | 0x14 => s.memEntry i sub
    | 0x15 => s.memEntry i sub
    | 0x16 => s.fabEntry i sub
    | 0x17 => s.secEntry i sub
    | 0x18 => s.relEntry i sub
    | 0x19 => s.relEntry i sub
    | 0x1A => s.relEntry i sub
    | 0x1C => s.secEntry i sub
    | 0x30 => s.meterEntry i sub
    | _ => none

/-- Every entry of the dictionary. -/
def State.entry (s : State) (i sub : Nat) : Option Entry := (s.viewed i).entryNow i sub

/-! ### Principals (R491, R492) -/

/-- Rights of a principal on an entry at index `i`: METER reads range 0x1000 and writes range 0x3000. -/
def Entry.rights (e : Entry) (i : Nat) : Principal → Nat
  | .mgmt => e.mgmt
  | .hostA => e.host
  | .hostB => e.host
  | .part _ => e.part
  | .meter => if i = 0x1000 then 1 else if 0x3000 ≤ i then 2 else 0

/-- A principal's reach: hosts reach the ranges of partitions on their port, a partition its own; METER none. -/
def State.reaches (s : State) (pr : Principal) (i : Nat) : Bool :=
  if 0x2000 ≤ i ∧ i < 0x2800 then
    let p := (i - 0x2000) / 0x100
    match pr with
    | .mgmt => true
    | .hostA => decide ((s.part p).port = 1)
    | .hostB => decide ((s.part p).port = 2)
    | .part q => decide (p = q.val)
    | .meter => false
  else true

/-- The entry as it exists for a principal, with its rights. -/
def State.entryFor (s : State) (pr : Principal) (i sub : Nat) : Option (Entry × Nat) :=
  if !s.reaches pr i then none
  else
    match s.entry i sub with
    | none => none
    | some e => if e.rights i pr = 0 then none else some (e, e.rights i pr)

/-- A principal's path to the dictionary is there: port M in P0 to P3, the window while the hub is on, that of a partition's function
where its BAR0 answers (R533, R541); not what self-test takes (R479, R504, R584). -/
def State.pathOn (s : State) : Principal → Bool
  | .mgmt => s.portM
  | .hostA => s.linksOn
  | .hostB => s.linksOn
  | .part p => s.linksOn && (s.barOpen p.val false || s.barOpen p.val true)
  | .meter => s.auxOn && s.meter.powered

/-! ### Reads (R487, R488, R493) -/

/-- Cell form. -/
def Entry.cell (e : Entry) : Nat :=
  match e.ty with
  | .num _ => e.num
  | .blob n => n
  | .domain _ => e.bytes.length

/-- During a start from P4 the part of an entry does not run yet, and has never been read: its entries are not ready (R488). A part that
is powered down reads as it did last (R512). -/
def State.unread (s : State) (i : Nat) : Bool := s.shown.isNone && !s.partRuns i

/-- A `READ`: a whole value. -/
def State.dictRead (s : State) (pr : Principal) (i sub : Nat) : Nat × Bytes :=
  match s.entryFor pr i sub with
  | none => (St.noSuchObject, [])
  | some (e, r) =>
    if !r.testBit 0 then (St.noPermission, [])
    else if s.unread i then (St.notReady, [])
    else
      match e.ty with
      | .num _ => (St.ok, leBytes 8 e.num)
      | .blob _ => (St.ok, e.bytes)
      | .domain _ => (St.badField, [])

/-- A `READ_SEG`: the part of a domain that lies in `[off, off + len)`. -/
def State.dictReadSeg (s : State) (pr : Principal) (i sub off len : Nat) : Nat × Bytes :=
  match s.entryFor pr i sub with
  | none => (St.noSuchObject, [])
  | some (e, r) =>
    if !r.testBit 0 then (St.noPermission, [])
    else if s.unread i then (St.notReady, [])
    else
      match e.ty with
      | .domain _ => if 16384 < len then (St.badField, []) else (St.ok, (e.bytes.drop off).take len)
      | _ => (St.badField, [])

/-- A read draws what it shows of free values. -/
def State.drawn (s : State) : State := { s with free := s.free + 1 }

end Sys2Proof.Machine
end

