-- ==== Sys2Proof/Machine/DictWrite.lean ====
section
/-! DEFINITION. Machine/DictWrite.lean: writes of the dictionary (R487 to R495, R501 to R503, R512) and signed parameter
images (R507 to R511). -/

namespace Sys2Proof.Machine

/-- What a write answers, none where its reply waits (R502, R510, R593), and the state after it. -/
abbrev WriteRes := Option Nat × State

def answer (r : DictRes) : WriteRes := (some r.1, r.2)

/-- A write whose effect leaves the sequencers and the meter as they were. -/
def State.around (s : State) (r : WriteRes) : WriteRes := (r.1, s.keepSeq r.2)

/-- An accepted write whose reply waits. -/
def later (r : DictRes) : WriteRes := (if r.1 = St.ok then none else some r.1, r.2)

/-- A write as it arrives: the verdict on a signature in it, and the Sirrik session and `RID` that brought it. -/
structure DictWrite where
  pr : Principal
  index : Nat
  sub : Nat
  sigOk : Bool := false
  origin : Option (Nat × Nat) := none

/-- An index with the partition number of a partition range taken out. -/
def rangeIndex (i : Nat) : Nat := if 0x2000 ≤ i ∧ i < 0x2800 then 0x2000 + i % 0x100 else i

def partOf (i : Nat) : Nat := (i - 0x2000) / 0x100 % 8

/-! ### Ranges (R494) -/

/-- The value lies in the entry's range, and its reserved bits are zero. -/
def valueOk (i v : Nat) : Bool :=
  match rangeIndex i with
  | 0x1102 => decide (2 ≤ v)
  | 0x1104 => decide (1024 ≤ v)
  | 0x1111 => decide (v = 1) || decide (v = 2)
  | 0x1201 => decide (v ≤ 2)
  | 0x1203 => decide (v < 2 ^ 19) && decide (2 ≤ bits v 18 16) && decide (bits v 18 16 ≤ 4) && decide (1 ≤ bits v 15 0) && decide (bits v 15 0 ≤ 3600)
  | 0x1204 => decide (v = 0) || (decide (800 ≤ v) && decide (v ≤ 2000))
  | 0x1410 => decide (1 ≤ v) && decide (v ≤ 168)
  | 0x1411 => decide (2 ≤ v)
  | 0x1412 => decide (v < 1024)
  | 0x1502 => decide (v ≤ 1000)
  | 0x1601 => decide (bits v 14 11 = 0)
  | 0x1602 => decide (bits v 4 0 = 0)
  | 0x1610 => decide (bits v 15 8 ≠ 0) && decide (bits v 7 0 ≠ 0)
  | 0x1611 => decide (v ≠ 0)
  | 0x1612 => decide (v < 64)
  | 0x1801 => decide (20 ≤ v) && decide (v ≤ 40)
  | 0x1810 => decide (v = 0) || (decide (4 ≤ v) && decide (v ≤ 20))
  | 0x1840 => decide (v = 0) || (decide (60 ≤ v) && decide (v ≤ 86400))
  | 0x1901 => decide (1000 ≤ v) && decide (v ≤ 600000)
  | 0x1A02 => decide (1 ≤ v) && decide (v ≤ 128)
  | 0x1C10 => decide (bits v 45 0 = 0)
  | 0x2003 => decide (v ≤ 1)
  | 0x2030 => decide (v % 65536 = 0)
  | 0x2031 => decide (v % 65536 = 0)
  | 0x2040 => decide (bits v 45 0 = 0)
  | _ => true

/-! ### Settings -/

/-- A write of a setting of port M takes effect 1 s after its reply (R478). -/
def MgmtSt.later (m : MgmtSt) (i : Nat) (b : Bytes) : MgmtSt := { m with toApply := m.toApply ++ [(i, b)] }

/-- A setting takes its value; other entries are left alone. -/
def State.putSetting (s : State) (i v : Nat) : State :=
  match i with
  | 0x1101 => { s with mgmt := { s.mgmt with plcaId := v } }
  | 0x1102 => { s with mgmt := { s.mgmt with plcaCount := v } }
  | 0x1104 => { s with mgmt := { s.mgmt with udpPort := v } }
  | 0x1201 => { s with power := { s.power with modeReg := v } }
  | 0x1204 => { s with power := { s.power with capW := v } }
  | 0x1410 => { s with mem := { s.mem with scrubPeriodH := v } }
  | 0x1411 => { s with mem := { s.mem with ceThreshold := v } }
  | 0x1502 => { s with msixMinUs := v }
  | 0x1601 => { s with fab := { s.fab with moduleId := v } }
  | 0x1602 => { s with fab := { s.fab with dims := v } }
  | 0x1610 => { s with fab := { s.fab with vcWeights := v } }
  | 0x1611 => { s with fab := { s.fab with vc0Cap := v } }
  | 0x1612 => { s with fab := { s.fab with external := v } }
  | 0x1801 => { s with rel := { s.rel with hangWindowLog2 := v } }
  | 0x1810 => { s with rel := { s.rel with jayLog2 := v } }
  | 0x1811 => { s with rel := { s.rel with jaySeed := v } }
  | 0x1840 => { s with rel := { s.rel with ftPeriod := v } }
  | 0x1901 => { s with bist := { s.bist with budgetMs := v } }
  | 0x1A02 => { s with watchRate := v }
  | 0x1C10 => { s with rel := { s.rel with obsSelect := v } }
  | _ => s

/-- A setting written by a principal. -/
def State.settingWrite (s : State) (i v : Nat) : DictRes :=
  let s := s.putSetting i v
  (St.ok, if i = 0x1101 ∨ i = 0x1102 ∨ i = 0x1104 then { s with mgmt := s.mgmt.later i (leBytes 8 v) } else s)

def State.ipv6Write (s : State) (b : Bytes) : DictRes := (St.ok, { s with mgmt := { s.mgmt with ipv6 := b }.later 0x1103 b })

/-- The oldest written setting takes effect. -/
def MgmtSt.apply (m : MgmtSt) : MgmtSt :=
  match m.toApply with
  | [] => m
  | (i, b) :: l =>
    let m := { m with toApply := l }
    match i with
    | 0x1101 => { m with effPlcaId := leNat b }
    | 0x1102 => { m with effPlcaCount := leNat b }
    | 0x1103 => { m with effIpv6 := b }
    | _ => { m with effUdpPort := leNat b }

/-! ### Fabric (R42, R44, R297, R333, R501) -/

/-- A session is open, or has yet to close (R44, R330). -/
def State.sessionsOpen (s : State) : Bool := s.fab.sessions.any fun x => decide (x.2.st = .opened) || decide (x.2.st = .closing)

/-- Entries of peer lists that name the module's own ID as it becomes valid name no peer (R501). -/
def State.voidOwn (s : State) : State :=
  (List.range 8).foldl (fun s p => s.modPart p fun P =>
    if 8 ≤ Tbl.get 0 P.peers s.myId ∧ !P.voidPeers.contains s.myId then { P with voidPeers := P.voidPeers ++ [s.myId] } else P) s

def State.moduleIdWrite (s : State) (v : Nat) : DictRes :=
  if s.sessionsOpen ∨ (v.testBit 15 ∧ !inTorus s.fab.dims (v % 2 ^ 11)) then deny s St.badState
  else
    let s := (s.putSetting 0x1601 v).recheckPorts
    (St.ok, if v.testBit 15 then s.voidOwn else s)

def State.dimsWrite (s : State) (v : Nat) : DictRes :=
  if s.sessionsOpen then deny s St.badState else (St.ok, (s.putSetting 0x1602 v).recheckPorts)

/-- The three sessions of a pair are CLOSED. -/
def State.pairClosed (s : State) (p m : Nat) : Bool := (pairKeys p m).all fun k => decide ((s.session k).st = .closed)

/-- One nibble of a peer list changes: the old pair closes, and the new one opens, at once or with `SESSION_REOPEN` once
the old one has closed. -/
def State.peerWrite (s : State) (p m v : Nat) : State :=
  let old := if (s.part p).voidPeers.contains m then 0 else Tbl.get 0 (s.part p).peers m
  let s := if (s.part p).voidPeers.contains m then s.modPart p fun P => { P with voidPeers := P.voidPeers.filter (· ≠ m) } else s
  if old = v then s
  else
    let s := if 8 ≤ old then s.closePair p m else s
    let s := s.modPart p fun P => { P with peers := Tbl.set 0 P.peers m v }
    if 8 ≤ v ∧ s.pairClosed p m then s.openPair p m else s

/-- A write of a cell of `PART_PEERS`; one that names this module's own ID is refused while it has one. -/
def State.peersWrite (s : State) (p sub v : Nat) : DictRes :=
  let base := 16 * (sub - 1)
  let nib (j : Nat) : Nat := bits v (4 * j + 3) (4 * j)
  if s.fab.moduleId.testBit 15 && (List.range 16).any fun j => decide (base + j = s.myId) && decide (8 ≤ nib j) then deny s St.badField
  else (St.ok, (List.range 16).foldl (fun (s : State) j => s.peerWrite p (base + j) (nib j)) s)

/-! ### Partitions: trace rings and commands of the station (R502, R579) -/

/-- The trace ring lies in the partition's own memory. -/
def State.traceOk (s : State) (p base bytes : Nat) : Bool := decide (bytes = 0) || s.ownsRange p base bytes

def State.traceBaseWrite (s : State) (p v : Nat) : DictRes :=
  if s.traceOk p v (s.part p).traceBytes && (decide (v = 0) || s.owns p v) then (St.ok, s.modPart p fun P => { P with traceBase := v })
  else deny s St.badField

def State.traceBytesWrite (s : State) (p v : Nat) : DictRes :=
  if s.traceOk p (s.part p).traceBase v then (St.ok, s.modPart p fun P => { P with traceBytes := v }) else deny s St.badField

/-- A write of `PART_CMD`; the reply to a command that is taken waits for its completion. -/
def State.partCmd (s : State) (p : Nat) (slot : Bytes) (origin : Option (Nat × Nat)) : WriteRes :=
  let w := leNat slot
  if s.cmds.any fun c => decide (c.src = .mgmt (partName p)) then (some St.busy, s)
  else if Slot.seq w ≠ (s.part p).cmdExpected then (some St.badState, s)
  else
    (none, (s.modPart p fun P => { P with cmdExpected := (P.cmdExpected + 1) % 2 ^ 32 }).takeCmd (.mgmt (partName p)) w origin)

/-! ### Images (R507, R508, R510) -/
namespace Img
def hdr (b : Bytes) : Nat := leNat (slice b 0 64)
def magic (b : Bytes) : Nat := bits (hdr b) 511 480
def length (b : Bytes) : Nat := bits (hdr b) 447 416
def records (b : Bytes) : Nat := bits (hdr b) 415 400
def part (b : Bytes) : Nat := bits (hdr b) 383 256
def record (b : Bytes) (k : Nat) : Nat := leNat (slice b (64 + 16 * k) 16)
end Img

def sigBytes : Nat := 4627

/-- Index and sub-index of a record, and its value. -/
def recIndex (r : Nat) : Nat := bits r 127 112
def recSub (r : Nat) : Nat := bits r 111 104
def recValue (r : Nat) : Nat := bits r 63 0

/-- Contents that a record of a string, bytes or domain entry names. -/
def recBytes (b : Bytes) (r : Nat) : Bytes := slice b (bits r 63 32) (bits r 31 0)

/-- The contents lie between the records and the signature. -/
def recInside (b : Bytes) (r : Nat) : Bool :=
  decide (64 + 16 * Img.records b ≤ bits r 63 32) && decide (bits r 63 32 + bits r 31 0 + sigBytes ≤ Img.length b)

/-- Entries of MGMT without a default: triggers and live state. -/
def noDefault (i : Nat) : Bool := [0x1111, 0x1202, 0x1412, 0x1702, 0x1710, 0x1711, 0x1903, 0x1904, 0x1922, 0x1923].contains (rangeIndex i)

/-- An image record may name the entry. -/
def recAllowed (e : Entry) (i sub : Nat) : Bool :=
  (e.mgmt.testBit 1 && !noDefault i && !(decide (rangeIndex i = 0x2020))) || (decide (sub ≠ 0) && (decide (i = 0x1120) || decide (i = 0x1121)))

/-- The record's value lies in the range of its entry. -/
def State.recOk (s : State) (b : Bytes) (r : Nat) : Bool :=
  decide (bits r 103 64 = 0) &&
  match s.entry (recIndex r) (recSub r) with
  | none => false
  | some e =>
    recAllowed e (recIndex r) (recSub r) &&
    match e.ty with
    | .num w => decide (recValue r < 2 ^ w) && valueOk (recIndex r) (recValue r)
    | .blob n => decide (bits r 31 0 = n) && recInside b r
    | .domain max => decide (bits r 31 0 ≤ max) && recInside b r

/-- No two records name the same entry. -/
def noRepeat : List Nat → Bool
  | [] => true
  | a :: l => !l.contains a && noRepeat l

/-- `SIGNER` names a key that the module has. -/
def State.signerOk (s : State) (k : Nat) : Bool := decide (k = 0) || (decide (k ≤ 4) && decide (Tbl.get [] s.mgmt.siteKeys k ≠ []))

/-- An image is valid (R508); `sigOk` is the verdict on its signature. -/
def State.imageOk (s : State) (b : Bytes) (sigOk : Bool) : Bool :=
  let rs := (List.range (Img.records b)).map (Img.record b)
  sigOk && decide (b.length = Img.length b) && decide (b.length ≤ 1048576) && decide (64 + 16 * Img.records b + sigBytes ≤ b.length) &&
  decide (Img.magic b = 0x50524B53) && decide (imageVersion b ≠ 0) && decide (bits (Img.hdr b) 391 384 = 0) && decide (bits (Img.hdr b) 255 0 = 0) &&
  decide (Img.part b = leNat (pad 16 (ascii ['V', 'G', 'K', '-', 'L', '6', 'T', '-', '1', '0', '2', '4', '0']))) &&
  s.signerOk (imageSigner b) && rs.all (s.recOk b) && noRepeat (rs.map fun r => bits r 127 104)

/-- The slot that a commit writes. -/
def MgmtSt.inactive (m : MgmtSt) : Nat := if m.active = some 0 then 1 else 0

def MgmtSt.putSlot (m : MgmtSt) (k : Nat) (x : Image) : MgmtSt := if k = 0 then { m with slot0 := x } else { m with slot1 := x }

/-- A write of 1 to `MGMT_IMAGE_COMMIT`: an accepted image is written into the inactive slot, and the reply waits. A LOCKED
module refuses one that Vangok signed (R538). -/
def State.imageCommit (s : State) (sigOk : Bool) (origin : Option (Nat × Nat)) : WriteRes :=
  if s.mgmt.committing then (some St.busy, s)
  else if !s.imageOk s.mgmt.stage sigOk then (some St.badField, s)
  else if imageVersion s.mgmt.stage ≤ imageVersion s.activeImage ∨ (s.sec.state = 3 ∧ imageSigner s.mgmt.stage = 0) then (some St.badState, s)
  else
    let m := s.mgmt.putSlot s.mgmt.inactive { data := s.mgmt.stage, valid := false, present := true }
    (none, { s with mgmt := { m with committing := true, commitReply := origin } })

def State.stageClear (s : State) : DictRes := (St.ok, { s with mgmt := { s.mgmt with stage := [] } })

/-! ### Loading defaults (R495, R509) -/

/-- A domain or bytes record; a persistent entry keeps what has been written to it. -/
def State.loadBytes (s : State) (i sub : Nat) (b : Bytes) : State :=
  match i with
  | 0x1103 => { s with mgmt := { s.mgmt with ipv6 := b } }
  | 0x1110 => { s with mgmt := { s.mgmt with stage := b } }
  | 0x1120 => { s with mgmt := { s.mgmt with anchors := Tbl.set [] s.mgmt.anchors sub b } }
  | 0x1121 => { s with mgmt := { s.mgmt with devAnchors := Tbl.set [] s.mgmt.devAnchors sub b } }
  | 0x1122 => if Tbl.get [] s.mgmt.siteKeys sub = [] then (s.siteKeyWrite sub b).2 else s
  | 0x1704 => if s.sec.siteCert = [] then { s with sec := { s.sec with siteCert := b } } else s
  | 0x1C03 => { s with sec := { s.sec with token := b } }
  | _ => s

/-- A number; of the entries of a partition range none exists at a start (R503). -/
def State.loadNum (s : State) (i v : Nat) : State :=
  if !valueOk i v then s
  else if i = 0x1203 then { s with power := { s.power with shutTarget := bits v 18 16, shutSecs := bits v 15 0, shutFrom := s.clockUs } }
  else s.putSetting i v

/-- The default that a record gives. -/
def State.loadRecord (b : Bytes) (s : State) (r : Nat) : State :=
  match s.entry (recIndex r) (recSub r) with
  | none => s
  | some e =>
    match e.ty with
    | .num _ => s.loadNum (recIndex r) (recValue r)
    | _ => s.loadBytes (recIndex r) (recSub r) (recBytes b r)

/-- Settings of port M that are in force from the start. -/
def MgmtSt.settle (m : MgmtSt) : MgmtSt :=
  { m with effPlcaId := m.plcaId, effPlcaCount := m.plcaCount, effIpv6 := m.ipv6, effUdpPort := m.udpPort }

def State.loadImage (s : State) (b : Bytes) : State :=
  let s : State := ((List.range (Img.records b)).map (Img.record b)).foldl (State.loadRecord b) s
  { s with mgmt := s.mgmt.settle }

/-! ### A write (R487, R488, R503, R509, R512) -/

/-- The entry lies in the range of a partition that does not exist: every write to it is refused (R503). -/
def State.noPart (s : State) (i : Nat) : Bool := decide (0x2000 ≤ i) && decide (i < 0x2800) && decide ((s.part (partOf i)).st = .free)

/-- What stops a write before the entry's own rule: the part is not running, recovery takes images alone, and answers a create record as
before `MODULE_READY` (R509, R517). -/
def State.writeStop (s : State) (i : Nat) : Option Nat :=
  if !s.partRuns i then some St.notReady
  else if s.mgmt.recovery ∧ i ≠ 0x1110 ∧ i ≠ 0x1111 then some (if i = 0x1710 then St.notReady else St.badState)
  else none

/-- A write of `SEC_STATE_REQ` that is refused for its form stands between two writes of 3, too (R536, log 45). -/
def State.malformedWrite (s : State) (i : Nat) : WriteRes :=
  (some St.badField, if i = 0x1702 then { s with sec := { s.sec with lockReqUs := none } } else s)

/-- The effect of a write of a number. -/
def State.applyNum (s : State) (r : DictWrite) (v : Nat) : WriteRes :=
  let p := partOf r.index
  match rangeIndex r.index with
  | 0x1111 => if v = 1 then s.imageCommit r.sigOk r.origin else answer s.stageClear
  | 0x1201 => answer (s.modeWrite v)
  | 0x1202 => answer (s.stateWrite v)
  | 0x1203 => answer (s.shutdownReq v)
  | 0x1412 => s.around (answer (St.ok, s.spareTrigger (bits v 9 8) (bits v 7 0)))
  | 0x1601 => s.around (answer (s.moduleIdWrite v))
  | 0x1602 => s.around (answer (s.dimsWrite v))
  | 0x1612 => s.around (answer (St.ok, s.setExternal v))
  | 0x1702 => answer (s.secWrite v)
  | 0x1711 => s.around (answer (s.partDestroy v))
  | 0x1903 => answer (s.fullNextWrite v)
  | 0x1904 => answer (s.skipNextWrite v)
  | 0x1922 => later (s.fuseWrite v r.origin)
  | 0x1923 => answer (s.unretireWrite v)
  | 0x1C10 => answer (St.ok, s.selectObs v)
  | 0x2003 => answer (s.debugWrite p v)
  | 0x2010 => s.around (answer (s.peersWrite p r.sub v))
  | 0x2030 => answer (s.traceBaseWrite p v)
  | 0x2031 => answer (s.traceBytesWrite p v)
  | 0x2032 => answer (St.ok, s.modPart p fun P => { P with traceMask := v })
  | 0x2040 => answer (St.ok, s.selectPartObs p v)
  | i => answer (s.settingWrite i v)

/-- The effect of a write of bytes. -/
def State.applyBlob (s : State) (r : DictWrite) (b : Bytes) : WriteRes :=
  match rangeIndex r.index with
  | 0x1103 => answer (s.ipv6Write b)
  | 0x1122 => answer (s.siteKeyWrite r.sub b)
  | 0x1710 => s.around (answer (s.partCreate b))
  | _ => s.around (s.partCmd (partOf r.index) b r.origin)

/-- A `WRITE` of a whole value. -/
def State.dictWrite (s : State) (r : DictWrite) (data : Bytes) : WriteRes :=
  match s.entryFor r.pr r.index r.sub with
  | none => (some St.noSuchObject, s)
  | some (e, rights) =>
    if s.noPart r.index then (some St.badState, s)
    else if !rights.testBit 1 then (some St.noPermission, s)
    else
      match e.ty with
      | .domain _ => (some St.badField, s)
      | .num w =>
        if data.length ≠ 8 ∨ 2 ^ w ≤ leNat data ∨ !valueOk r.index (leNat data) then s.malformedWrite r.index
        else
          match s.writeStop r.index with
          | some st => (some st, s)
          | none => s.applyNum r (leNat data)
      | .blob n =>
        if data.length ≠ n then (some St.badField, s)
        else
          match s.writeStop r.index with
          | some st => (some st, s)
          | none => s.applyBlob r data

/-- A `WRITE_SEG` of part of a domain. An unlock token is one segment, and one of a wrong length is a rejected token (R544). -/
def State.dictWriteSeg (s : State) (r : DictWrite) (off : Nat) (data : Bytes) : WriteRes :=
  match s.entryFor r.pr r.index r.sub with
  | none => (some St.noSuchObject, s)
  | some (e, rights) =>
    if s.noPart r.index then (some St.badState, s)
    else if !rights.testBit 1 then (some St.noPermission, s)
    else
      match e.ty with
      | .domain max =>
        if 16384 < data.length ∨ (max < off + data.length ∧ r.index ≠ 0x1C03) then (some St.badField, s)
        else
          match s.writeStop r.index with
          | some st => (some st, s)
          | none =>
            match r.index with
            | 0x1110 => (some St.ok, { s with mgmt := { s.mgmt with stage := splice s.mgmt.stage off data } })
            | 0x1704 => answer (s.siteCertWrite off data)
            | _ => answer (s.tokenWrite (if off = 0 then data else []) r.sigOk)
      | _ => (some St.badField, s)

end Sys2Proof.Machine
end

