-- ==== Sys2Proof/Machine/DictRows.lean ====
section
/-! DEFINITION. Machine/DictRows.lean: the commands that write the dictionary: those with rows of their own, any other
entry, the dictionary window and its segment block (R504 to R506), and the ends of writes whose replies wait. -/

namespace Sys2Proof.Machine

/-- What a principal is answered. -/
def WriteRes.report (r : WriteRes) (pr : Principal) (i sub : Nat) : State :=
  match r.1 with
  | none => r.2
  | some st => r.2.out (.write pr i sub st)

/-- A `WRITE` that no Sirrik session brings: it arrives where the principal's path is there (log 19). -/
def writeRow (pr : Principal) (i sub : Nat) (data : Bytes) (sigOk : Bool) : State → Res :=
  anyTime fun s =>
    if s.pathOn pr then WriteRes.report (s.dictWrite { pr := pr, index := i, sub := sub, sigOk := sigOk } data) pr i sub else s

def numRow (pr : Principal) (i sub v : Nat) : State → Res := writeRow pr i sub (leBytes 8 v) false

/-- A `WRITE_SEG` of MGMT. -/
def segRow (i off : Nat) (data : Bytes) (sigOk : Bool) : State → Res :=
  anyTime fun s =>
    if s.pathOn .mgmt then WriteRes.report (s.dictWriteSeg { pr := .mgmt, index := i, sub := 0, sigOk := sigOk } off data) .mgmt i 0 else s

/-- Index of an entry of a partition's range. -/
def partIndex (p : Part) (j : Nat) : Nat := 0x2000 + 0x100 * p.val + j

/-! ### Entries with rows of their own -/

def execPwrModeWrite (pr : Principal) (v : Nat) : State → Res := numRow pr 0x1201 0 v
def execFabModuleIdWrite (pr : Principal) (v : Nat) : State → Res := numRow pr 0x1601 0 v
def execFabTorusDimsWrite (pr : Principal) (v : Nat) : State → Res := numRow pr 0x1602 0 v
def execMemSpareRequest (pr : Principal) (v : Nat) : State → Res := numRow pr 0x1412 0 v
def execFabPortExternalWrite (pr : Principal) (v : Nat) : State → Res := numRow pr 0x1612 0 v
def execPartCmd (p : Part) (slot : Bytes) : State → Res := writeRow .mgmt (partIndex p 0x20) 1 slot false
def execImageCommit (sigOk : Bool) : State → Res := writeRow .mgmt 0x1111 0 (leBytes 8 1) sigOk
def execImageStageClear : State → Res := numRow .mgmt 0x1111 0 2
def execMgmtSiteKeyWrite (sub : Nat) (key : Bytes) : State → Res := writeRow .mgmt 0x1122 sub key false
def execPartPeersWrite (p : Part) (sub v : Nat) : State → Res := numRow .mgmt (partIndex p 0x10) sub v
def execPartCreate (rec : Bytes) : State → Res := writeRow .mgmt 0x1710 0 rec false
def execPartDestroy (v : Nat) : State → Res := numRow .mgmt 0x1711 0 v
def execSecToOpen : State → Res := numRow .mgmt 0x1702 0 1
def execSecToAttested : State → Res := numRow .mgmt 0x1702 0 2
def execSecToLocked : State → Res := numRow .mgmt 0x1702 0 3
def execSecSiteCertWrite (off : Nat) (data : Bytes) : State → Res := segRow 0x1704 off data false
def execPartDebugWrite (pr : Principal) (p : Part) (v : Nat) : State → Res := numRow pr (partIndex p 0x03) 0 v
def execDbgToken (token : Bytes) (sigOk : Bool) : State → Res := segRow 0x1C03 0 token sigOk
def execObsSelect (v : Nat) : State → Res := numRow .mgmt 0x1C10 0 v
def execPartObsSelect (pr : Principal) (p : Part) (v : Nat) : State → Res := numRow pr (partIndex p 0x40) 0 v
def execBistFullNext (v : Nat) : State → Res := numRow .mgmt 0x1903 0 v
def execBistSkipNext (v : Nat) : State → Res := numRow .mgmt 0x1904 0 v
def execRepFuseBurn (v : Nat) : State → Res := numRow .mgmt 0x1922 0 v
def execRepUnretire (v : Nat) : State → Res := numRow .mgmt 0x1923 0 v
def execWake (pr : Principal) : State → Res := numRow pr 0x1202 0 0
def execEnterRetention (pr : Principal) : State → Res := numRow pr 0x1202 0 2
def execEnterStandby (pr : Principal) : State → Res := numRow pr 0x1202 0 3
def execEnterOff (pr : Principal) : State → Res := numRow pr 0x1202 0 4
def execPwrShutdownReq (pr : Principal) (v : Nat) : State → Res := numRow pr 0x1203 0 v

/-- Any other entry. A commit of MGMT needs a verdict on a signature and has rows of its own; entries of range 0x3000 are written by the
meter's records alone (`METER_RECORD_ARRIVE`). -/
def execRegisterWrite (pr : Principal) (index sub : Nat) (data : Bytes) (s : State) : Res :=
  if (index = 0x1111 ∧ pr = .mgmt) ∨ (pr = .meter ∧ 0x3000 ≤ index ∧ (s.entryFor pr index sub).isSome) then .next s
  else writeRow pr index sub data false s

/-! ### Writes whose replies wait (R478, R510, R593) -/

/-- A waiting write of MGMT is answered with `OK`. -/
def State.answerLater (s : State) (origin : Option (Nat × Nat)) (i : Nat) : State :=
  match origin with
  | none => s.out (.write .mgmt i 0 St.ok)
  | some (k, rid) => s.reply k rid 0x02 St.ok []

/-- The image stands in its slot. -/
def MgmtSt.commitDone (m : MgmtSt) : MgmtSt :=
  let k := m.inactive
  let x := if k = 0 then m.slot0 else m.slot1
  { m.putSlot k { x with valid := true } with committing := false, commitReply := none }

def execImageCommitEnd : State → Res :=
  anyTime fun s =>
    if !s.mgmt.committing then s
    else ({ s with mgmt := s.mgmt.commitDone }).answerLater s.mgmt.commitReply 0x1111

def execFuseBurnEnd : State → Res :=
  anyTime fun s =>
    match s.bist.burning with
    | none => s
    | some (d, origin) => (s.fuseDone d).answerLater origin 0x1922

/-- A setting of port M takes effect, and the port works with it (R477, R478). -/
def execMgmtConfigApply : State → Res :=
  anyTime fun s =>
    if !s.auxOn ∨ s.mgmt.toApply.isEmpty then s
    else { s with mgmt := s.mgmt.apply }.out s.mgmt.apply.port

/-! ### The dictionary window (R504 to R506) -/

/-- Principal of a function's window (R491). -/
def windowPrincipal (h : HPort) (f : Fn) : Principal :=
  if f.val = 0 then (if h.val = 0 then .hostA else .hostB) else .part (partName (f.val - 1))

/-- A function's BAR0 accepts a request. -/
def State.windowOpen (s : State) (h : HPort) (f : Fn) (tee : Bool) : Bool :=
  s.linksOn && s.fnHere h.val f.val && (decide (f.val = 0) || s.barOpen (f.val - 1) tee)

/-- A request at a function whose BAR0 does not accept it is answered with Unsupported Request (R435). -/
def State.unsupportedAt (s : State) (f : Fn) : State := if f.val = 0 ∨ !s.linksOn then s else s.unsupported (f.val - 1)

/-- Offset of the segment block's control word. -/
def segControl : Nat := 0x78_0000

/-- A selection: its status, and the length of what it shows. -/
def State.selected (s : State) (pr : Principal) (v : Nat) : Nat × Nat :=
  if bits v 39 32 ≠ 0 then (St.badField, 0)
  else
    match (if bits v 63 48 < 0x3000 then s.entryFor pr (bits v 63 48) (bits v 47 40) else none) with
    | none => (St.noSuchObject, 0)
    | some (e, r) =>
      if !r.testBit 0 then (St.noPermission, 0)
      else
        match e.ty with
        | .num _ => (St.badField, 0)
        | .blob n => (St.ok, n)
        | .domain _ => (St.ok, e.bytes.length)

def State.select (s : State) (h : HPort) (f : Fn) (v : Nat) : State :=
  let r := s.selected (windowPrincipal h f) v
  s.modFunc h.val f.val fun g => { g with
    sindex := bits v 63 48
    ssub := bits v 47 40
    soffset := bits v 31 0
    sstatus := r.1
    slen := r.2 }

def execSegmentSelect (h : HPort) (f : Fn) (v : Nat) (tee : Bool) : State → Res :=
  fabric fun s => if s.windowOpen h f tee then s.select h f v else s.unsupportedAt f

/-- A write through the window: an aligned one of 8 bytes acts as a `WRITE` of its cell, and `WSTATUS` takes its status. -/
def State.cellWrite (s : State) (h : HPort) (f : Fn) (off : Nat) (data : Bytes) : State :=
  let pr := windowPrincipal h f
  let s := if f.val = 0 then s else s.addWork (f.val - 1) 6 data.length
  let r : WriteRes :=
    if data.length ≠ 8 ∨ off % 8 ≠ 0 then (some St.badField, s)
    else s.dictWrite { pr := pr, index := 0x1000 + off / 0x800, sub := off % 0x800 / 8 } data
  r.2.modFunc h.val f.val fun g => { g with wstatus := r.1.getD St.ok }

def execWindowWrite (h : HPort) (f : Fn) (off : Nat) (data : Bytes) (tee : Bool) (s : State) : Res :=
  if 2 ^ 24 < off + data.length then .fault (.malformed "WINDOW_WRITE")
  else
    anyTime (fun s =>
      if !s.windowOpen h f tee then s.unsupportedAt f
      else if off = segControl ∧ data.length = 8 then s.select h f (leNat data)
      else s.cellWrite h f off data) s

end Sys2Proof.Machine
end

