-- ==== Sys2Proof/Machine/Sirrik.lean ====
section
/-! DEFINITION. Machine/Sirrik.lean: the management port: discovery, sessions, and requests (R477 to R489, R509). The
verdicts of the seal, of certificates and of signatures are operands (log 11). -/

namespace Sys2Proof.Machine

/-- Sirrik runs: in P0 to P3, and during a start once Kentis has booted (R479, R607). -/
def State.sirrikRuns (s : State) : Bool := decide (s.power.state ≤ 3) || s.power.startStep.any fun k => decide (4 ≤ k)

/-- The module answers at port M: a datagram that the hub logic slice meets is lost, and the sessions stay (R584). -/
def State.sirrikUp (s : State) : Bool := s.sirrikRuns && s.portM

/-- Sessions that opened 24 hours ago close (R485). -/
def State.expire (s : State) : State :=
  { s with mgmt := { s.mgmt with sessions := s.mgmt.sessions.filter fun x => !x.expired s.clockUs } }

/-- A command of port M. -/
def sirrik (f : State → State) : State → Res := anyTime fun s => if s.sirrikUp then f s.expire else s

/-- A time that Sirrik keeps has passed. -/
def sirrikTimer (f : State → State) : State → Res := anyTime fun s => if s.sirrikRuns then f s.expire else s

/-- A datagram that the module discards is counted (R481). -/
def State.badDatagram (s : State) : State := { s with mgmt := { s.mgmt with badDatagrams := satAdd 32 s.mgmt.badDatagrams 1 } }

/-- A message that is not sealed, with what it says and its datagrams. -/
def State.sendPlain (s : State) (peer type session info seq : Nat) (msg : Bytes) : State :=
  (datagrams none type session seq (if type = 0x3F then leBytes 4 info else msg)).foldl (fun s d => s.out (.wire peer d))
    (s.out (.datagram peer type session info msg))

/-- An `ALERT` with a status and a retry hint in ms, before the session is open (R480). -/
def State.alert (s : State) (peer session seq status hint : Nat) : State := s.sendPlain peer 0x3F session (status * 2 ^ 16 + hint) seq []

/-! ### Discovery (R482) -/

/-- What `DISCOVER_REPLY` carries: entries 0x1000:01 to 0x1000:08, then `FAB_MODULE_ID`. -/
def State.discoverBytes (s : State) : Bytes :=
  ((span 1 8).map (fun k => (0x1000, k)) ++ [(0x1601, 0)]).flatMap fun (x : Nat × Nat) =>
    let r := s.dictRead .mgmt x.1 x.2
    respBytes 0 0x01 r.1 r.2

def execDiscover (peer : Nat) : State → Res :=
  sirrik fun s => { s with mgmt := { s.mgmt with discover := s.mgmt.discover ++ [peer] } }

/-- The delay of a `DISCOVER` has passed. -/
def execDiscoverReplySend : State → Res :=
  sirrik fun s =>
    match s.mgmt.discover with
    | [] => s
    | peer :: l => { s with mgmt := { s.mgmt with discover := l } }.sendPlain peer 0x02 0 0 0 s.discoverBytes

/-! ### Sessions (R483 to R486) -/

def State.dropSession (s : State) (k : Nat) : State :=
  { s with mgmt := { s.mgmt with sessions := s.mgmt.sessions.filter fun x => decide (x.id ≠ k) } }

def State.sirrikSession (s : State) (k : Nat) : Option SirrikSess := s.mgmt.sessions.find? fun x => decide (x.id = k)

/-- A random non-zero session ID that no session has. -/
def State.newSessionId (s : State) : Nat :=
  let r := Config.freeNat s.free
  let id (i : Nat) : Nat := 1 + (r + i) % (2 ^ 32 - 1)
  id (((List.range 5).find? fun i => s.mgmt.sessions.all fun x => decide (x.id ≠ id i)).getD 0)

/-- Payload of `OPEN2` up to the signature: ciphertext and nonce (free values), and the device chain. -/
def State.open2Body (s : State) : Bytes := freeBytes s.free 1600 ++ Config.deviceCert

/-- H1: over the payload of `OPEN1`, which is no operand of the command (log 11), and that of `OPEN2` up to the signature. -/
def State.openHash (s : State) : Bytes := Config.sha3 (freeBytes (s.free + 1600) 1600 ++ s.open2Body)

def State.open2Bytes (s : State) : Bytes := s.open2Body ++ pad sigBytes (Config.sign s.openHash)

/-- A session as `OPEN2` leaves it, with the keys that both ends derive (R483). -/
def State.newSession (s : State) (peer : Nat) : SirrikSess :=
  let key (dir : Nat) : LinkKey := sirrikKey (Config.freeNat (s.free + 3200)) s.openHash dir
  { id := s.newSessionId, peer := peer, txKey := key 1, rxKey := key 0, h1 := s.openHash, sent := 1 }

/-- `OPEN1`: ignored in a lockout, refused before the images are checked and while four sessions are kept. -/
def execOpen1 (peer : Nat) : State → Res :=
  sirrik fun s =>
    if s.mgmt.lockout then s
    else if !s.mgmt.imagesChecked then s.alert peer 0 0 St.notReady (Config.identMac % 64 * 4)
    else if 4 ≤ s.mgmt.sessions.length then s.alert peer 0 0 St.busy 0
    else
      let x := s.newSession peer
      { s with mgmt := { s.mgmt with sessions := s.mgmt.sessions ++ [x] }, free := s.free + 3201 }.sendPlain peer 0x11 x.id 0 1 s.open2Bytes

/-- A certificate or signature is rejected; the 16th time within 60 s begins a lockout (R486). -/
def State.rejectAuth (s : State) (x : SirrikSess) : State :=
  let times := (s.mgmt.rejectTimes.filter fun t => decide (s.clockUs < t + 60000000)) ++ [s.clockUs]
  let lock := decide (16 ≤ times.length)
  let s := { s with mgmt := { s.mgmt with
    authFails := satAdd 32 s.mgmt.authFails 1
    rejectTimes := if lock then [] else times
    lockout := s.mgmt.lockout || lock } }
  (s.dropSession x.id).alert x.peer x.id (x.sent + 1) St.noPermission 0

def State.putSession (s : State) (x : SirrikSess) : State :=
  { s with mgmt := { s.mgmt with sessions := s.mgmt.sessions.map fun y => if y.id = x.id then x else y } }

/-- The anchors at which a station's chain may end: the `MGMT_ANCHOR` entries, or in recovery the Vangok service anchor in ROM alone
(R483, R509). The verdict on a chain is about these (log 11). -/
def State.anchors (s : State) : List Bytes :=
  if s.mgmt.recovery then [Config.serviceAnchor] else (s.mgmt.anchors.map (·.2)).filter (· ≠ [])

/-- `OPEN3`: the session opens where the chain ends at an anchor and the signature holds. -/
def execOpen3 (session : Nat) (sealOk chainOk sigOk : Bool) : State → Res :=
  sirrik fun s =>
    match s.sirrikSession session with
    | none => s.badDatagram
    | some x =>
      if !sealOk then s.badDatagram
      else if x.isOpen then s
      else if chainOk && sigOk && !s.anchors.isEmpty then
        (x.wires 0x13 (x.sent + 1) []).foldl State.out
          ((s.putSession { x with isOpen := true, high := 1, sent := x.sent + 1, accepted := [1], lastUs := s.clockUs, openedUs := s.clockUs }).out
            (.datagram x.peer 0x13 session 0 []))
      else s.rejectAuth x

def execOpen3Timeout (session : Nat) : State → Res :=
  sirrikTimer fun s =>
    match s.sirrikSession session with
    | none => s
    | some x => if x.isOpen then s else s.dropSession session

def execSessionIdleTimeout (session : Nat) : State → Res :=
  sirrikTimer fun s =>
    match s.sirrikSession session with
    | none => s
    | some x => if x.isOpen then s.dropSession session else s

/-- The incomplete message is discarded. -/
def execFragmentTimeout (session seq : Nat) : State → Res :=
  sirrikTimer fun s =>
    match s.sirrikSession session with
    | none => s
    | some x => s.putSession { x with frags := x.frags.filter (·.1 ≠ seq) }

def execAuthLockoutEnd : State → Res :=
  sirrikTimer fun s => { s with mgmt := { s.mgmt with lockout := false } }

/-! ### Requests (R484, R487 to R489) -/

/-- A message number that the receiver accepts (R484). -/
def SirrikSess.accepts (x : SirrikSess) (seq : Nat) : Bool :=
  decide (x.high < seq) || (decide (x.high ≤ seq + 64) && !x.accepted.contains seq)

/-- The message is accepted, and what lies too far back is forgotten. -/
def SirrikSess.accept (x : SirrikSess) (seq now : Nat) : SirrikSess :=
  let high := max x.high seq
  { x with
    high := high
    accepted := (x.accepted ++ [seq]).filter fun q => decide (high ≤ q + 64)
    frags := x.frags.filter (·.1 ≠ seq)
    lastUs := now }

/-- A session through which 2^32 messages have passed in either direction closes (R485). -/
def State.closeSpent (s : State) (k : Nat) : State :=
  match s.sirrikSession k with
  | none => s
  | some x => if x.spent then s.dropSession k else s

/-- A reply that is not kept: one sent again, or `BUSY`. -/
def State.resend (s : State) (x : SirrikSess) (rid op status : Nat) (data : Bytes) : State :=
  (x.answer rid op status data).foldl State.out (s.putSession { x with sent := x.sent + 1 })

/-- The fragments of a datagram's message that have arrived with it. -/
def SirrikSess.arrived (x : SirrikSess) (hd : SirrikHdr) : Nat :=
  ((x.frags.find? fun m => decide (m.1 = hd.seq)).map (·.2)).getD 0 ||| 2 ^ hd.frag

/-- The message is whole with this datagram (R480). -/
def SirrikSess.whole (x : SirrikSess) (hd : SirrikHdr) : Bool := decide (x.arrived hd = 2 ^ hd.nfrag - 1)

/-- The datagram is a fragment of its message: `FRAG` is one of its `NFRAG`, at most 64; another is dropped (R480, log 11). -/
def fragOk (hd : SirrikHdr) : Bool := decide (hd.frag < hd.nfrag) && decide (hd.nfrag ≤ 64)

/-- A sealed datagram of an open session arrives: a message that is whole, new and of this type is passed on; one of another type has no
effect. -/
def State.message (s : State) (hd : SirrikHdr) (type : Nat) (f : SirrikSess → State → State) : State :=
  match s.sirrikSession hd.session with
  | none => s.badDatagram
  | some x =>
    if !knownDatagram hd.ver hd.type || !hd.sealOk || !x.isOpen then s.badDatagram
    else if !x.accepts hd.seq || !fragOk hd then s
    else if !x.whole hd then
      s.putSession { x with frags := x.frags.filter (·.1 ≠ hd.seq) ++ [(hd.seq, x.arrived hd)], lastUs := s.clockUs }
    else
      let x := x.accept hd.seq s.clockUs
      let s := s.putSession x
      (if hd.type = type then f x s else s).closeSpent x.id

/-- A request: a stored reply is sent again, a `RID` being carried out receives `BUSY`, and any other is carried out, or refused where
its header has a reserved bit set or a length other than its data's (R488); its reply is sent, or waits. -/
def State.request (s : State) (hd : SirrikHdr) (op : Nat) (lenOk : Bool) (f : State → Option (Nat × Bytes) × State) : State :=
  s.message hd 0x20 fun x s =>
    match x.replies.find? fun r => decide (r.1 = hd.rid) with
    | some (_, o, st, d) => s.resend x hd.rid o st d
    | none =>
      if x.inFlight.contains hd.rid then s.resend x hd.rid op St.busy []
      else if hd.reserved ≠ 0 ∨ !lenOk then s.reply x.id hd.rid op St.badField []
      else
        match f s with
        | (some (st, d), t) => t.reply x.id hd.rid op st d
        | (none, t) =>
          { t with mgmt := { t.mgmt with sessions := t.mgmt.sessions.map fun (y : SirrikSess) =>
            if y.id = x.id then { y with inFlight := y.inFlight ++ [hd.rid] } else y } }

/-- The outcome of a write as the answer to a request. -/
def WriteRes.asReply (r : WriteRes) : Option (Nat × Bytes) × State := (r.1.map fun st => (st, []), r.2)

def execSirrikRead (hd : SirrikHdr) (index sub : Nat) : State → Res :=
  sirrik fun s => s.request hd 0x01 true fun s => (some (s.dictRead .mgmt index sub), s.drawn)

def execSirrikWrite (hd : SirrikHdr) (index sub : Nat) (data : Bytes) (sigOk : Bool) : State → Res :=
  sirrik fun s => s.request hd 0x02 (decide (hd.len = data.length)) fun s =>
    WriteRes.asReply (s.dictWrite { pr := .mgmt, index := index, sub := sub, sigOk := sigOk, origin := some (hd.session, hd.rid) } data)

def execReadSeg (hd : SirrikHdr) (index sub off len : Nat) : State → Res :=
  sirrik fun s => s.request hd 0x03 true fun s => (some (s.dictReadSeg .mgmt index sub off len), s.drawn)

def execWriteSeg (hd : SirrikHdr) (index sub off : Nat) (data : Bytes) (sigOk : Bool) : State → Res :=
  sirrik fun s => s.request hd 0x04 (decide (hd.len = data.length)) fun s =>
    WriteRes.asReply (s.dictWriteSeg { pr := .mgmt, index := index, sub := sub, sigOk := sigOk, origin := some (hd.session, hd.rid) } off data)

def execSirrikClose (hd : SirrikHdr) : State → Res :=
  sirrik fun s => s.message hd 0x30 fun x s => s.dropSession x.id

end Sys2Proof.Machine
end

