-- ==== Sys2Proof/Machine/StartUp.lean ====
section
/-! DEFINITION. Machine/StartUp.lean: the start-up timeline (R606 to R609), what it does with parameter images (R509),
memory training (R284, R286 to R288) and repairs (R283, R591, R593), and `MODULE_READY` (R29, R205). -/

namespace Sys2Proof.Machine

/-- Rail group `g` comes up (R606). -/
def State.railOn (s : State) (g : Nat) : State :=
  if s.power.rails.testBit (g - 1) then s else { s with power := { s.power with rails := s.power.rails + 2 ^ (g - 1) } }

/-! ### Kentis boots (R544, R607) -/

/-- The module starts at D0 with a new challenge, and counts that run since the start begin again. -/
def State.boot (s : State) : State :=
  { s with
    sec := { s.sec with unlocked := false, tokenFails := 0 }
    rel := { s.rel with hangs := 0, deadlocks := 0, eligible := [] }
    watchAlarms := 0
    fab := { s.fab with openHigh := 0 }
    power := { s.power with throttleEvents := 0 } }.drawChallenge

/-! ### Parameter images (R509) -/

/-- The valid slot with the higher `VERSION`. -/
def MgmtSt.choose (m : MgmtSt) : Option Nat :=
  if m.slot0.valid && (!m.slot1.valid || decide (imageVersion m.slot1.data ≤ imageVersion m.slot0.data)) then some 0
  else if m.slot1.valid then some 1
  else none

/-- Both slots are checked; the verdicts on their signatures are the command's. -/
def State.checkSlots (s : State) (sig0 sig1 : Bool) : State :=
  let m := s.mgmt
  let v0 := m.slot0.present && s.imageOk m.slot0.data sig0
  let v1 := m.slot1.present && s.imageOk m.slot1.data sig1
  { s with mgmt := { m with slot0 := { m.slot0 with valid := v0 }, slot1 := { m.slot1 with valid := v1 }, imagesChecked := true } }

/-- Without a valid image the module is in recovery, and stays in P3. -/
def State.enterRecovery (s : State) : State :=
  { s with
    mgmt := { s.mgmt with recovery := true, active := none }
    power := { s.power with state := 3, rails := 3, startStep := none, toState := none } }

/-- The active image is chosen and its defaults are loaded. -/
def State.loadActive (s : State) : State :=
  match s.mgmt.choose with
  | none => s.enterRecovery
  | some k =>
    let s := { s with mgmt := { s.mgmt with active := some k, recovery := false } }
    s.loadImage (if k = 0 then s.mgmt.slot0.data else s.mgmt.slot1.data)

/-! ### Memory training (R284, R287, R288) -/

/-- A running sparing event is completed without copying (R284). -/
def State.endSparing (s : State) (d : Nat) : State :=
  match (s.die d).events.find? (s.die d).runs with
  | none => s
  | some e =>
    let s := s.modDie d fun x => { x with events := x.events.map fun y => if y = e then { e with complete := true } else y }
    ((s.modSubch d e.f fun x => { x with st := 4 }).raiseFills d e).cperSparing d e.f 4

/-- Events that wait or copy as the module starts from P3 or P4: no unit holds contents, and each completes at once, in order
(R276, R283). -/
def State.settleSparing (s : State) (d : Nat) : State :=
  let s := s.endSparing d
  (s.die d).pending.foldl (fun s c => if 7 ≤ (s.die d).events.length then s.failSubch d c else s.startSparing d c) s

/-- Units of a partition on a die. -/
def State.unitsOn (s : State) (p d : Nat) : List Nat := (s.unitsOf p).filter fun u => decide (u / 155 = d)

/-- Contents of a die are lost: its allocated units are cleared, in ascending order (R294), and their partitions are told. -/
def State.loseDie (s : State) (d : Nat) : State :=
  let owned := (s.mem.units.filter fun u => decide (u.1 / 155 = d) && decide (u.2.st = .owned)).map (·.1)
  let lost (p : Nat) : Nat := (owned.filter fun u => decide ((s.memUnit u).part = p)).length
  (List.range 8).foldl (fun (t : State) p => if lost p = 0 then t else t.event p 0x03 (pack [(0, 2, d), (2, 16, lost p)]))
    (s.enterClearing owned fun x => { x with toOwned := true })

/-- A sub-channel that fails training, 256 × die + sub-channel: one that was SPARED or FAILED is not trained. -/
def State.trainFailed (s : State) (c : Nat) : State :=
  let d := c / 256
  let c := c % 256
  if 4 ≤ d ∨ 4 ≤ (s.subch d c).st then s
  else if s.power.startFrom ≠ 2 then s.spareTrigger d c
  else
    let s := s.endSparing d
    if (s.subch d c).st = 2 then (if 7 ≤ (s.die d).events.length then s.failSubch d c else (s.startSparing d c).endSparing d)
    else (s.spareTrigger d c).endSparing d

/-- Training of the dies: quick where stored results pass their checks, full otherwise. -/
def State.trainMemory (s : State) (rep : StartReport) : State :=
  let quick := decide (s.power.startFrom = 2) || (s.mem.trainStored && rep.checksPass)
  let failed := nub rep.failed
  let fresh := failed.filter fun c => decide (c / 256 < 4) && decide ((s.subch (c / 256) (c % 256)).st < 4)
  let s := { s with mem := { s.mem with trainLast := b2n (quick && rep.slow.isEmpty && fresh.isEmpty) } }
  let s : State := if s.power.startFrom = 2 then s else (List.range 4).foldl State.settleSparing s
  let s : State := failed.foldl State.trainFailed s
  if s.power.startFrom ≠ 2 then s
  else ((List.range 4).filter fun d => fresh.any fun c => decide (c / 256 = d)).foldl State.loseDie s

/-! ### The timeline (R607, R609) -/

/-- Plugged ports train, without the pairs that self-test found failing (R591); one whose module declares too high a power
class stays DOWN, with a record (R640). -/
def State.trainPorts (s : State) : State :=
  (List.range 6).foldl (fun (s : State) w =>
    let s := s.startPort w
    let p := s.port w
    if !p.plugged ∨ p.st ≠ .down then s else if p.lowPower then s.cperPort 0x0008 w 0 false else s.beginTraining w) s

/-- What step `k` of the timeline does as it completes. -/
def State.startStepDone (s : State) (k : Nat) (rep : StartReport) : State :=
  match k with
  | 0 => s.railOn 1
  | 1 => s.railOn 2
  | 2 => s.railOn 3
  | 3 => s.boot
  | 4 =>
    if s.power.startFrom = 4 then
      let t := (s.checkSlots rep.image0 rep.image1).loadActive
      t.out t.mgmt.port
    else s
  | 6 => s.keepSeq s.trainPorts
  | 7 => (((s.railOn 4).railOn 5).railOn 6).railOn 7
  | 9 => s.keepSeq (s.trainMemory rep)
  | 10 => { s with power := { s.power with links := [] } }
  | 11 => { s with mem := { s.mem with trainStored := true } }
  | _ => s

/-- The step at hand completes, and the next one begins; the twelfth is `MODULE_READY`. -/
def execStartUpStep (rep : StartReport) : State → Res :=
  anyTime fun s =>
    match s.power.startStep with
    | none => s
    | some k =>
      if 12 ≤ k then s
      else
        let t := s.startStepDone k rep
        if t.power.startStep = none then t else { t with power := { t.power with startStep := some (k + 1) } }

/-- Objects are free after a start; those kept through P2 are written back (R205). -/
def State.startObjects (s : State) : State :=
  if s.power.startFrom = 2 then { s with sync := { s.sync with objs := s.power.keptObjs } } else { s with sync := {} }

def execModuleReady (ms : Nat) : State → Res :=
  anyTime fun s =>
    if s.power.startStep ≠ some 12 then s
    else
      let t := s.startObjects
      let t := if s.power.startFrom = 2 then t else t.applySelfTest
      { t with power := { t.power with
          state := 0, ready := true, readyMs := ms, mode := t.power.modeReg, modeDeferred := none, toState := none
          startStep := none, keptObjs := [] } }

end Sys2Proof.Machine
end

