-- ==== Sys2Proof/Machine/Connectors.lean ====
section
/-! DEFINITION. Machine/Connectors.lean: cables and on-board links (R19, R23, R640, R641). -/

namespace Sys2Proof.Machine

/-- A cable or an optical module is plugged: the port trains, or stays DOWN where its power class passes 8 W. A cage of a
module whose hub is off trains at the next start. -/
def execCablePlug (w : WPort) (watts : Nat) : State → Res :=
  anyTime fun s =>
    let p := s.port w.val
    if p.plugged then s
    else
      let s := s.modPort w.val fun p => { p with plugged := true, lowPower := decide (8 < watts) }
      if !s.hubOn then s
      else
        let t : State := if 8 < watts then (s.modPort w.val fun p => { p.fresh with st := .down }).cperPort 0x0008 w.val 0 false else s.beginTraining w.val
        if p.st = .failed then s.keepSeq t.announce else t

/-- A cable is pulled: the port is FAILED at once. -/
def execCablePull (w : WPort) : State → Res :=
  anyTime fun s =>
    let p := s.port w.val
    if !p.plugged then s
    else
      let s := s.modPort w.val fun p => { p with plugged := false, lowPower := false }
      if s.hubOn ∧ p.st ≠ .down then s.keepSeq (s.failPort w.val) else s

/-- Width of an on-board link that has `n` good lanes: 16, 12 or 8, or 0 for a failed link. -/
def linkLanes (n : Nat) : Nat := if 16 ≤ n then 16 else if 12 ≤ n then 12 else if 8 ≤ n then 8 else 0

/-- Lanes of an on-board link fail: it goes on at 12 and then at 8, and with fewer it is marked failed. -/
def execOnBoardLinkLaneFailure (link : Fin 10) (lanes : Nat) : State → Res :=
  clocks fun s =>
    { s with power := { s.power with
      links := Tbl.upd 16 s.power.links link.val fun n => min n (linkLanes lanes) } }

end Sys2Proof.Machine
end

