-- ==== Sys2Proof/Machine/Dispatch.lean ====
section
/-! DEFINITION. Machine/Dispatch.lean: one arm per command, each a direct call of its meaning. -/

namespace Sys2Proof.Machine

def exec (i : Instr) (s : State) : Host.Outcome State Fault Refusal :=
  match i with
  | .powerOn mv => Sys2Proof.Machine.execPowerOn mv s
  | .presNHigh => Sys2Proof.Machine.execPresNHigh s
  | .inputUndervoltage => Sys2Proof.Machine.execInputUndervoltage s
  | .inputOvervoltage mv => Sys2Proof.Machine.execInputOvervoltage mv s
  | .wakeN => Sys2Proof.Machine.execWakeN s
  | .startUpStep rep => Sys2Proof.Machine.execStartUpStep rep s
  | .moduleReady ms => Sys2Proof.Machine.execModuleReady ms s
  | .pwrModeWrite pr v => Sys2Proof.Machine.execPwrModeWrite pr v s
  | .modeChangeStep => Sys2Proof.Machine.execModeChangeStep s
  | .deferredModeChange => Sys2Proof.Machine.execDeferredModeChange s
  | .fabModuleIdWrite pr v => Sys2Proof.Machine.execFabModuleIdWrite pr v s
  | .fabTorusDimsWrite pr v => Sys2Proof.Machine.execFabTorusDimsWrite pr v s
  | .freshOut c q ue => Sys2Proof.Machine.execFreshOut c q ue s
  | .freshHold c q ue => Sys2Proof.Machine.execFreshHold c q ue s
  | .addHold c q ue => Sys2Proof.Machine.execAddHold c q ue s
  | .addOut c q ue => Sys2Proof.Machine.execAddOut c q ue s
  | .meOpStart c ue => Sys2Proof.Machine.execMeOpStart c ue s
  | .arrayPassEnd c => Sys2Proof.Machine.execArrayPassEnd c s
  | .meOpComplete c => Sys2Proof.Machine.execMeOpComplete c s
  | .accSummary c q => Sys2Proof.Machine.execAccSummary c q s
  | .accAgree c q ue => Sys2Proof.Machine.execAccAgree c q ue s
  | .accApply c q ue => Sys2Proof.Machine.execAccApply c q ue s
  | .accFree c q => Sys2Proof.Machine.execAccFree c q s
  | .accRead c q => Sys2Proof.Machine.execAccRead c q s
  | .bankTransferArrive n => Sys2Proof.Machine.execBankTransferArrive n s
  | .bankTransferAdd c => Sys2Proof.Machine.execBankTransferAdd c s
  | .sop c q ue => Sys2Proof.Machine.execSop c q ue s
  | .merge c q ue => Sys2Proof.Machine.execMerge c q ue s
  | .weightUpdate c q ue => Sys2Proof.Machine.execWeightUpdate c q ue s
  | .tileTokenTake c ue => Sys2Proof.Machine.execTileTokenTake c ue s
  | .seOpComplete c => Sys2Proof.Machine.execSeOpComplete c s
  | .nop c q => Sys2Proof.Machine.execNop c q s
  | .endQ c q => Sys2Proof.Machine.execEndQ c q s
  | .loop c q => Sys2Proof.Machine.execLoop c q s
  | .lbrk c q => Sys2Proof.Machine.execLbrk c q s
  | .br c q => Sys2Proof.Machine.execBr c q s
  | .lidx c q => Sys2Proof.Machine.execLidx c q s
  | .lcw c q => Sys2Proof.Machine.execLcw c q s
  | .lcr c q => Sys2Proof.Machine.execLcr c q s
  | .movi c q => Sys2Proof.Machine.execMovi c q s
  | .add c q => Sys2Proof.Machine.execAdd c q s
  | .sub c q => Sys2Proof.Machine.execSub c q s
  | .mul c q => Sys2Proof.Machine.execMul c q s
  | .and c q => Sys2Proof.Machine.execAnd c q s
  | .or c q => Sys2Proof.Machine.execOr c q s
  | .xor c q => Sys2Proof.Machine.execXor c q s
  | .shl c q => Sys2Proof.Machine.execShl c q s
  | .shr c q => Sys2Proof.Machine.execShr c q s
  | .sar c q => Sys2Proof.Machine.execSar c q s
  | .min c q => Sys2Proof.Machine.execMin c q s
  | .max c q => Sys2Proof.Machine.execMax c q s
  | .slt c q => Sys2Proof.Machine.execSlt c q s
  | .sltu c q => Sys2Proof.Machine.execSltu c q s
  | .seq c q => Sys2Proof.Machine.execSeq c q s
  | .ld c q ue => Sys2Proof.Machine.execLd c q ue s
  | .st c q => Sys2Proof.Machine.execSt c q s
  | .getid c q => Sys2Proof.Machine.execGetid c q s
  | .instructionFetch c q addr n ue => Sys2Proof.Machine.execInstructionFetch c q addr n ue s
  | .queueEnded c q => Sys2Proof.Machine.execQueueEnded c q s
  | .waitResume c q => Sys2Proof.Machine.execWaitResume c q s
  | .sig c q => Sys2Proof.Machine.execSig c q s
  | .waitacq c q => Sys2Proof.Machine.execWaitacq c q s
  | .dec c q => Sys2Proof.Machine.execDec c q s
  | .fset c q => Sys2Proof.Machine.execFset c q s
  | .fclr c q => Sys2Proof.Machine.execFclr c q s
  | .fwait c q => Sys2Proof.Machine.execFwait c q s
  | .bar c q => Sys2Proof.Machine.execBar c q s
  | .barnb c q => Sys2Proof.Machine.execBarnb c q s
  | .syncOpArrive n => Sys2Proof.Machine.execSyncOpArrive n s
  | .boundSignal n => Sys2Proof.Machine.execBoundSignal n s
  | .remoteRefusal n => Sys2Proof.Machine.execRemoteRefusal n s
  | .deadlockCheck c q => Sys2Proof.Machine.execDeadlockCheck c q s
  | .xfer c q ue => Sys2Proof.Machine.execXfer c q ue s
  | .gather c q ue => Sys2Proof.Machine.execGather c q ue s
  | .scatter c q ue => Sys2Proof.Machine.execScatter c q ue s
  | .scatterAdd c q ue => Sys2Proof.Machine.execScatterAdd c q ue s
  | .bank c q => Sys2Proof.Machine.execBank c q s
  | .shadowStart c ue => Sys2Proof.Machine.execShadowStart c ue s
  | .statusWordWrite c => Sys2Proof.Machine.execStatusWordWrite c s
  | .boundCompletion c n => Sys2Proof.Machine.execBoundCompletion c n s
  | .dmaTransferFault c => Sys2Proof.Machine.execDmaTransferFault c s
  | .patrolScrub d ch line found => Sys2Proof.Machine.execPatrolScrub d ch line found s
  | .patrolPeriodEnd d ch => Sys2Proof.Machine.execPatrolPeriodEnd d ch s
  | .memSpareRequest pr v => Sys2Proof.Machine.execMemSpareRequest pr v s
  | .sparingCopyStart d => Sys2Proof.Machine.execSparingCopyStart d s
  | .sparingCopyEnd d bad => Sys2Proof.Machine.execSparingCopyEnd d bad s
  | .unitClearStart d => Sys2Proof.Machine.execUnitClearStart d s
  | .unitClearEnd d => Sys2Proof.Machine.execUnitClearEnd d s
  | .linkUp w rep => Sys2Proof.Machine.execLinkUp w rep s
  | .linkSecuring w ok reason => Sys2Proof.Machine.execLinkSecuring w ok reason s
  | .securingRetry w => Sys2Proof.Machine.execSecuringRetry w s
  | .rekey w => Sys2Proof.Machine.execRekey w s
  | .laneBad w lane => Sys2Proof.Machine.execLaneBad w lane s
  | .lanePairTest w passed => Sys2Proof.Machine.execLanePairTest w passed s
  | .flitSend w => Sys2Proof.Machine.execFlitSend w s
  | .vc0TokenRefill w => Sys2Proof.Machine.execVc0TokenRefill w s
  | .msgFlitReceive w f => Sys2Proof.Machine.execMsgFlitReceive w f s
  | .idleFlitReceive w f => Sys2Proof.Machine.execIdleFlitReceive w f s
  | .retryFlitReceive w f => Sys2Proof.Machine.execRetryFlitReceive w f s
  | .linkctlFlitReceive w f => Sys2Proof.Machine.execLinkctlFlitReceive w f s
  | .replayTimeout w => Sys2Proof.Machine.execReplayTimeout w s
  | .portRetrainEnd w ok => Sys2Proof.Machine.execPortRetrainEnd w ok s
  | .failedPortRetry w => Sys2Proof.Machine.execFailedPortRetry w s
  | .fabWrite m => Sys2Proof.Machine.execFabWrite m s
  | .readReq m => Sys2Proof.Machine.execReadReq m s
  | .readResp m => Sys2Proof.Machine.execReadResp m s
  | .sync m => Sys2Proof.Machine.execSync m s
  | .ack m => Sys2Proof.Machine.execAck m s
  | .hold m => Sys2Proof.Machine.execHold m s
  | .openReq m => Sys2Proof.Machine.execOpenReq m s
  | .openQueueServe => Sys2Proof.Machine.execOpenQueueServe s
  | .openReply m => Sys2Proof.Machine.execOpenReply m s
  | .openRetry p peer => Sys2Proof.Machine.execOpenRetry p peer s
  | .close m => Sys2Proof.Machine.execClose m s
  | .closeReply m => Sys2Proof.Machine.execCloseReply m s
  | .linkState w m => Sys2Proof.Machine.execLinkState w m s
  | .sessionResendTimeout p cls peer => Sys2Proof.Machine.execSessionResendTimeout p cls peer s
  | .fabPortExternalWrite pr v => Sys2Proof.Machine.execFabPortExternalWrite pr v s
  | .roundTrigger p h => Sys2Proof.Machine.execRoundTrigger p h s
  | .xchRoll m => Sys2Proof.Machine.execXchRoll m s
  | .xchAgree m => Sys2Proof.Machine.execXchAgree m s
  | .xchWx m => Sys2Proof.Machine.execXchWx m s
  | .xchBfx m => Sys2Proof.Machine.execXchBfx m s
  | .xchProbe m => Sys2Proof.Machine.execXchProbe m s
  | .xchPiece m => Sys2Proof.Machine.execXchPiece m s
  | .xchCount m => Sys2Proof.Machine.execXchCount m s
  | .xchQuota m => Sys2Proof.Machine.execXchQuota m s
  | .xchToken m => Sys2Proof.Machine.execXchToken m s
  | .xchReturn m => Sys2Proof.Machine.execXchReturn m s
  | .xchAbort m => Sys2Proof.Machine.execXchAbort m s
  | .xchHoldTimeout p n => Sys2Proof.Machine.execXchHoldTimeout p n s
  | .exportBank n => Sys2Proof.Machine.execExportBank n s
  | .roundEnd p h => Sys2Proof.Machine.execRoundEnd p h s
  | .roundTimeout p h => Sys2Proof.Machine.execRoundTimeout p h s
  | .layoutDrained p g => Sys2Proof.Machine.execLayoutDrained p g s
  | .stash p h => Sys2Proof.Machine.execStash p h s
  | .stashCopyEnd p h j => Sys2Proof.Machine.execStashCopyEnd p h j s
  | .backwardStart p h => Sys2Proof.Machine.execBackwardStart p h s
  | .slotDue p h => Sys2Proof.Machine.execSlotDue p h s
  | .slotRestoreEnd p h j remote => Sys2Proof.Machine.execSlotRestoreEnd p h j remote s
  | .checkpointEnd p lost => Sys2Proof.Machine.execCheckpointEnd p lost s
  | .restoreEnd p images => Sys2Proof.Machine.execRestoreEnd p images s
  | .layerWatch p => Sys2Proof.Machine.execLayerWatch p s
  | .tensorWatchScan p => Sys2Proof.Machine.execTensorWatchScan p s
  | .tensorScanEnd p t => Sys2Proof.Machine.execTensorScanEnd p t s
  | .scaleLocalPhase p => Sys2Proof.Machine.execScaleLocalPhase p s
  | .scaleApplyPhase p => Sys2Proof.Machine.execScaleApplyPhase p s
  | .ringEnable p r tee => Sys2Proof.Machine.execRingEnable p r tee s
  | .ringDisable p r tee => Sys2Proof.Machine.execRingDisable p r tee s
  | .ringControlWrite p r off data tee => Sys2Proof.Machine.execRingControlWrite p r off data tee s
  | .slotWrite p r off data tee => Sys2Proof.Machine.execSlotWrite p r off data tee s
  | .completionRecord p r => Sys2Proof.Machine.execCompletionRecord p r s
  | .msixPeriodEnd h f v => Sys2Proof.Machine.execMsixPeriodEnd h f v s
  | .bar2Write p off data tee => Sys2Proof.Machine.execBar2Write p off data tee s
  | .bar2Resize p log2 => Sys2Proof.Machine.execBar2Resize p log2 s
  | .configRequest h f => Sys2Proof.Machine.execConfigRequest h f s
  | .pciLinkUp h rate width flit => Sys2Proof.Machine.execPciLinkUp h rate width flit s
  | .perst h => Sys2Proof.Machine.execPerst h s
  | .flr p => Sys2Proof.Machine.execFlr p s
  | .linkDown h => Sys2Proof.Machine.execLinkDown h s
  | .hostCompletionTimeout who => Sys2Proof.Machine.execHostCompletionTimeout who s
  | .negotiateAlgorithms h f supported => Sys2Proof.Machine.execNegotiateAlgorithms h f supported s
  | .getMeasurements h f ix => Sys2Proof.Machine.execGetMeasurements h f ix s
  | .keyExchange h f mutAuth anchored => Sys2Proof.Machine.execKeyExchange h f mutAuth anchored s
  | .ideKm h f session => Sys2Proof.Machine.execIdeKm h f session s
  | .lockInterface p session => Sys2Proof.Machine.execLockInterface p session s
  | .startInterface p session => Sys2Proof.Machine.execStartInterface p session s
  | .stopInterface p session => Sys2Proof.Machine.execStopInterface p session s
  | .ideIntegrityFailure p => Sys2Proof.Machine.execIdeIntegrityFailure p s
  | .identify src => Sys2Proof.Machine.execIdentify src s
  | .ctxCreate src => Sys2Proof.Machine.execCtxCreate src s
  | .ctxDestroy src => Sys2Proof.Machine.execCtxDestroy src s
  | .ctxReleaseComplete src => Sys2Proof.Machine.execCtxReleaseComplete src s
  | .ctxSuspend src => Sys2Proof.Machine.execCtxSuspend src s
  | .ctxSaveComplete src => Sys2Proof.Machine.execCtxSaveComplete src s
  | .ctxResume src => Sys2Proof.Machine.execCtxResume src s
  | .hostmapAdd src => Sys2Proof.Machine.execHostmapAdd src s
  | .hostmapRemove src => Sys2Proof.Machine.execHostmapRemove src s
  | .progLoad src ue => Sys2Proof.Machine.execProgLoad src ue s
  | .queueStart src => Sys2Proof.Machine.execQueueStart src s
  | .queueResume src => Sys2Proof.Machine.execQueueResume src s
  | .queueStop src => Sys2Proof.Machine.execQueueStop src s
  | .queueStopDrained src => Sys2Proof.Machine.execQueueStopDrained src s
  | .copy src ue => Sys2Proof.Machine.execCopy src ue s
  | .fill src => Sys2Proof.Machine.execFill src s
  | .syncAlloc src => Sys2Proof.Machine.execSyncAlloc src s
  | .syncFree src => Sys2Proof.Machine.execSyncFree src s
  | .syncSet src => Sys2Proof.Machine.execSyncSet src s
  | .syncRead src => Sys2Proof.Machine.execSyncRead src s
  | .collGroupDefine src => Sys2Proof.Machine.execCollGroupDefine src s
  | .collGroupRemove src => Sys2Proof.Machine.execCollGroupRemove src s
  | .collStart src => Sys2Proof.Machine.execCollStart src s
  | .collCancel src => Sys2Proof.Machine.execCollCancel src s
  | .epochAdvance src => Sys2Proof.Machine.execEpochAdvance src s
  | .shardRegister src => Sys2Proof.Machine.execShardRegister src s
  | .shardRemove src => Sys2Proof.Machine.execShardRemove src s
  | .shardRead src => Sys2Proof.Machine.execShardRead src s
  | .offloadArm src lent => Sys2Proof.Machine.execOffloadArm src lent s
  | .offloadDisarm src => Sys2Proof.Machine.execOffloadDisarm src s
  | .lend src => Sys2Proof.Machine.execLend src s
  | .revoke src => Sys2Proof.Machine.execRevoke src s
  | .ckptBegin src found => Sys2Proof.Machine.execCkptBegin src found s
  | .ckptRestore src => Sys2Proof.Machine.execCkptRestore src s
  | .watchDefine src => Sys2Proof.Machine.execWatchDefine src s
  | .watchRemove src => Sys2Proof.Machine.execWatchRemove src s
  | .watchRead src => Sys2Proof.Machine.execWatchRead src s
  | .fence src => Sys2Proof.Machine.execFence src s
  | .dumpFetch src => Sys2Proof.Machine.execDumpFetch src s
  | .recoveryPolicy src => Sys2Proof.Machine.execRecoveryPolicy src s
  | .shutdownPrepare src => Sys2Proof.Machine.execShutdownPrepare src s
  | .shutdownPrepareTimeout src => Sys2Proof.Machine.execShutdownPrepareTimeout src s
  | .shutdownCancel src => Sys2Proof.Machine.execShutdownCancel src s
  | .partCmd p slot => Sys2Proof.Machine.execPartCmd p slot s
  | .discover peer => Sys2Proof.Machine.execDiscover peer s
  | .discoverReplySend => Sys2Proof.Machine.execDiscoverReplySend s
  | .open1 peer => Sys2Proof.Machine.execOpen1 peer s
  | .open3 session sealOk chainOk sigOk => Sys2Proof.Machine.execOpen3 session sealOk chainOk sigOk s
  | .open3Timeout session => Sys2Proof.Machine.execOpen3Timeout session s
  | .sirrikRead hd index sub => Sys2Proof.Machine.execSirrikRead hd index sub s
  | .sirrikWrite hd index sub data sigOk => Sys2Proof.Machine.execSirrikWrite hd index sub data sigOk s
  | .readSeg hd index sub off len => Sys2Proof.Machine.execReadSeg hd index sub off len s
  | .writeSeg hd index sub off data sigOk => Sys2Proof.Machine.execWriteSeg hd index sub off data sigOk s
  | .sirrikClose hd => Sys2Proof.Machine.execSirrikClose hd s
  | .sessionIdleTimeout session => Sys2Proof.Machine.execSessionIdleTimeout session s
  | .fragmentTimeout session seq => Sys2Proof.Machine.execFragmentTimeout session seq s
  | .authLockoutEnd => Sys2Proof.Machine.execAuthLockoutEnd s
  | .mgmtConfigApply => Sys2Proof.Machine.execMgmtConfigApply s
  | .registerWrite pr index sub data => Sys2Proof.Machine.execRegisterWrite pr index sub data s
  | .windowWrite h f off data tee => Sys2Proof.Machine.execWindowWrite h f off data tee s
  | .segmentSelect h f v tee => Sys2Proof.Machine.execSegmentSelect h f v tee s
  | .imageCommit sigOk => Sys2Proof.Machine.execImageCommit sigOk s
  | .imageStageClear => Sys2Proof.Machine.execImageStageClear s
  | .mgmtSiteKeyWrite sub key => Sys2Proof.Machine.execMgmtSiteKeyWrite sub key s
  | .partPeersWrite p sub v => Sys2Proof.Machine.execPartPeersWrite p sub v s
  | .partCreate rec => Sys2Proof.Machine.execPartCreate rec s
  | .partDestroy v => Sys2Proof.Machine.execPartDestroy v s
  | .secToOpen => Sys2Proof.Machine.execSecToOpen s
  | .secToAttested => Sys2Proof.Machine.execSecToAttested s
  | .secToLocked => Sys2Proof.Machine.execSecToLocked s
  | .secSiteCertWrite off data => Sys2Proof.Machine.execSecSiteCertWrite off data s
  | .partDebugWrite pr p v => Sys2Proof.Machine.execPartDebugWrite pr p v s
  | .dbgToken token sigOk => Sys2Proof.Machine.execDbgToken token sigOk s
  | .hangDetected c u => Sys2Proof.Machine.execHangDetected c u s
  | .stallDetected x => Sys2Proof.Machine.execStallDetected x s
  | .engineResetDone c u => Sys2Proof.Machine.execEngineResetDone c u s
  | .suspectCleared c u => Sys2Proof.Machine.execSuspectCleared c u s
  | .jayCompare c origin checker third fourth => Sys2Proof.Machine.execJayCompare c origin checker third fourth s
  | .strikeExpiry k slot => Sys2Proof.Machine.execStrikeExpiry k slot s
  | .marginReturn k => Sys2Proof.Machine.execMarginReturn k s
  | .fieldTestStart => Sys2Proof.Machine.execFieldTestStart s
  | .fieldTestEnd pass => Sys2Proof.Machine.execFieldTestEnd pass s
  | .migration c => Sys2Proof.Machine.execMigration c s
  | .obsSelect v => Sys2Proof.Machine.execObsSelect v s
  | .partObsSelect pr p v => Sys2Proof.Machine.execPartObsSelect pr p v s
  | .selfTestSliceEnd result detail ms faults => Sys2Proof.Machine.execSelfTestSliceEnd result detail ms faults s
  | .bistFullNext v => Sys2Proof.Machine.execBistFullNext v s
  | .bistSkipNext v => Sys2Proof.Machine.execBistSkipNext v s
  | .repFuseBurn v => Sys2Proof.Machine.execRepFuseBurn v s
  | .fuseBurnEnd => Sys2Proof.Machine.execFuseBurnEnd s
  | .repUnretire v => Sys2Proof.Machine.execRepUnretire v s
  | .wake pr => Sys2Proof.Machine.execWake pr s
  | .enterRetention pr => Sys2Proof.Machine.execEnterRetention pr s
  | .enterStandby pr => Sys2Proof.Machine.execEnterStandby pr s
  | .enterOff pr => Sys2Proof.Machine.execEnterOff pr s
  | .pwrShutdownReq pr v => Sys2Proof.Machine.execPwrShutdownReq pr v s
  | .shutdownNoticeExpiry => Sys2Proof.Machine.execShutdownNoticeExpiry s
  | .clusterClockGate k => Sys2Proof.Machine.execClusterClockGate k s
  | .throttleStepDown k temp => Sys2Proof.Machine.execThrottleStepDown k temp s
  | .throttleStepUp k temp => Sys2Proof.Machine.execThrottleStepUp k temp s
  | .powerCapStep watts => Sys2Proof.Machine.execPowerCapStep watts s
  | .peakLimit watts => Sys2Proof.Machine.execPeakLimit watts s
  | .peakRelease avg => Sys2Proof.Machine.execPeakRelease avg s
  | .thermalTrip k temp => Sys2Proof.Machine.execThermalTrip k temp s
  | .meterPowerUp answer => Sys2Proof.Machine.execMeterPowerUp answer s
  | .meterSample mv ma uWh20 => Sys2Proof.Machine.execMeterSample mv ma uWh20 s
  | .meterReading pMax selfTestFail signed => Sys2Proof.Machine.execMeterReading pMax selfTestFail signed s
  | .meterNvWrite => Sys2Proof.Machine.execMeterNvWrite s
  | .meterHoldupSave => Sys2Proof.Machine.execMeterHoldupSave s
  | .serialCheckRetry answer => Sys2Proof.Machine.execSerialCheckRetry answer s
  | .meterRecordRequest => Sys2Proof.Machine.execMeterRecordRequest s
  | .meterRecordArrive => Sys2Proof.Machine.execMeterRecordArrive s
  | .cablePlug w watts => Sys2Proof.Machine.execCablePlug w watts s
  | .cablePull w => Sys2Proof.Machine.execCablePull w s
  | .onBoardLinkLaneFailure link lanes => Sys2Proof.Machine.execOnBoardLinkLaneFailure link lanes s
  | .sessionReopen p peer => Sys2Proof.Machine.execSessionReopen p peer s
  | .getCertificate h f slot => Sys2Proof.Machine.execGetCertificate h f slot s
  | .challenge h f slot => Sys2Proof.Machine.execChallenge h f slot s
  | .debugHeaderInstruction ins => Sys2Proof.Machine.execDebugHeaderInstruction ins s
  | .copyComplete src => Sys2Proof.Machine.execCopyComplete src s
  | .imageCommitEnd => Sys2Proof.Machine.execImageCommitEnd s

end Sys2Proof.Machine
end

