-- ==== Sys2Proof/Safety.lean ====
section
/-! DEFINITION. Safety.lean: the terms in which the statements speak: when a queue may issue an instruction, what a command
leaves alone, and which states of the sequencers are legal. -/

namespace Sys2Proof.Safety
open Sys2Proof.Machine

/-! ### Issue (R167 to R169, R173, R189) -/

/-- The word `w` at the pc of queue `q` of core `c` may issue, is legal, and has the opcode. -/
def issues (op : Nat) (c : Core) (q : QIx) (s : State) (w : Nat) : Bool :=
  s.powered && decide (s.fetched (qid c q) = some w) && decide (Ins.op w = op) && insLegal w (s.isTandem c.val)

/-- The partition of the queue's context has no trace ring (R579). -/
def untraced (s : State) (k : Nat) : Bool := decide ((s.part (s.ctx ((s.queue k).ctx.getD 0)).part).traceBytes = 0)

/-- The context of the queue has not faulted: what it writes is not undefined (R9). -/
def unfaulted (s : State) (k : Nat) : Bool := (s.queue k).ctx.all fun x => decide ((s.ctx x).st ≠ .faulted)

/-! ### What a command leaves alone -/

/-- Partitions change at most in whether they are prepared for a shutdown, the management state at most in its sessions,
and nothing that was sent is unsent. -/
def settled (s t : State) : Prop :=
  (∀ p, { t.part p with prepared := (s.part p).prepared, prepSuspend := (s.part p).prepSuspend } = s.part p) ∧
  { t.mgmt with sessions := s.mgmt.sessions } = s.mgmt ∧ ∃ l, t.outbox = s.outbox ++ l

/-- Of the engines, the memories, the objects and everything else, only queue `k` has changed. -/
def queueOnly (s t : State) (k : Nat) : Prop :=
  { t with queues := s.queues, cmds := s.cmds, parts := s.parts, mgmt := s.mgmt, outbox := s.outbox, gated := s.gated } = s ∧
  (∀ j, j ≠ k → t.queue j = s.queue j) ∧ settled s t

/-- Queue `k` and the bytes at `keys` may have changed, nothing else of the engines, the objects and the rest. -/
def queueAndBytes (s t : State) (k : Nat) (keys : List Nat) : Prop :=
  { t with queues := s.queues, mem := s.mem, cmds := s.cmds, parts := s.parts, mgmt := s.mgmt, outbox := s.outbox, gated := s.gated } = s ∧
  (∀ j, j ≠ k → t.queue j = s.queue j) ∧
  (∀ a, a ∉ keys → Mem.byte t.mem.cells a = Mem.byte s.mem.cells a) ∧ t.mem.host = s.mem.host ∧ t.mem.units = s.mem.units ∧ settled s t

/-- Everything outside the fabric is as it was. -/
def fabricOnly (s t : State) : Prop :=
  { t with fab := s.fab, cmds := s.cmds, parts := s.parts, mgmt := s.mgmt, outbox := s.outbox, gated := s.gated } = s ∧ settled s t

/-- The queue may go on: it issued at its pc, and counts one instruction more (R180, R197). -/
def wentOn (u t : State) (k : Nat) : Prop :=
  (t.queue k).pc = (u.queue k).advance.pc ∧ (t.queue k).seq = (u.queue k).advance.seq ∧ (t.queue k).sregs = (u.queue k).advance.sregs ∧
  (t.queue k).loops = (u.queue k).advance.loops ∧ (t.queue k).st = (u.queue k).st

/-! ### Commands of Kentis (R424, R437 to R442, R502) -/

/-- The module runs, and no change of mode holds the hub's writes to module memory (R26, R602). -/
def serves (s : State) : Bool := s.powered && !s.memHeld

/-- It is the turn of command `c` of the source, it has the opcode, no recovery and no change of mode holds it up, and the hub reaches what it
reads and writes (R22). -/
def hasTurn (op : Nat) (src : CmdSrc) (s : State) (c : Cmd) : Bool :=
  serves s && decide (s.turn src = some c) && decide (Slot.op c.slot = op) && !s.underRecovery c && s.cmdReached c

/-- The command has completed with a status and a result: it waits for its record, or the station has been answered. -/
def completes (t : State) (c : Cmd) (status result : Nat) : Prop :=
  (c.isMgmt = false → c.complete status result ∈ t.cmds) ∧
  (c.isMgmt = true → c.reply = none → Out.reply 0 0 0x02 St.ok (c.complete status result).mgmtRecord ∈ t.outbox)

/-- The module has sent `o`, after all that it had sent before. -/
def sent (s t : State) (o : Out) : Prop := ∃ l m, t.outbox = s.outbox ++ l ++ [o] ++ m

/-! ### Legal states of the sequencers -/

/-- The sequencers of power, modes, security, self-test and the meter hold only values that the spec names: P0 to P4
(R602), modes 0 to 2 (R24), security states 0 to 3 (R536), an unlock only below LOCKED (R544), a slice 0 to 50 (R585), at most 1,440 records
in the meter (R626) and 64 in the hub's copy (R629), a meter without power has saved its energy (R619), and no record shows more than
the meter has counted (R626). -/
structure Legal (s : State) : Prop where
  state : s.power.state ≤ 4
  modeReg : s.power.modeReg ≤ 2
  mode : s.power.mode ≤ 2
  change : ∀ c, s.power.modeChange = some c → c.2 ≤ 2
  queued : ∀ v, s.power.modeQueued = some v → v ≤ 2
  deferred : ∀ v, s.power.modeDeferred = some v → v ≤ 2
  security : s.sec.state ≤ 3
  unlock : s.sec.unlocked = true → s.sec.state < 2
  cursor : s.bist.cursor < 51
  records : s.meter.records.length ≤ 1440
  mirror : s.mirror.records.length ≤ 64
  saved : s.meter.powered = false → s.meter.acc = s.meter.nvAcc
  kept : s.meter.nvAcc ≤ s.meter.acc
  recorded : ∀ r ∈ s.meter.records, r.energy ≤ s.meter.acc / mWhUnits ∧ r.seq < s.meter.nextSeq

/-- Memory is in its one canonical form: addresses strictly rising, no listed zero. -/
def memoryWf (s : State) : Prop := Memory.wf s.mem.cells = true ∧ Memory.wf s.mem.host = true

end Sys2Proof.Safety
end

