-- ==== Sys2Proof/WellFormed.lean ====
section
/-! DEFINITION. WellFormed.lean: the operands that each command may carry: widths of fields, lengths of payloads, and the
ranges of unit numbers that no operand type bounds. Values that the module itself refuses are well-formed: their refusal
is part of a command's meaning. -/

namespace Sys2Proof

/-- What a read finds in error: an uncorrectable codeword of 32 bytes of module memory, an uncorrectable word of 8 bytes on a
die, or, from 2^57 on, a codeword of module memory with one symbol in error (R271, R273). -/
def lineOk (g : Nat) : Bool := decide (g < 2 ^ 57 + 2 ^ 44) && decide (g % (if g < 2 ^ 56 ∨ 2 ^ 57 ≤ g then 32 else 8) = 0)

def linesOk (l : List Nat) : Bool := l.all lineOk

/-- A sub-channel, 256 × die + number. -/
def subChannelOk (c : Nat) : Bool := decide (c < 1024)

/-- A value in cell form (R493). -/
def cellOk (v : Nat) : Bool := decide (v < 2 ^ 64)

/-- Index and sub-index of a dictionary entry (R493). -/
def entryOk (index sub : Nat) : Bool := decide (index < 2 ^ 16) && decide (sub < 256)

/-- A Sirrik session ID (R480, R483). -/
def idOk (session : Nat) : Bool := decide (session < 2 ^ 32)

/-- Header of a sealed Sirrik datagram (R480, R487). -/
def SirrikHdr.wf (h : SirrikHdr) : Bool :=
  decide (h.ver < 256) && decide (h.type < 256) && decide (h.frag < 256) && decide (h.nfrag < 256) && idOk h.session && decide (1 ≤ h.seq) &&
  decide (h.seq < 2 ^ 48) && decide (h.rid < 2 ^ 32) && decide (h.len < 2 ^ 16) && decide (h.reserved < 2 ^ 16)

/-- Fields of a fabric message (R302, R316). -/
def FabMsg.wf (m : FabMsg) : Bool :=
  decide (m.op < 256) && decide (m.src < 2 ^ 11) && decide (m.dst < 2 ^ 11) && decide (m.spart < 8) && decide (m.dpart < 8) &&
  decide (m.vc < 4) && decide (m.sseq < 2 ^ 14) && decide (m.tag < 2 ^ 16) && decide (m.status < 2 ^ 16) && decide (m.addr < 2 ^ 64) &&
  decide (m.len < 2 ^ 24) && decide (m.dirs < 8) && decide (m.data.length < 2 ^ 24)

/-- Fields of a flit (R301, R302). -/
def Flit.wf (f : Flit) : Bool :=
  decide (f.type < 16) && decide (f.vc < 4) && decide (f.dl < 2) && decide (f.dst < 2 ^ 11) && decide (f.src < 2 ^ 11) &&
  decide (f.spart < 8) && decide (f.dpart < 8) && decide (f.sseq < 2 ^ 14) && decide (f.lseq < 2 ^ 12) && decide (f.lack < 2 ^ 12) &&
  decide (f.crVc < 4) && decide (f.crDl < 2) && decide (f.crN < 32) && decide (f.len ≤ 240) && decide (f.dirs < 8) &&
  decide (f.keyId < 2) && decide (f.payload.length ≤ 240)

/-- A well-formed command. -/
def Instr.wf : Instr → Bool
  | .powerOn mv => decide (mv < 2 ^ 17)
  | .inputOvervoltage mv => decide (mv < 2 ^ 17)
  | .startUpStep rep => rep.slow.all subChannelOk && rep.failed.all subChannelOk
  | .moduleReady ms => decide (ms < 2 ^ 16)
  | .pwrModeWrite _ v => cellOk v
  | .fabModuleIdWrite _ v => cellOk v
  | .fabTorusDimsWrite _ v => cellOk v
  | .freshOut _ _ ue => linesOk ue
  | .freshHold _ _ ue => linesOk ue
  | .addHold _ _ ue => linesOk ue
  | .addOut _ _ ue => linesOk ue
  | .meOpStart _ ue => linesOk ue
  | .accAgree _ _ ue => linesOk ue
  | .accApply _ _ ue => linesOk ue
  | .sop _ _ ue => linesOk ue
  | .merge _ _ ue => linesOk ue
  | .weightUpdate _ _ ue => linesOk ue
  | .tileTokenTake _ ue => linesOk ue
  | .ld _ _ ue => linesOk ue
  | .instructionFetch _ _ addr n ue => decide (addr < 2 ^ 64) && decide (1 ≤ n) && linesOk ue
  | .xfer _ _ ue => linesOk ue
  | .gather _ _ ue => linesOk ue
  | .scatter _ _ ue => linesOk ue
  | .scatterAdd _ _ ue => linesOk ue
  | .shadowStart _ ue => linesOk ue
  | .patrolScrub _ ch line _ => decide (ch < 256) && decide (line < 10401873920)
  | .patrolPeriodEnd _ ch => decide (ch < 256)
  | .memSpareRequest _ v => cellOk v
  | .sparingCopyEnd _ bad => linesOk bad
  | .linkUp _ rep => decide (rep.peerId < 2 ^ 11) && decide (rep.peerPort < 8) && [4, 6, 8].contains rep.lanes
  | .linkSecuring _ _ reason => decide (reason < 256)
  | .lanePairTest _ passed => decide (passed < 16)
  | .msgFlitReceive _ f => f.wf
  | .idleFlitReceive _ f => f.wf
  | .retryFlitReceive _ f => f.wf
  | .linkctlFlitReceive _ f => f.wf
  | .fabWrite m => m.wf
  | .readReq m => m.wf
  | .readResp m => m.wf
  | .sync m => m.wf
  | .ack m => m.wf
  | .hold m => m.wf
  | .openReq m => m.wf
  | .openReply m => m.wf
  | .openRetry _ peer => decide (peer < 2 ^ 11)
  | .close m => m.wf
  | .closeReply m => m.wf
  | .linkState _ m => m.wf
  | .sessionResendTimeout _ cls peer => decide (cls < 3) && decide (peer < 2 ^ 11)
  | .fabPortExternalWrite _ v => cellOk v
  | .roundTrigger _ h => decide (h < 64)
  | .xchRoll m => m.wf
  | .xchAgree m => m.wf
  | .xchWx m => m.wf
  | .xchBfx m => m.wf
  | .xchProbe m => m.wf
  | .xchPiece m => m.wf
  | .xchCount m => m.wf
  | .xchQuota m => m.wf
  | .xchToken m => m.wf
  | .xchReturn m => m.wf
  | .xchAbort m => m.wf
  | .roundEnd _ h => decide (h < 64)
  | .roundTimeout _ h => decide (h < 64)
  | .layoutDrained _ g => decide (g < 16)
  | .stash _ h => decide (h < 64)
  | .stashCopyEnd _ h j => decide (h < 64) && decide (j < 2 ^ 11)
  | .backwardStart _ h => decide (h < 64)
  | .slotDue _ h => decide (h < 64)
  | .slotRestoreEnd _ h j _ => decide (h < 64) && decide (j < 2 ^ 11)
  | .tensorScanEnd _ t => decide (t < 64)
  | .ringControlWrite _ _ off data _ => decide (off + data.length ≤ 64)
  | .slotWrite _ _ off data _ => decide (off + data.length ≤ 2 ^ 19)
  | .bar2Write _ off data _ => decide (off % 4096 + data.length ≤ 4096)
  | .bar2Resize _ log2 => decide (log2 < 64)
  | .configRequest _ f => decide (f < 256)
  | .pciLinkUp _ rate width _ => decide (1 ≤ rate) && decide (rate ≤ 6) && [1, 2, 4, 8, 16].contains width
  | .getMeasurements _ _ ix => decide (ix < 256)
  | .ideKm _ _ session => decide (session < 4)
  | .lockInterface _ session => decide (session < 4)
  | .startInterface _ session => decide (session < 4)
  | .stopInterface _ session => decide (session < 4)
  | .progLoad _ ue => linesOk ue
  | .copy _ ue => linesOk ue
  | .partCmd _ slot => decide (slot.length ≤ 16384)
  | .open3 session _ _ _ => idOk session
  | .open3Timeout session => idOk session
  | .sirrikRead hd index sx => hd.wf && entryOk index sx
  | .sirrikWrite hd index sx data _ => hd.wf && entryOk index sx && decide (data.length < 2 ^ 16)
  | .readSeg hd index sx off len => hd.wf && entryOk index sx && decide (off < 2 ^ 32) && decide (len < 2 ^ 16)
  | .writeSeg hd index sx off data _ => hd.wf && entryOk index sx && decide (off < 2 ^ 32) && decide (data.length < 2 ^ 16)
  | .sirrikClose hd => hd.wf
  | .sessionIdleTimeout session => idOk session
  | .fragmentTimeout session sq => idOk session && decide (sq < 2 ^ 48)
  | .registerWrite _ index sx data => entryOk index sx && decide (data.length ≤ 16384)
  | .windowWrite _ _ off data _ => decide (off + data.length ≤ 2 ^ 24)
  | .segmentSelect _ _ v _ => cellOk v
  | .mgmtSiteKeyWrite sx _ => decide (1 ≤ sx) && decide (sx ≤ 4)
  | .partPeersWrite _ sx v => decide (1 ≤ sx) && decide (sx ≤ 128) && cellOk v
  | .partCreate rec => decide (rec.length ≤ 16384)
  | .partDestroy v => cellOk v
  | .secSiteCertWrite off data => decide (off < 2 ^ 32) && decide (data.length ≤ 16384)
  | .partDebugWrite _ _ v => cellOk v
  | .dbgToken token _ => decide (token.length ≤ 16384)
  | .stallDetected x => decide (x < 1024)
  | .jayCompare _ origin checker third fourth => [origin, checker, third, fourth].all fun v => decide (v < 2 ^ 64)
  | .obsSelect v => cellOk v
  | .partObsSelect _ _ v => cellOk v
  | .selfTestSliceEnd result detail ms _ => decide (1 ≤ result) && decide (result ≤ 3) && decide (detail < 2 ^ 24) && decide (ms < 2 ^ 16)
  | .bistFullNext v => cellOk v
  | .bistSkipNext v => cellOk v
  | .repFuseBurn v => cellOk v
  | .repUnretire v => cellOk v
  | .pwrShutdownReq _ v => cellOk v
  | .throttleStepDown _ temp => decide (temp < 256)
  | .throttleStepUp _ temp => decide (temp < 256)
  | .thermalTrip _ temp => decide (temp < 256)
  | .meterSample mv ma _ => decide (mv < 2 ^ 17) && decide (ma < 2 ^ 17)
  | .meterReading pMax _ _ => decide (pMax < 2 ^ 16)
  | .onBoardLinkLaneFailure _ lanes => decide (lanes ≤ 16)
  | .sessionReopen _ peer => decide (peer < 2 ^ 11)
  | .getCertificate _ _ slot => decide (slot < 8)
  | .challenge _ _ slot => decide (slot < 8)
  | .presNHigh | .inputUndervoltage | .wakeN | .modeChangeStep | .deferredModeChange | .arrayPassEnd _ | .meOpComplete _
  | .accSummary _ _ | .accFree _ _ | .accRead _ _ | .bankTransferArrive _ | .bankTransferAdd _ | .seOpComplete _ | .nop _ _
  | .endQ _ _ | .loop _ _ | .lbrk _ _ | .br _ _ | .lidx _ _ | .lcw _ _ | .lcr _ _ | .movi _ _ | .add _ _ | .sub _ _
  | .mul _ _ | .and _ _ | .or _ _ | .xor _ _ | .shl _ _ | .shr _ _ | .sar _ _ | .min _ _ | .max _ _ | .slt _ _ | .sltu _ _
  | .seq _ _ | .st _ _ | .getid _ _ | .queueEnded _ _ | .waitResume _ _ | .sig _ _ | .waitacq _ _ | .dec _ _ | .fset _ _
  | .fclr _ _ | .fwait _ _ | .bar _ _ | .barnb _ _ | .syncOpArrive _ | .boundSignal _ | .remoteRefusal _
  | .deadlockCheck _ _ | .bank _ _ | .statusWordWrite _ | .boundCompletion _ _ | .dmaTransferFault _ | .sparingCopyStart _
  | .unitClearStart _ | .unitClearEnd _ | .securingRetry _ | .rekey _ | .laneBad _ _ | .flitSend _ | .vc0TokenRefill _
  | .replayTimeout _ | .portRetrainEnd _ _ | .failedPortRetry _ | .openQueueServe | .xchHoldTimeout _ _ | .exportBank _
  | .checkpointEnd _ _ | .restoreEnd _ _ | .layerWatch _ | .tensorWatchScan _ | .scaleLocalPhase _ | .scaleApplyPhase _
  | .ringEnable _ _ _ | .ringDisable _ _ _ | .completionRecord _ _ | .msixPeriodEnd _ _ _ | .perst _ | .flr _ | .linkDown _
  | .hostCompletionTimeout _ | .negotiateAlgorithms _ _ _ | .keyExchange _ _ _ _ | .ideIntegrityFailure _ | .identify _
  | .ctxCreate _ | .ctxDestroy _ | .ctxReleaseComplete _ | .ctxSuspend _ | .ctxSaveComplete _ | .ctxResume _ | .hostmapAdd _
  | .hostmapRemove _ | .queueStart _ | .queueResume _ | .queueStop _ | .queueStopDrained _ | .fill _ | .syncAlloc _
  | .syncFree _ | .syncSet _ | .syncRead _ | .collGroupDefine _ | .collGroupRemove _ | .collStart _ | .collCancel _
  | .epochAdvance _ | .shardRegister _ | .shardRemove _ | .shardRead _ | .offloadArm _ _ | .offloadDisarm _ | .lend _
  | .revoke _ | .ckptBegin _ _ | .ckptRestore _ | .watchDefine _ | .watchRemove _ | .watchRead _ | .fence _ | .dumpFetch _
  | .recoveryPolicy _ | .shutdownPrepare _ | .shutdownPrepareTimeout _ | .shutdownCancel _ | .discover _
  | .discoverReplySend | .open1 _ | .authLockoutEnd | .mgmtConfigApply | .imageCommit _ | .imageStageClear | .secToOpen
  | .secToAttested | .secToLocked | .hangDetected _ _ | .engineResetDone _ _ | .suspectCleared _ _ | .strikeExpiry _ _
  | .marginReturn _ | .fieldTestStart | .fieldTestEnd _ | .migration _ | .fuseBurnEnd | .wake _ | .enterRetention _
  | .enterStandby _ | .enterOff _ | .shutdownNoticeExpiry | .clusterClockGate _ | .powerCapStep _ | .peakLimit _
  | .peakRelease _ | .meterPowerUp _ | .meterNvWrite | .meterHoldupSave | .serialCheckRetry _ | .meterRecordRequest
  | .meterRecordArrive | .cablePlug _ _ | .cablePull _ | .debugHeaderInstruction _ | .copyComplete _ | .imageCommitEnd => true

end Sys2Proof
end

