-- ==== Sys2Proof/Certificates/Slice0/Obligations.lean ====
section
/-! DEFINITION. Certificates/Slice0/Obligations.lean: the statements for the provers, family by family. Each docstring
cites the rules of the spec that the statement formalises. -/

open Sys2Proof Sys2Proof.Machine

/-! ### The machine -/

/-- A step runs the command at the front of the queue, with the queue's rest. -/
def Obligations.StepRunsFrontCommand : Prop :=
  ∀ (c : Instr) (rest : List Instr) (s : State),
    step { s with pending := c :: rest } = exec c { s with pending := rest }

/-- On an empty queue a step answers a next state, a microsecond later, and no command appears (the model's choice: log 6). -/
def Obligations.EmptyQueueIdles : Prop :=
  ∀ s : State, s.pending = [] → ∃ t, step s = .next t ∧ t.pending = [] ∧ t.clockUs = s.clockUs + 1 ∧ t.meter = s.meter

/-- No command changes the clock or the queue of commands, and only the meter's own commands change the meter chip (R621). -/
def Obligations.OnlyMeterCommandsChangeMeter : Prop :=
  ∀ (i : Instr) (s t : State), exec i s = .next t →
    t.clockUs = s.clockUs ∧ t.pending = s.pending ∧
    (t.meter = s.meter ∨ (∃ a, i = .meterPowerUp a) ∨ (∃ mv ma e, i = .meterSample mv ma e) ∨ (∃ p f g, i = .meterReading p f g) ∨
      i = .meterNvWrite ∨ i = .meterHoldupSave ∨ ∃ a, i = .serialCheckRetry a)

/-- A well-formed command never ends the run, but for an instruction of the debug header that no rule describes, at D2 (R546,
log 43). -/
def Obligations.WellFormedCommandsComplete : Prop :=
  ∀ (i : Instr) (s : State), i.wf = true → (∀ n, i ≠ .debugHeaderInstruction n) → ∃ t, exec i s = .next t

/-! ### Instruction queues (ch05) -/

/-- S0 reads as zero and its writes are ignored; the other registers hold what is written (R170). -/
def Obligations.RegisterZeroIsFixed : Prop :=
  ∀ (Q : Queue) (v : BitVec 64),
    Q.reg 0 = 0 ∧ Q.set 0 v = Q ∧
    ∀ i, i ≠ 0 → (Q.set i v).reg i = v ∧ ∀ j, j ≠ i → (Q.set i v).reg j = Q.reg j

/-- The scalar instructions (R168, R170 to R172, R182): each writes its one register with its result, modulo 2^64, and the queue goes on; nothing
else changes, no flag among it, and none faults. S0 reads as zero, and a write to it is ignored. -/
def Obligations.ScalarInstructions : Prop :=
  (∀ (Q : Queue) (v : BitVec 64), Q.reg 0 = 0 ∧ Q.set 0 v = Q ∧ ∀ i, i ≠ 0 → (Q.set i v).reg i = v) ∧
  (∀ (c : Core) (q : QIx) (s : State) (w : Nat),
    let k := qid c q
    let Q := s.queue k
    let a := Q.reg (Ins.sa w)
    let y := if bit (Ins.flags w) 0 then BitVec.ofNat 64 (Ins.imm w) else Q.reg (Ins.sb w)
    let does (op : Nat) (i : Instr) (v : BitVec 64) : Prop :=
      Safety.issues op c q s w = true →
        ∃ t, exec i s = .next t ∧ t.queue k = (Q.set (Ins.sd w) v).advance ∧ Safety.queueOnly s t k
    does 0x11 (.add c q) (a + y) ∧ does 0x12 (.sub c q) (a - y) ∧ does 0x13 (.mul c q) (a * y) ∧
    does 0x14 (.and c q) (a &&& y) ∧ does 0x15 (.or c q) (a ||| y) ∧ does 0x16 (.xor c q) (a ^^^ y) ∧
    does 0x17 (.shl c q) (a <<< (y.toNat % 64)) ∧ does 0x18 (.shr c q) (a >>> (y.toNat % 64)) ∧
    does 0x19 (.sar c q) (a.sshiftRight (y.toNat % 64)) ∧
    does 0x1A (.min c q) (if a.toInt ≤ y.toInt then a else y) ∧ does 0x1B (.max c q) (if a.toInt ≤ y.toInt then y else a) ∧
    does 0x1C (.slt c q) (if a.toInt < y.toInt then 1 else 0) ∧ does 0x1D (.sltu c q) (if a.toNat < y.toNat then 1 else 0) ∧
    does 0x1E (.seq c q) (if a = y then 1 else 0)) ∧
  (∀ (c : Core) (q : QIx) (s : State) (w : Nat),
    let k := qid c q
    let Q := s.queue k
    let does (op : Nat) (i : Instr) (R : Queue) : Prop :=
      Safety.issues op c q s w = true → ∃ t, exec i s = .next t ∧ t.queue k = R.advance ∧ Safety.queueOnly s t k
    does 0x00 (.nop c q) Q ∧
    does 0x10 (.movi c q) (Q.set (Ins.sd w) (BitVec.ofNat 64 (Ins.imm w))) ∧
    does 0x06 (.lcw c q) { Q with lcs := Tbl.set 0 Q.lcs (Ins.sel w % 4) ((Q.reg (Ins.sa w) + BitVec.ofNat 64 (Ins.imm w)).truncate 32) } ∧
    does 0x07 (.lcr c q) (Q.set (Ins.sd w) ((Tbl.get 0 Q.lcs (Ins.sel w % 4)).zeroExtend 64)) ∧
    does 0x22 (.getid c q) (Q.set (Ins.sd w) (BitVec.ofNat 64 (match Ins.sel w with
      | 0 => c.val
      | 1 => q.val
      | 2 => s.fab.moduleId
      | 3 => if s.isTandem c.val then 1 else 0
      | 4 => Q.ctx.getD 0
      | _ => (s.ctx (Q.ctx.getD 0)).part))) ∧
    ∀ l, Q.loops[Ins.sel w % 4]? = some l → does 0x05 (.lidx c q) (Q.set (Ins.sd w) (BitVec.ofNat 64 l.index)))

/-- Where the next instruction lies (R180): past the instruction, unless a loop body ends there; a body that ends with iterations left
begins again, one without is left. And loops, branches and the end of a program (R181 to R188, R192). -/
def Obligations.LoopsAndBranches : Prop :=
  (∀ (Q : Queue) (l : LoopLevel) (ls : List LoopLevel) (x : Nat),
    ({ Q with loops := [] }.goOn x).pc = (x + 32) % 2 ^ 64 ∧
    (x ≠ l.stop → ({ Q with loops := l :: ls }.goOn x).pc = (x + 32) % 2 ^ 64 ∧ ({ Q with loops := l :: ls }.goOn x).loops = l :: ls) ∧
    (1 < l.left → ({ Q with loops := l :: ls }.goOn l.stop).pc = l.start ∧
      ({ Q with loops := l :: ls }.goOn l.stop).loops = { l with left := l.left - 1, index := l.index + 1 } :: ls) ∧
    (l.left ≤ 1 → l.incs = [] → { Q with loops := l :: ls }.goOn l.stop = { Q with loops := ls }.goOn l.stop)) ∧
  (∀ (c : Core) (q : QIx) (s : State) (w : Nat),
    let k := qid c q
    let Q := s.queue k
    let does (op : Nat) (i : Instr) (R : Queue) : Prop :=
      Safety.issues op c q s w = true → ∃ t, exec i s = .next t ∧ t.queue k = R ∧ Safety.queueOnly s t k
    let n := (Tbl.get 0 Q.lcs (Ins.sel w % 4)).toNat
    let b := bits w 111 96
    let nests := ∀ l, Q.loops.head? = some l → Q.pc + 32 * b ≤ l.stop
    let target := unsigned 64 ((Q.pc : Int) + 32 * signed 32 (Ins.aux w))
    (Q.loops.length < 4 → b ≠ 0 → nests → n ≠ 0 → ∃ l : LoopLevel,
      l.start = (Q.pc + 32) % 2 ^ 64 ∧ l.stop = (Q.pc + 32 * b) % 2 ^ 64 ∧ l.left = n ∧ l.index = 0 ∧
      does 0x02 (.loop c q) (Q.issued { Q with pc := (Q.pc + 32) % 2 ^ 64, loops := l :: Q.loops })) ∧
    (Q.loops.length < 4 → b ≠ 0 → nests → n = 0 → does 0x02 (.loop c q) (Q.issued (Q.goOn (Q.pc + 32 * b)))) ∧
    (∀ l ls, Q.loops = l :: ls → does 0x03 (.lbrk c q) (Q.issued ({ Q with loops := ls }.goOn l.stop))) ∧
    (branchTaken (Ins.sel w % 8) (Q.reg (Ins.sa w)) (Q.reg (Ins.sb w)) = false → does 0x04 (.br c q) Q.advance) ∧
    (branchTaken (Ins.sel w % 8) (Q.reg (Ins.sa w)) (Q.reg (Ins.sb w)) = true →
      (∀ l, Q.loops.head? = some l → l.start ≤ target ∧ target ≤ l.stop) → does 0x04 (.br c q) (Q.issued { Q with pc := target })) ∧
    does 0x01 (.endQ c q) { Q.issued { Q with loops := [] } with st := .ending } ∧
    (s.powered = true → Q.st = .ending → s.queueDone k = true →
      ∃ t, exec (.queueEnded c q) s = .next t ∧ t.queue k = { Q with st := .ended } ∧ Safety.queueOnly s t k))

/-- Scalar loads and stores (R168, R262): eight bytes of the core's own memories, little-endian; a load changes its register
and no byte, a store changes its eight bytes and no register. That a store counts among what a fault of its queue leaves undefined is read from R9
(log 85). -/
def Obligations.ScalarMemory : Prop :=
  ∀ (c : Core) (q : QIx) (ue : List Nat) (s : State) (w : Nat) (keys : List Nat),
    let k := qid c q
    let Q := s.queue k
    s.scalarKeys k (Q.reg (Ins.sa w) + BitVec.ofNat 64 (Ins.imm w)).toNat = some keys → s.engineBusy k = false →
    (Safety.issues 0x20 c q s w = true → s.meetsBad ue keys = none →
      ∃ t, exec (.ld c q ue) s = .next t ∧ t.queue k = (Q.set (Ins.sd w) (BitVec.ofNat 64 (leNat (s.readKeys keys)))).advance ∧
        Safety.queueOnly s t k) ∧
    (Safety.issues 0x21 c q s w = true →
      ∃ t, exec (.st c q) s = .next t ∧ t.queue k = { Q.advance with dirty := Q.dirty ++ runs keys } ∧ t.readKeys keys = leBytes 8 (Q.reg (Ins.sb w)).toNat ∧
        Safety.queueAndBytes s t k keys)

/-- A fetch puts words that it may read into the queue's buffer, in program order from the pc on (R164, R189), and changes nothing else; where
the buffer holds what the program comes to next, nothing is fetched (R190). The notice of satisfaction ends a
queue's wait (R191, R220): it resumes issue where it stood, with what it wrote now before a synchronisation point (R9). -/
def Obligations.FetchesAndNotices : Prop :=
  (∀ (c : Core) (q : QIx) (addr n : Nat) (ue : List Nat) (s : State) (keys : Nat → List Nat),
    let k := qid c q
    s.powered = true → ((s.queue k).st = .running ∨ (s.queue k).st = .waiting) → (s.queue k).pc = addr → addr < 2 ^ 64 → n ≤ 64 →
    (s.queue k).buffer = [] → (s.queue k).loops = [] →
    (∀ i, i < n → s.finds (dieOf (k / 4)) ((addr + 32 * i) % 2 ^ 64) = true ∧
      s.fetchKeys k ((addr + 32 * i) % 2 ^ 64) = .inr (keys i) ∧ s.meetsBad ue (keys i) = none) →
    ∃ t, exec (.instructionFetch c q addr n ue) s = .next t ∧
      (∀ i, i < n → ((addr + 32 * i) % 2 ^ 64, leNat (s.readKeys (keys i))) ∈ (t.queue k).buffer) ∧
      { t.queue k with buffer := (s.queue k).buffer } = s.queue k ∧ Safety.queueOnly (s.corrected ue) t k) ∧
  (∀ (c : Core) (q : QIx) (addr : Nat) (ue : List Nat) (s : State) (keys : List Nat),
    let k := qid c q
    let Q := s.queue k
    s.powered = true → (Q.st = .running ∨ Q.st = .waiting) →
    (Q.fetchAt = some addr → Q.buffer.length < 64 → s.finds (dieOf (k / 4)) addr = true → s.fetchKeys k addr = .inr keys → s.meetsBad ue keys = none →
      ∃ t, exec (.instructionFetch c q addr 1 ue) s = .next t ∧ t.queue k = { Q with buffer := Q.buffer ++ [(addr, leNat (s.readKeys keys))] } ∧
        Safety.queueOnly (s.corrected ue) t k) ∧
    (Q.fetchAt = none → ∃ t, exec (.instructionFetch c q addr 1 ue) s = .next t ∧ t.queue k = Q ∧ Safety.queueOnly s t k)) ∧
  (∀ (c : Core) (q : QIx) (s : State) (n : Nat),
    let k := qid c q
    let Q := s.queue k
    s.powered = true → Q.notice = some n →
    (Q.st = .waiting → ∃ t, exec (.waitResume c q) s = .next t ∧ (t.queue k).st = .running ∧ (t.queue k).wait = none ∧
      (t.queue k).notice = none ∧ (t.queue k).dirty = [] ∧ (t.queue k).pc = Q.pc ∧ (t.queue k).sregs = Q.sregs) ∧
    (Q.st = .suspended → Q.saved = .waiting → ∃ t, exec (.waitResume c q) s = .next t ∧ (t.queue k).st = .suspended ∧
      (t.queue k).saved = .running ∧ (t.queue k).wait = none ∧ (t.queue k).pc = Q.pc ∧ Safety.queueOnly s t k))

/-- An illegal word faults its queue at issue with cause 0x01 (R168, R169, R193, R197): the pc stays, and the record holds
the pc, the sequence number and the upper bits of the word. -/
def Obligations.IllegalWordFaults : Prop :=
  ∀ (c : Core) (q : QIx) (s : State) (w x : Nat),
    let k := qid c q
    s.powered = true → s.fetched k = some w → (s.queue k).ctx = some x → insLegal w (s.isTandem c.val) = false →
    ∀ i : Instr, (i = .nop c q ∧ (insFields w (s.isTandem c.val) = none ∨ Ins.op w = 0x00)) ∨ (i = .endQ c q ∧ Ins.op w = 0x01) ∨
        (i = .movi c q ∧ Ins.op w = 0x10) ∨ (i = .add c q ∧ Ins.op w = 0x11) ∨ (i = .st c q ∧ Ins.op w = 0x21) ∨ (i = .sig c q ∧ Ins.op w = 0x70) →
      ∃ t, exec i s = .next t ∧ (t.queue k).st = .faulted ∧ (t.queue k).pc = (s.queue k).pc ∧ (t.queue k).sregs = (s.queue k).sregs ∧
        (t.queue k).fault.cause = 0x01 ∧ (t.queue k).fault.pc = (s.queue k).pc ∧ (t.queue k).fault.seq = (s.queue k).seq ∧
        (t.queue k).fault.detail = bits w 255 224 % 2 ^ 32

/-! ### Synchronisation (ch06) -/

/-- The synchronisation instructions issue (R168, R173, R178, R200): the queue goes on, or waits, and the operation is on its way to its
object. `SIG`, `FSET` and `BARNB` may name another module: there the queue goes on at once, and no object of this module is touched;
any other remote one faults with cause 0x38 (R202). -/
def Obligations.SyncInstructionsIssue : Prop :=
  (∀ (c : Core) (q : QIx) (s : State) (w : Nat),
    let k := qid c q
    let obj := (if bit (Ins.flags w) 1 then ((s.queue k).reg (Ins.sa w)).toNat else Ins.imm w) % 2 ^ 16
    let u := s.traceQueue k 1 0 obj
    let runs (op : Nat) (i : Instr) : Prop :=
      Safety.issues op c q s w = true → bit (Ins.flags w) 0 = false →
        ∃ t p, exec i s = .next t ∧ t.sync.flight = u.sync.flight ++ [p] ∧ p.opc = op ∧ p.obj = obj ∧ p.qid = k ∧ p.pc = (s.queue k).pc ∧
          p.remote = none ∧ t.queue k = (u.queue k).advance ∧ t.mem = u.mem ∧ ∀ j, j ≠ k → t.queue j = s.queue j
    let waits (op : Nat) (i : Instr) : Prop :=
      Safety.issues op c q s w = true → bit (Ins.flags w) 0 = false →
        ∃ t p, exec i s = .next t ∧ t.sync.flight = u.sync.flight ++ [p] ∧ p.opc = op ∧ p.obj = obj ∧ p.qid = k ∧ p.pc = (s.queue k).pc ∧
          p.remote = none ∧ t.queue k = { (u.queue k).advance with st := .waiting, wait := some { op := p } } ∧ t.mem = u.mem ∧
          ∀ j, j ≠ k → t.queue j = s.queue j
    runs 0x70 (.sig c q) ∧ waits 0x71 (.waitacq c q) ∧ runs 0x72 (.dec c q) ∧ runs 0x73 (.fset c q) ∧ runs 0x74 (.fclr c q) ∧
    waits 0x75 (.fwait c q) ∧ waits 0x76 (.bar c q) ∧ runs 0x77 (.barnb c q)) ∧
  (∀ (c : Core) (q : QIx) (s : State) (w x : Nat),
    let k := qid c q
    let obj := (if bit (Ins.flags w) 1 then ((s.queue k).reg (Ins.sa w)).toNat else Ins.imm w) % 2 ^ 16
    let u := s.traceQueue k 1 0 obj
    let goesOn (op : Nat) (i : Instr) : Prop :=
      Safety.issues op c q s w = true → bit (Ins.flags w) 0 = true →
        ∃ t, exec i s = .next t ∧ t.queue k = (u.queue k).advance ∧ t.sync.objs = s.sync.objs ∧ t.sync.flight = s.sync.flight
    let faults (op : Nat) (i : Instr) : Prop :=
      Safety.issues op c q s w = true → bit (Ins.flags w) 0 = true → (s.queue k).ctx = some x →
        ∃ t, exec i s = .next t ∧ (t.queue k).st = .faulted ∧ (t.queue k).fault.cause = 0x38 ∧ (t.queue k).pc = (s.queue k).pc
    goesOn 0x70 (.sig c q) ∧ goesOn 0x73 (.fset c q) ∧ goesOn 0x77 (.barnb c q) ∧
    faults 0x71 (.waitacq c q) ∧ faults 0x72 (.dec c q) ∧ faults 0x74 (.fclr c q) ∧ faults 0x75 (.fwait c q) ∧ faults 0x76 (.bar c q))

/-- An operation or a bound signal reaches its object (R206, R220, R221): the object takes it whole, raises its causal count (R580), and every
waiting queue that it satisfies has a notice. A refused one leaves it as it was but for the recorded cause (R207), and its queue faults
with that cause; a remote operation that a receiver refused faults its queue with cause 0x3A (R203). -/
def Obligations.ObjectsTakeOperations : Prop :=
  (∀ (i : Nat) (s : State), s.powered = true →
    (∀ p o ws, s.sync.flight[i]? = some p → (s.obj p.obj).take p = .inr (o, ws) →
      ∃ t, exec (.syncOpArrive i) s = .next t ∧ t.obj p.obj = { o with causal := max o.causal p.causal } ∧
        (∀ j, j ≠ p.obj → t.obj j = s.obj j) ∧ t.sync.flight = dropAt s.sync.flight i ∧
        ∀ x ∈ ws, ∀ k, x.who = .queue k → (t.queue k).notice = some (max o.causal p.causal)) ∧
    (∀ b o ws, s.sync.bound[i]? = some b → (s.ctx (s.obj b.obj).ctx).st ≠ .suspended → accessErr (s.obj b.obj) b.ctx b.part false = none →
      (s.obj b.obj).kind = (if b.kind = 2 then .flag else .counter) → declaredErr (s.obj b.obj) b.qid false = none →
      (if b.kind = 2 then (s.obj b.obj).setFlag else (s.obj b.obj).addCount b.n) = .inr (o, ws) →
      ∃ t, exec (.boundSignal i) s = .next t ∧ t.obj b.obj = { o with causal := max o.causal b.causal } ∧
        (∀ j, j ≠ b.obj → t.obj j = s.obj j) ∧ t.sync.bound = dropAt s.sync.bound i)) ∧
  (∀ (i : Nat) (s : State), s.powered = true →
    (∀ p e x, s.sync.flight[i]? = some p → (s.obj p.obj).take p = .inl e → (s.queue p.qid).ctx = some x → (s.queue p.qid).st ≠ .faulted →
      ∃ t, exec (.syncOpArrive i) s = .next t ∧ (t.obj p.obj).lastErr = e.1 ∧ (t.obj p.obj).count = (s.obj p.obj).count ∧
        (t.obj p.obj).gen = (s.obj p.obj).gen ∧ (t.obj p.obj).bmCur = (s.obj p.obj).bmCur ∧ (t.obj p.obj).bmNext = (s.obj p.obj).bmNext ∧
        (t.queue p.qid).st = .faulted ∧ (t.queue p.qid).fault.cause = e.1) ∧
    (∀ b, s.sync.bound[i]? = some b → (s.obj b.obj).kind ≠ .free → (s.ctx (s.obj b.obj).ctx).st = .suspended →
      ∃ t, exec (.boundSignal i) s = .next t ∧ t.sync = s.sync ∧ t.queues = s.queues) ∧
    (∀ r, s.sync.refusals[i]? = some r → (s.ctx r.ctx).st ≠ .suspended → (s.queue r.qid).ctx ≠ some r.ctx →
      ∃ t, exec (.remoteRefusal i) s = .next t ∧ t.sync.refusals = dropAt s.sync.refusals i ∧ t.queues = s.queues) ∧
    (∀ r, s.sync.refusals[i]? = some r → (s.ctx r.ctx).st ≠ .suspended → (s.queue r.qid).ctx = some r.ctx → (s.queue r.qid).st ≠ .faulted →
      ∃ t, exec (.remoteRefusal i) s = .next t ∧ t.sync.refusals = dropAt s.sync.refusals i ∧ (∀ j, (t.obj j).count = (s.obj j).count) ∧
        (t.queue r.qid).st = .faulted ∧ (t.queue r.qid).fault.cause = 0x3A))

/-- What each operation, and a bound signal, does to a counter (R209) and to a flag (R212) of its own context; one that is meant for another
kind of object is refused. A counter that takes an add serves its waiters. -/
def Obligations.CounterAndFlagRules : Prop :=
  ∀ (o : SyncObj) (p : SyncOp), o.part = p.part → o.ctx = p.ctx → p.remote = none → o.prodDecl = false →
    let w : Waiter := { who := .queue p.qid, n := p.n, gen := p.gen }
    let served := serveCounter (o.count + p.n) o.waiters
    let counter (opc : Nat) (r : Taken) : Prop := o.kind = .counter → p.opc = opc → o.take p = r
    let flag (opc : Nat) (r : Taken) : Prop := o.kind = .flag → p.opc = opc → o.take p = r
    (o.count + p.n ≤ 65535 →
      counter 0x70 (.inr ({ o with count := served.1, waiters := served.2.2 }, served.2.1)) ∧
      o.addCount p.n = .inr ({ o with count := served.1, waiters := served.2.2 }, served.2.1)) ∧
    (65535 < o.count + p.n → counter 0x70 (.inl (0x31, o.count)) ∧ o.addCount p.n = .inl (0x31, o.count)) ∧
    (p.n ≤ o.count → counter 0x72 (.inr ({ o with count := o.count - p.n }, []))) ∧
    (o.count < p.n → counter 0x72 (.inl (0x30, o.count))) ∧
    (o.waiters = [] → p.n ≤ o.count → counter 0x71 (.inr ({ o with count := o.count - p.n }, [w]))) ∧
    (o.waiters = [] → o.count < p.n → counter 0x71 (.inr ({ o with waiters := [w] }, []))) ∧
    (∀ h, o.waiters.head? = some h → o.count < h.n → counter 0x71 (.inr ({ o with waiters := o.waiters ++ [w] }, []))) ∧
    flag 0x73 (.inr ({ o with count := 1, waiters := [] }, o.waiters)) ∧ o.setFlag = .inr ({ o with count := 1, waiters := [] }, o.waiters) ∧
    flag 0x74 (.inr ({ o with count := 0 }, [])) ∧
    (o.count = 1 → flag 0x75 (.inr (o, [w]))) ∧ (o.count ≠ 1 → flag 0x75 (.inr ({ o with waiters := o.waiters ++ [w] }, []))) ∧
    (o.kind ≠ .counter → o.kind ≠ .free → p.opc = 0x70 → o.take p = .inl (0x32, o.kind.code))

/-- Waiters of a counter are served in the order in which they came, without overtaking (R210): an operation that raises the count satisfies
the line from its front while a wait's n does not exceed the count, whoever stands behind. Those that it serves, what they take and what is
left make up the count. -/
def Obligations.CounterServesInOrder : Prop :=
  (∀ (n : Nat) (l : List Waiter),
    let r := serveCounter n l
    l = r.2.1 ++ r.2.2 ∧ r.1 + (r.2.1.map (·.n)).sum = n ∧ ∀ x, r.2.2.head? = some x → r.1 < x.n) ∧
  ∀ (o : SyncObj) (p : SyncOp) (n : Nat),
    let served (m : Nat) : Taken := .inr ({ o with count := (serveCounter (o.count + m) o.waiters).1, waiters := (serveCounter (o.count + m) o.waiters).2.2 },
      (serveCounter (o.count + m) o.waiters).2.1)
    (o.count + n ≤ 65535 → o.addCount n = served n) ∧
    (o.kind = .counter → p.opc = 0x70 → accessErr o p.ctx p.part p.remote.isSome = none → declaredErr o p.qid p.remote.isSome = none →
      o.count + p.n ≤ 65535 → o.take p = served p.n)

/-- A barrier's bitmaps never pass its participants, and a counter never passes 65,535, by whatever operation the object takes
(R209, R212, R215, R216). -/
def Obligations.ObjectsStayInRange : Prop :=
  ∀ (o o' : SyncObj) (p : SyncOp) (ws : List Waiter),
    o.count ≤ 65535 → o.bmCur < 2 ^ o.partic → o.bmNext < 2 ^ o.partic → o.take p = .inr (o', ws) →
    o'.count ≤ 65535 ∧ o'.bmCur < 2 ^ o'.partic ∧ o'.bmNext < 2 ^ o'.partic ∧ o'.partic = o.partic ∧ o'.kind = o.kind

/-! ### Matrix engine (ch03) -/

/-- An `MMA` is accepted and starts on an engine without operations (R86, R88, R95 to R99, R168, R174): its bank is BUSY on the
operation's window, and holds the terms that it adds. That all sums are formed as the pass starts is the model's choice (log 8). -/
def Obligations.MatrixOperationStarts : Prop :=
  ∀ (c : Core) (q : QIx) (ue : List Nat) (s : State) (w : Nat) (keys : List Nat),
    let k := qid c q
    let u := s.traceQueue k 3 0 0x40
    let r := mmaRecord (s.queue k) w (leNat (s.readKeys keys))
    let t := mmaTop (s.queue k) w r
    let o : MeOp := { qid := k, ctx := (s.queue k).ctx.getD 0, pc := (s.queue k).pc, seq := (s.queue k).seq, ins := w,
                      regs := operandRegs (s.queue k) w, rcd := r, t := t, phase := .held }
    let starts (mode : Nat) (i : Instr) : Prop :=
      Safety.issues 0x40 c q s w = true → s.meFree c.val k = true → (s.me c.val).ops = [] → Ins.addr w % 64 = 0 →
      s.spadKeys c.val [(Ins.addr w, 64)] = some keys → s.meetsBad ue keys = none → MRec.mode r = mode → MRec.formatOk r = true →
      -512 ≤ t → t ≤ 511 → s.mmaRangesOk c.val r = true → (u.spadKeys c.val (u.mmaReads c.val r)).isSome = true →
      startCause o ((u.halves c.val).map fun h => u.bank (c.val + h) (MRec.bank r)) = none →
      u.meetsBad ue (u.passKeys c.val o) = none →
      ∃ s' p, exec i s = .next s' ∧ Safety.wentOn u s' k ∧
        (s'.me c.val).ops = [p] ∧ p.phase = .running ∧ p.qid = k ∧ p.rcd = r ∧ p.t = t ∧
        ∀ h ∈ s.halves c.val,
          (s'.bank (c.val + h) (MRec.bank r)).st = .busy ∧
          (s'.bank (c.val + h) (MRec.bank r)).win = (if mode ≤ 1 then t - 62 else (u.bank (c.val + h) (MRec.bank r)).win) ∧
          (s'.bank (c.val + h) (MRec.bank r)).terms =
            (if mode ≤ 1 then 0 else (u.bank (c.val + h) (MRec.bank r)).terms) + (if MRec.k r = 0 then 0 else MRec.padded r)
    starts 0 (.freshOut c q ue) ∧ starts 1 (.freshHold c q ue) ∧ starts 2 (.addHold c q ue) ∧ starts 3 (.addOut c q ue)

/-- The bank instructions on an idle engine of a partition that does not trace (R97, R109 to R111, R122): each completes at once, with
its own effect on the bank or on the scratchpad. -/
def Obligations.BankInstructionsComplete : Prop :=
  ∀ (c : Core) (q : QIx) (ue : List Nat) (s : State) (w : Nat),
    let k := qid c q
    let b := Ins.sel w % 4
    let hc := c.val + bits w 218 218
    let B := s.bank hc b
    let a := Ins.addr w
    let records := (List.range (bits w 102 96)).map fun j => leNat (s.spadRead c.val (a + 640 * j) 640)
    let merged := leNat (s.spadRead c.val a 640)
    let does (op : Nat) (i : Instr) (ok : Prop) (effect : State → Prop) : Prop :=
      Safety.issues op c q s w = true → Safety.untraced s k = true → Safety.unfaulted s k = true → s.meFree c.val k = true → (s.me c.val).ops = [] →
      s.bankOpOk c.val w = true → s.meetsBad ue (s.meKeys c.val (s.meReads c.val
        { qid := 0, ctx := 0, pc := 0, seq := 0, ins := w, regs := [], rcd := 0, t := 0, phase := .held })) = none → ok →
      ∃ t, exec i s = .next t ∧ Safety.wentOn s t k ∧ (t.me c.val).ops = [] ∧ effect t
    does 0x41 (.accSummary c q) (B.st = .opened) (fun t => t.spadRead c.val a 640 = summaryBytes B.accs 1 B.win 0 false ∧ t.bank hc b = B) ∧
    does 0x42 (.accAgree c q ue) (∀ x ∈ records, summaryWin x = summaryWin (records.headD 0))
      (fun t => t.spadRead c.val (bits w 151 128) 640 =
        summaryBytes (mergeSummaries records).1 (mergeSummaries records).2 (summaryWin (records.headD 0)) (bits w 127 112) true ∧ ∀ j, t.me j = s.me j) ∧
    does 0x43 (.accApply c q ue) (B.st = .opened ∧ bit merged 0 = true ∧ summaryWin merged = B.win ∧
        s.meetsBad ue (s.replayKeys c.val (bits w 218 218) { B with accs := (B.accs.zip (summaryAccs merged)).map fun x => applyAcc x.1 x.2 }) = none)
      (fun t => (t.bank hc b).st = .agreed ∧ (t.bank hc b).agree = some (bits merged 47 32) ∧ (t.bank hc b).terms = B.terms ∧
        (t.bank hc b).lastApply = some (k, (s.queue k).pc, (s.queue k).seq)) ∧
    does 0x44 (.accFree c q) (∀ h ∈ s.halves c.val, (s.bank (c.val + h) b).st ≠ .busy) (fun t => ∀ h ∈ s.halves c.val, (t.bank (c.val + h) b).st = .free ∧ (t.bank (c.val + h) b).accs = [] ∧
      t.mem = s.mem) ∧
    does 0x45 (.accRead c q) (B.st ≠ .busy ∧ s.debugOpen (s.ctx ((s.queue k).ctx.getD 0)).part = true ∧ (B.st = .free ∨ B.accs.length = 256))
      (fun t => t.spadRead c.val a (64 + 8192) = readoutBytes B ∧ t.bank hc b = B)

/-- Events of the matrix engine. The first held operation starts once nothing runs and no earlier write of its queue is due: a matrix operation
on a bank in a state that its mode allows (R95), on the chain's window (R98), within the term limit (R58) and the chain's length (R99),
with operands that read without error (R565); `ACC_FREE` on any bank (R97). A pass ends and leaves its bank OPEN, or FREE with its tile in the
output stage (R96). A finished tile is written and posts its token, holds it where eight stand, or waits for its check (R105 to R107, R568). A bank
transfer reaches its receiver, which keeps it back until the bank is AGREED, and adds it element by element (R113). -/
def Obligations.MatrixEngineEvents : Prop :=
  (∀ (c : Core) (ue : List Nat) (s : State) (o : MeOp), s.powered = true →
    let ops := (s.me c.val).ops
    let r := o.rcd
    let b := MRec.bank r
    let B (h : Nat) : Bank := s.bank (c.val + h) b
    let gone (t : State) : Prop := ∀ p ∈ (t.me c.val).ops, ¬(p.qid = o.qid ∧ p.seq = o.seq)
    let stands (t : State) (phase : MePhase) : Prop := ∃ p ∈ (t.me c.val).ops, p.qid = o.qid ∧ p.seq = o.seq ∧ p.phase = phase
    ((∀ p ∈ ops, p.phase ≠ .running) → ops.find? (fun p => decide (p.phase = .held)) = some o → s.meBlocked c.val o = false → s.meBusy c.val o = false →
      (Ins.op o.ins = 0x40 → (s.spadKeys c.val (s.mmaReads c.val r)).isSome = true → s.meetsBad ue (s.passKeys c.val o) = none →
        (∀ h ∈ s.halves c.val,
          (MRec.isFresh r = true → (B h).st = .free ∧ MRec.padded r ≤ termLimit) ∧
          (MRec.isFresh r = false → ((B h).st = .opened ∨ MRec.mode r = 3 ∧ MRec.k r = 0 ∧ (B h).st = .agreed) ∧
            (B h).win = o.t - 62 ∧ (B h).h = MRec.h r ∧
            (MRec.k r ≠ 0 → (B h).terms + MRec.padded r ≤ termLimit ∧ (B h).chain.length < 16))) →
        ∃ t, exec (.meOpStart c ue) s = .next t ∧ stands t .running ∧
          ∀ h ∈ s.halves c.val, t.bank (c.val + h) b = s.passBank c.val h o (B h) ∧ (t.bank (c.val + h) b).st = .busy) ∧
      (Ins.op o.ins = 0x44 →
        ∃ t, exec (.meOpStart c ue) s = .next t ∧ gone t ∧
          ∀ h ∈ s.halves c.val, t.bank (c.val + h) (Ins.sel o.ins % 4) = (s.bank (c.val + h) (Ins.sel o.ins % 4)).freed)) ∧
    (ops.find? (fun p => decide (p.phase = .running)) = some o →
      (MRec.isOut r = false → ∃ t, exec (.arrayPassEnd c) s = .next t ∧ gone t ∧
        ∀ h ∈ s.halves c.val, t.bank (c.val + h) b = { B h with st := .opened }) ∧
      (MRec.isOut r = true → (∀ p ∈ ops, p.phase ≠ .output ∧ p.phase ≠ .passed) → ∃ t, exec (.arrayPassEnd c) s = .next t ∧
        (∀ h ∈ s.halves c.val, t.bank (c.val + h) b = (B h).freed) ∧
        ∃ p ∈ (t.me c.val).ops, p.qid = o.qid ∧ p.seq = o.seq ∧ p.phase = .output ∧ p.tile = (s.halves c.val).flatMap fun h => (B h).accs)) ∧
    (ops.find? (fun p => decide (p.phase = .output)) = some o → (∀ p ∈ ops, p.phase ≠ .tokenHeld ∧ p.phase ≠ .checking) →
      (s.me c.val).tokens.length ≤ 8 →
      (o.sampled = false ∨ s.checkers c.val o.ctx = [] → ∃ t, exec (.meOpComplete c) s = .next t ∧
        (MRec.post r = false ∨ MRec.strict r = true → gone t ∧ (t.me c.val).tokens = (s.me c.val).tokens) ∧
        (MRec.post r = true → MRec.strict r = false → (s.me c.val).tokens.length < 8 →
          gone t ∧ ∃ x, (t.me c.val).tokens = (s.me c.val).tokens ++ [x] ∧ x.ctx = o.ctx ∧ x.taken = false ∧ bits x.token 63 48 = MRec.tileId r) ∧
        (MRec.post r = true → MRec.strict r = false → (s.me c.val).tokens.length = 8 →
          (t.me c.val).tokens = (s.me c.val).tokens ∧ stands t .tokenHeld)) ∧
      (∀ k l, o.sampled = true → s.checkers c.val o.ctx = k :: l → ∃ t, exec (.meOpComplete c) s = .next t ∧ stands t .checking ∧
        (t.me c.val).tokens = (s.me c.val).tokens ∧ t.rel.jaySampled = (s.rel.jaySampled + 1) % 2 ^ 64))) ∧
  (∀ (i : Nat) (c : Core) (s : State) (x : BankXfer), s.powered = true →
    let B (y : BankXfer) : Bank := s.bank (y.dstCore + y.dstHalf) y.dstBank
    let early (y : BankXfer) : Prop := (B y).st ≠ .agreed ∧ (B y).ended ≠ some y.agree
    let agrees : Prop := (B x).st = .agreed ∧ (B x).agree = some x.agree ∧ (∀ y ∈ (B x).accs.zip x.accs, y.1.win = y.2.win) ∧
      (B x).terms + x.terms ≤ termLimit
    (s.bankFlight[i]? = some x → x.isExport = false → early x ∨ agrees →
      ∃ t, exec (.bankTransferArrive i) s = .next t ∧ (t.me x.dstCore).xfers = (s.me x.dstCore).xfers ++ [x] ∧ t.bankFlight = dropAt s.bankFlight i ∧
        t.bank (x.dstCore + x.dstHalf) x.dstBank = B x) ∧
    (∀ l m, (s.me c.val).xfers = l ++ x :: m → (∀ y ∈ l, early y) → x.dstCore = c.val → agrees →
      ∃ t, exec (.bankTransferAdd c) s = .next t ∧ (t.me c.val).xfers = l ++ m ∧
        t.bank (x.dstCore + x.dstHalf) x.dstBank = { B x with
          accs := ((B x).accs.zip x.accs).map fun y => { y.1 with
            sum := y.1.sum + y.2.sum, maxexp := maxOpt y.1.maxexp y.2.maxexp, nonfinite := y.1.nonfinite || y.2.nonfinite,
            replayed := y.1.replayed || y.2.replayed, inexact := y.1.inexact + y.2.inexact }
          terms := (B x).terms + x.terms
          gotTransfer := true }))

/-- An element's first pass does not depend on the order of its terms (R55); one term of magnitude below 2^63 window steps is added rounded
half-even, zero and non-finite terms add nothing to the sum, one too large marks overflow and is left out, a replay restarts the
sum on a window below the element's largest exponent (R61), and a non-finite element leaves the engine with the sum 0 (R67). -/
def Obligations.ElementOrderIndependent : Prop :=
  (∀ (l m : List Val) (a : Acc), l.Perm m → l.foldl Acc.term a = m.foldl Acc.term a) ∧
  (∀ (a : Acc) (x : Sys2Proof.Machine.Num) (h k : Nat),
    (a.term none) = { a with nonfinite := true } ∧
    (x.mag = 0 → a.term (some x) = a) ∧
    (x.mag ≠ 0 → (rne x a.win).natAbs < 2 ^ 63 → (a.term (some x)).sum = a.sum + rne x a.win ∧ (a.term (some x)).ovf = a.ovf) ∧
    (x.mag ≠ 0 → 2 ^ 63 ≤ (rne x a.win).natAbs → (a.term (some x)).sum = a.sum ∧ (a.term (some x)).ovf = true) ∧
    (∀ m, a.maxexp = some m → (a.startReplay h k).win = m + h - 62) ∧ (a.startReplay h k).sum = 0 ∧ (a.startReplay h k).replayed = true ∧
    (a.nonfinite = true → a.outward.sum = 0) ∧ (a.nonfinite = false → a.outward = a))

/-! ### Stream engine (ch04) -/

/-- A stream operation without a token, behind none of its queue, runs as it is accepted (R128, R162, R168, R174): its outputs
are in the memories, and it stands as having run. That it runs in the step that accepts it is the model's choice (log 9). -/
def Obligations.StreamOperationsRun : Prop :=
  ∀ (c : Core) (q : QIx) (ue : List Nat) (s : State) (w : Nat) (keys : List Nat) (d : SeDone),
    let k := qid c q
    let e := c.val + Ins.eng w
    let r := seRecord (s.queue k) w (leNat (s.readKeys keys))
    let p := s.seParams e r
    let runs (kind : Nat) (i : Instr) : Prop :=
      Safety.issues 0x50 c q s w = true → Safety.untraced s k = true → Safety.unfaulted s k = true → s.seFree c.val e k = true →
      s.auxKeys e (Ins.addr w) 64 64 = some keys → s.meetsBad ue keys = none → seKind r = kind → SRec.tq r = false →
      ((s.se e).ops.any fun o => decide (o.qid = k) && decide (o.phase ≠ .ran)) = false →
      s.seCause e r p true = none → s.meetsBad ue (s.seReadKeys e r p) = none → s.doStream e r p = .inr d →
      (∀ o ∈ (s.se e).ops, ¬(o.qid = k ∧ o.seq = (s.queue k).seq)) →
      ∃ t o, exec i s = .next t ∧ Safety.wentOn s t k ∧ (t.se e).ops = (s.se e).ops ++ [o] ∧ o.phase = .ran ∧ o.qid = k ∧ o.stats = d.stats ∧
        t.mem = (d.writes.foldl (fun s x => s.writeAt x.1 x.2) s).mem ∧ t.free = s.free + d.drawn ∧ t.mes = s.mes ∧ t.des = s.des
    runs 0 (.sop c q ue) ∧ runs 1 (.merge c q ue) ∧ runs 2 (.weightUpdate c q ue)

/-- The wait for a token that began first takes the oldest token (R145, R148), and the operation runs with it; an operation that has
run completes and leaves the engine, and frees its token's slot (R106, R147). -/
def Obligations.StreamEngineEvents : Prop :=
  ∀ (c : Core) (ue : List Nat) (s : State) (x : TileTok) (o : SeOp) (d : SeDone), s.powered = true →
    let e := c.val
    let r := putField (putField o.rcd 412 25 (bits x.token 47 24)) 260 4 (bits x.token 23 20)
    let p := s.seParams e r
    (((s.me (s.leadOf e)).tokens.take 8).find? (fun y => !y.taken) = some x → (s.se e).ops.find? (fun o => decide (o.phase = .token)) = some o →
      s.firstTurn e o.turn = true → s.power.modeChange = none → s.seCause e r p true = none → s.meetsBad ue (s.seReadKeys e r p) = none → s.doStream e r p = .inr d →
      (∀ y ∈ (s.se e).ops, y.phase ≠ .queued) →
      ∃ t, exec (.tileTokenTake c ue) s = .next t ∧ (t.me (s.leadOf e)).tokens = takeToken (s.me (s.leadOf e)).tokens ∧
        ∃ y ∈ (t.se e).ops, y.qid = o.qid ∧ y.seq = o.seq ∧ y.phase = .ran ∧ y.token = some x.token) ∧
    ((s.se e).ops.find? (fun o => decide (o.phase = .ran)) = some o → (∀ y ∈ (s.se e).ops, y.phase ≠ .queued) →
      ∃ t, exec (.seOpComplete c) s = .next t ∧ (∀ y ∈ (t.se e).ops, ¬(y.qid = o.qid ∧ y.seq = o.seq)) ∧
        (o.token = none → t.mes = s.mes) ∧
        (∀ v, o.token = some v → o.slot = true → (s.me (s.leadOf e)).ops.all (fun m => decide (m.phase ≠ .tokenHeld)) = true →
          (t.me (s.leadOf e)).tokens = dropFirst (fun y => y.taken && decide (y.token = v)) (s.me (s.leadOf e)).tokens))

/-! ### DMA engine (ch07) -/

/-- The `DMA` instructions are accepted (R173, R229, R230, R232 to R241): the queue goes on, and the engine holds the descriptor and
the shape record as they were read. -/
def Obligations.DmaInstructionsAccepted : Prop :=
  ∀ (c : Core) (q : QIx) (ue : List Nat) (s : State) (w raw h : Nat),
    let k := qid c q
    let e := c.val + Ins.eng w
    let d := dmaDescriptor (s.queue k) w raw
    let p := (s.ctx ((s.queue k).ctx.getD 0)).part
    let accepts (op : Nat) (i : Instr) (bad : List Nat) : Prop :=
      Safety.issues 0x60 c q s w = true → s.deFree c.val e k = true → s.dmaRecord e bad (Ins.addr w) 64 = .inr raw → DRec.op d = op →
      descriptorOk d = true → (op ≤ 3 → s.dmaRecord e bad (DRec.shapeAddr d) 128 = .inr h) → (op = 4 → h = 0) →
      s.dmaCause e p (Ins.addr w) d h = none →
      ∃ t x, exec i s = .next t ∧ Safety.wentOn s t k ∧ ((t.de e).active = some x ∨ (t.de e).shadow = some x) ∧
        x.qid = k ∧ x.seq = (s.queue k).seq ∧ x.pc = (s.queue k).pc ∧ x.desc = d ∧ x.shape = h ∧ x.descAddr = Ins.addr w
    accepts 0 (.xfer c q ue) ue ∧ accepts 1 (.gather c q ue) ue ∧ accepts 2 (.scatter c q ue) ue ∧ accepts 3 (.scatterAdd c q ue) ue ∧
    accepts 4 (.bank c q) []

/-- The life of an accepted transfer (R230, R231, R249 to R251, R254): the shadow transfer becomes active, a finished transfer writes its
status word and awaits its bound completion, and with that leaves the engine; a transfer that met a fault leaves it and faults its queue. One
element of a plain transfer between memories of the module takes the bytes of its source as they are at its turn (R235, R237); one of a block that the reuse buffer holds takes
the bytes as they were read and is not read again (R243). That all elements move at the start is the model's choice (log 7). -/
def Obligations.DmaTransfersRun : Prop :=
  (∀ (c : Core) (ue : List Nat) (i : Nat) (s : State) (x : DeXfer), s.powered = true →
    let E := s.de c.val
    (E.active = none → E.shadow = some x → (∀ y ∈ E.waiting, x.conflicts y = false) →
      ∃ t y, exec (.shadowStart c ue) s = .next t ∧ (t.de c.val).active = some y ∧ y.qid = x.qid ∧ y.seq = x.seq ∧ y.desc = x.desc ∧
        (t.de c.val).shadow = none) ∧
    (E.active = some x → x.started = true → x.cause = 0 → x.reads = [] → x.bankWait = false →
      ∃ t, exec (.statusWordWrite c) s = .next t ∧ (t.de c.val).active = none ∧ (t.de c.val).waiting = E.waiting ++ [x] ∧
        (t.de c.val).shadow = E.shadow ∧
        (DRec.compl x.desc = true → Safety.untraced s x.qid = true → t.mem = s.mem) ∧
        (DRec.compl x.desc = false → Safety.untraced s x.qid = true → x.descAddr % 64 = 0 → t.spadRead c.val x.descAddr 8 =
          leBytes 8 (x.status (leNat (s.spadRead c.val x.descAddr 8)) 0 (E.shadow.any fun u => decide (u.descAddr = x.descAddr))))) ∧
    (E.waiting[i]? = some x → x.remote = 0 → x.cause = 0 →
      ∃ t, exec (.boundCompletion c i) s = .next t ∧ (t.de c.val).waiting.length + 1 = E.waiting.length ∧
        (DRec.compl x.desc = true → t.sync = { s.sync with pulses := s.sync.pulses ++ [DRec.pulse x.desc] }) ∧
        (DRec.compl x.desc = false → DRec.sigKind x.desc = 0 → t.sync = s.sync ∧ (t.de c.val).waiting = dropAt E.waiting i ∧ (t.de c.val).active = E.active) ∧
        (DRec.compl x.desc = false → DRec.sigKind x.desc ≠ 0 → DRec.sigRemote x.desc = false → (t.de c.val).waiting = dropAt E.waiting i ∧ ∃ b, t.sync.bound = s.sync.bound ++ [b] ∧ b.obj = DRec.sigObj x.desc ∧
          b.kind = DRec.sigKind x.desc ∧ b.qid = x.qid ∧ b.origin = 0)) ∧
    (∀ y, E.active = some x → x.cause ≠ 0 → (s.queue x.qid).ctx = some y → (s.queue x.qid).st ≠ .faulted →
      ∃ t, exec (.dmaTransferFault c) s = .next t ∧ (t.de c.val).active = none ∧ (t.queue x.qid).st = .faulted ∧
        (t.queue x.qid).fault.cause = x.cause ∧ (t.queue x.qid).fault.pc = x.pc ∧ (t.queue x.qid).fault.detail = x.descAddr % 2 ^ 32)) ∧
  (∀ (p d h : Nat) (got : List (Nat × Bytes)) (x : XRun) (sa a i : Nat) (again : Option Nat) (bs : Bytes),
    x.cause = 0 → DRec.op d < 3 → DRec.fmt d ≠ 7 → sa / 2 ^ 56 ≤ 1 → a / 2 ^ 56 ≤ 1 → (x.s.place sa).isSome = true → (x.s.place a).isSome = true →
    (x.s.isMem sa = true → x.s.owns p sa = true) → (x.s.isMem a = true → x.s.owns p a = true) →
    ((again = none ∧ x.s.meetsBad [] (x.s.addrKeys sa (srcSize d)) = none ∧ bs = x.s.readKeys (x.s.addrKeys sa (srcSize d))) ∨
      (∃ o, again = some o ∧ bs.length = srcSize d ∧ (x.kept.find? fun k => decide (k.1 = o)).map (·.2) = some bs)) →
    let y := x.step p [] d h got { src := some sa, dst := some a, kind := .plain, ord := i, again := again }
    y.cause = 0 ∧ y.written = x.written + 1 ∧ y.reads = x.reads + (if again.isSome then 0 else 1) ∧
    (again = none → DRec.op d = 1 → y.kept = (i, bs) :: x.kept) ∧
    y.s.readKeys (x.s.addrKeys a (srcSize d)) = bs ∧
    ∀ g, g ∉ x.s.addrKeys a (srcSize d) → Mem.byte y.s.mem.cells g = Mem.byte x.s.mem.cells g)

/-! ### Module memory (ch08) -/

/-- Patrol (R274, R275) counts what it finds and starts its counts again each period; sparing (R276 to R278, R280) copies a sub-channel to the
survivors and keeps its uncorrectable lines on the poison list. -/
def Obligations.MemoryKeepsItself : Prop :=
  (∀ (d : Die) (ch line : Nat) (s : State), s.powered = true →
    let a := d.val * 2 ^ 42 + 256 * line
    (256 * line < dieBytes → (s.memUnit (unitOf a)).st ≠ .free → (s.lineAt a).1 = ch → s.badIn a = none →
      (∃ t, exec (.patrolScrub d ch line 0) s = .next t ∧ t.mem = s.mem ∧ t.rel = s.rel) ∧
      (∃ t, exec (.patrolScrub d ch line 1) s = .next t ∧ (t.subch d.val ch).ce = min ((s.subch d.val ch).ce + 1) 65535 ∧ t.mem.cells = s.mem.cells) ∧
      (∃ t j, exec (.patrolScrub d ch line 2) s = .next t ∧ j < 8 ∧ a + 32 * j ∈ t.mem.bad ∧ t.mem.cells = s.mem.cells ∧
        ∃ x, t.rel.cper = (s.rel.cper ++ x).drop ((s.rel.cper ++ x).length - 256) ∧ x ≠ [])) ∧
    (ch < 256 → ∃ t, exec (.patrolPeriodEnd d ch) s = .next t ∧ (t.subch d.val ch).ce = 0 ∧ (t.subch d.val ch).newUe = false ∧
      (t.subch d.val ch).ueLines = (s.subch d.val ch).ueLines ∧
      (t.subch d.val ch).st = (if (s.subch d.val ch).st = 1 ∧ (s.subch d.val ch).newUe = false ∧ 2 * (s.subch d.val ch).ce < s.mem.ceThreshold then 0
        else (s.subch d.val ch).st))) ∧
  (∀ (d : Die) (bad : List Nat) (s : State), s.powered = true →
    let D := s.die d.val
    (∀ c l, D.pending = c :: l → D.copying = false → D.events.length < 7 → s.power.startStep = none → s.power.modeChange = none →
      ∃ t e, exec (.sparingCopyStart d) s = .next t ∧ (t.die d.val).events = D.events ++ [e] ∧ e.f = c ∧ e.complete = false ∧ e.ptr = 0 ∧
        (t.subch d.val c).st = 3 ∧ t.mem.cells = s.mem.cells) ∧
    (∀ e, D.events.find? D.runs = some e → ((s.corrected bad).copyBad d.val e.f bad).length ≤ 4096 - D.poison.length → s.power.modeChange = none →
      ∃ t, exec (.sparingCopyEnd d bad) s = .next t ∧ { e with complete := true } ∈ (t.die d.val).events ∧ (t.subch d.val e.f).st = 4 ∧
        (∀ g ∈ (s.corrected bad).copyBad d.val e.f bad, g ∈ (t.die d.val).poison) ∧ t.mem.cells = s.mem.cells))

/-- Units are cleared one at a time on a die (R293, R294): the oldest waiting one begins, and its end leaves zeros in the whole unit, and
every other byte as it was. -/
def Obligations.UnitsAreCleared : Prop :=
  ∀ (d : Die) (s : State) (u : Nat), Safety.serves s = true →
    (∀ us, (s.die d.val).clearing = none → (s.die d.val).clearQ = u :: us →
      ∃ t b, exec (.unitClearStart d) s = .next t ∧ (t.die d.val).clearing = some (u, b) ∧ (t.die d.val).clearQ = us ∧ t.mem.cells = s.mem.cells) ∧
    (∀ b, (s.die d.val).clearing = some (u, b) → (s.memUnit u).revoking = false →
      ∃ t, exec (.unitClearEnd d) s = .next t ∧ (t.die d.val).clearing = none ∧
        (∀ a, unitBase u ≤ a → a < unitBase u + unitBytes → Mem.byte t.mem.cells a = 0) ∧
        (∀ a, a < unitBase u ∨ unitBase u + unitBytes ≤ a → Mem.byte t.mem.cells a = Mem.byte s.mem.cells a))

/-! ### Walien links (ch09) -/

/-- Bringing a port up (R296, R297, R333 to R336), and what happens to one that is up (R298 to R300, R309, R335): a fresh key once the old
one has served its slots, a pair dropped and taken back, VC0's tokens. -/
def Obligations.PortsRun : Prop :=
  (∀ (w : WPort) (rep : LinkReport) (reason : Nat) (s : State), s.linksOn = true → (s.port w.val).rerouted = false →
    let p := s.port w.val
    let placed := s.fab.moduleId.testBit 15 = true ∧ torusSize s.fab.dims (w.val / 2) ≠ 1
    let right := placed ∧ rep.peerValid = true ∧ s.expectedPeer w.val = (rep.peerId % 2 ^ 11, rep.peerPort % 8)
    (p.st = .training → p.retraining = false → p.lowPower = false → p.pairsOff = 0 → rep.lanes ≤ 8 →
      s.fab.external.testBit w.val = false → rep.peerExternal = false → right →
      ∃ t, exec (.linkUp w rep) s = .next t ∧ (t.port w.val).st = .up ∧ (t.port w.val).lanes = rep.lanes ∧ (t.port w.val).credits = fullCredits ∧
        (t.port w.val).encrypted = false ∧ (t.port w.val).peerId = rep.peerId % 2 ^ 11 ∧ (∀ v, v ≠ w.val → t.port v = s.port v) ∧
        Safety.fabricOnly s { t with free := s.free }) ∧
    (p.st = .training → p.retraining = false → p.lowPower = false → (s.fab.external.testBit w.val = true ∨ rep.peerExternal = true) →
      (∀ f ∈ p.retry, f.type ≠ 1) →
      ∃ t, exec (.linkUp w rep) s = .next t ∧ (t.port w.val).st = .securing ∧ (t.port w.val).encrypted = false ∧
        (t.port w.val).ctl = p.ctl ++ securing (decide (s.myId < rep.peerId % 2 ^ 11)) ∧ Safety.fabricOnly s { t with free := s.free }) ∧
    (p.st = .waitId → right → p.encrypted = (s.fab.external.testBit w.val || rep.peerExternal) → ∃ t, exec (.linkUp w rep) s = .next t ∧ (t.port w.val).st = .up ∧ Safety.fabricOnly s t) ∧
    (p.st = .securing → p.secWait = false → placed → p.peerValid = true → s.marked w.val = true → s.expectedPeer w.val = (p.peerId, p.peerPort) →
      ∃ t, exec (.linkSecuring w true reason) s = .next t ∧ (t.port w.val).st = .up ∧ (t.port w.val).encrypted = true ∧
        (t.port w.val).slots = 0 ∧ (t.port w.val).rxSlots = 0 ∧ Safety.fabricOnly s { t with free := s.free }) ∧
    (p.st = .securing → p.secWait = false → ∃ t x, exec (.linkSecuring w false reason) s = .next t ∧ (t.port w.val).st = .securing ∧
      (t.port w.val).secWait = true ∧ t.rel.cper = (s.rel.cper ++ [x]).drop ((s.rel.cper ++ [x]).length - 256)) ∧
    (p.st = .securing → p.secWait = true → ∃ t, exec (.securingRetry w) s = .next t ∧
      t.port w.val = { p with secWait := false, ctl := p.ctl ++ securing (decide (s.myId < p.peerId)) } ∧ Safety.fabricOnly s t)) ∧
  (∀ (w : WPort) (lane : Fin 8) (passed : Nat) (s : State), s.linksOn = true →
    let p := s.port w.val
    let j := lane.val / 2
    (p.st = .up ∨ p.st = .waitId → p.encrypted = true → keySlots ≤ p.slots → p.exchanging = false → ∃ t, exec (.rekey w) s = .next t ∧ (t.port w.val).keyId = 1 - p.keyId % 2 ∧
      (t.port w.val).slots = 0 ∧ (t.port w.val).rxSlots = 0 ∧ (t.port w.val).txq = p.txq ∧ Safety.fabricOnly s { t with free := s.free }) ∧
    (p.linked = true → p.agreedOff.testBit j = false → 4 < pairLanes p.agreedOff →
      ∃ t, exec (.laneBad w lane) s = .next t ∧ (t.port w.val).st = p.st ∧ (t.port w.val).lanes = p.lanes ∧ (t.port w.val).pairsOff = p.pairsOff ∧
        (t.port w.val).ctl = p.ctl ++ [.width (p.agreedOff + 2 ^ j) ((p.nextLseq + p.ctl.length) % 4096)] ∧
        (t.port w.val).txq = p.txq ∧ (t.port w.val).retry = p.retry) ∧
    (p.linked = true ∨ p.st = .miswired → p.agreedOff.testBit j = false → pairLanes p.agreedOff ≤ 4 → ∃ t, exec (.laneBad w lane) s = .next t ∧
      (t.port w.val).st = .failed ∧ (t.port w.val).retry = []) ∧
    (p.st = .up → p.agreedOff = 2 ^ j → passed.testBit j = true → p.pairsDead.testBit j = false →
      ∃ t, exec (.lanePairTest w passed) s = .next t ∧ t.port w.val = p.agreeWidth 0 ∧ Safety.fabricOnly s t) ∧
    (∀ off l cs, p.linked = true → p.retryDue = false → p.replay = [] → p.retry.length < 1024 → p.ctl = .width off l :: cs →
      ∃ t, exec (.flitSend w) s = .next t ∧ (t.port w.val).pairsOff = off ∧ (t.port w.val).lanes = pairLanes off ∧ (t.port w.val).retry.length = p.retry.length + 1) ∧
    (∃ t, exec (.vc0TokenRefill w) s = .next t ∧ t.port w.val = { p with vc0Tokens := min 64 (p.vc0Tokens + s.fab.vc0Cap) } ∧ Safety.fabricOnly s t))

/-- One flit slot of a port that is up (R303, R304, R308): a due RETRY first, then a replay in order, then link control, else a flit with
a credit takes the next link sequence number and stays in the retry buffer, else IDLE; each carries the acknowledgement of what was
accepted, and leaves as 256 bytes (R301, R335). Link control leaves while the port trains, too (R297). -/
def Obligations.FlitSlots : Prop :=
  ∀ (w : WPort) (s : State), s.linksOn = true → (s.port w.val).retraining = false →
    let p := s.port w.val
    let sends (P : State → Flit → Prop) : Prop :=
      ∃ t f l, exec (.flitSend w) s = .next t ∧ t.outbox = s.outbox ++ [.flit w f, .frame w (p.frame f)] ++ l ∧
        f.lack = (p.expLseq + 4095) % 4096 ∧ f.keyId = p.keyId ∧ P t f
    (p.st = .up → p.retryDue = true → sends fun t f =>
      f.type = 2 ∧ (t.port w.val).retryDue = false ∧ (t.port w.val).txq = p.txq ∧ (t.port w.val).retry = p.retry) ∧
    (∀ g l, p.st = .up → p.retryDue = false → p.replay = g :: l → sends fun t f =>
      f.type = g.type ∧ f.lseq = g.lseq ∧ f.payload = g.payload ∧ (t.port w.val).replay = l ∧ (t.port w.val).txq = p.txq) ∧
    (∀ c cs, (p.st = .training ∨ p.linked = true) → p.retryDue = false → p.replay = [] → p.retry.length < 1024 → p.ctl = c :: cs →
      sends fun t f => f.type = 3 ∧ f.lseq = p.nextLseq ∧ f.payload = c.payload.take 224 ∧
        (t.port w.val).nextLseq = (p.nextLseq + 1) % 4096 ∧ (t.port w.val).txq = p.txq) ∧
    (∀ e x, p.st = .up → p.retryDue = false → p.replay = [] → p.ctl = [] → p.retry.length < 1024 → e.2.len ≤ flitRoom p.encrypted →
      p.pick s.fab.vcWeights = (some e, x) → sends fun t f =>
      f.lseq = p.nextLseq ∧ f.vc = e.2.vc ∧ f.payload = e.2.payload ∧ (t.port w.val).nextLseq = (p.nextLseq + 1) % 4096 ∧
      (t.port w.val).retry = p.retry ++ [{ e.2 with lseq := p.nextLseq }]) ∧
    (p.st = .up → p.retryDue = false → p.replay = [] → p.ctl = [] → p.txq = [] → sends fun t f =>
      f.type = 0 ∧ (t.port w.val).nextLseq = p.nextLseq ∧ (t.port w.val).retry = p.retry)

/-- Flits that arrive (R303 to R306, R311, R337): in order they are accepted, out of order or spoiled they are not, and one of no type of
R303 counts as spoiled; what a flit acknowledges leaves the retry buffer, and a RETRY has what is left sent again. A port that hears
nothing replays, retrains once 16 replays have not brought a flit across, and is back or FAILED with that (R304, R305). -/
def Obligations.FlitsArrive : Prop :=
  (∀ (w : WPort) (f : Flit) (s : State), s.linksOn = true → (s.port w.val).st = .up → (s.port w.val).retraining = false →
    let p := s.port w.val
    let q := p.slotIn.heed f
    let e := (p.expLseq + 1) % 4096
    let bad := { p.slotIn with retryDue := true, tagFails := if p.tagMiss f then p.tagFails + 1 else p.tagFails }
    (f.intact = true → f.type = 1 → f.lseq = p.expLseq → ∃ t, exec (.msgFlitReceive w f) s = .next t ∧ (t.port w.val).expLseq = e) ∧
    (f.intact = true → f.type = 1 → f.lseq ≠ p.expLseq → ∃ t, exec (.msgFlitReceive w f) s = .next t ∧
      t.port w.val = q ∧ t.fab.rx = s.fab.rx ∧ Safety.fabricOnly s t) ∧
    ((f.intact = false ∧ f.type = 1 ∨ 4 ≤ f.type) → p.tagFails < 15 → ∃ t, exec (.msgFlitReceive w f) s = .next t ∧
      t.port w.val = bad ∧ t.fab.rx = s.fab.rx ∧ Safety.fabricOnly s t) ∧
    (f.intact = true → f.type = 0 → ∃ t, exec (.idleFlitReceive w f) s = .next t ∧ t.port w.val = q ∧ Safety.fabricOnly s t) ∧
    (f.intact = true → f.type = 3 → f.lseq = p.expLseq → ∃ t, exec (.linkctlFlitReceive w f) s = .next t ∧
      t.port w.val = { q with tagFails := 0, expLseq := e } ∧ Safety.fabricOnly s t) ∧
    (f.intact = true → f.type = 2 → q.retry ≠ [] → (∀ g ∈ q.retry, Tbl.get 0 q.tries g.lseq < 16) →
      ∃ t, exec (.retryFlitReceive w f) s = .next t ∧ t.port w.val = { q with replay := q.retry } ∧ Safety.fabricOnly s t)) ∧
  (∀ (w : WPort) (s : State), s.linksOn = true →
    let p := s.port w.val
    (p.st = .up → p.retraining = false → p.retry ≠ [] → (∀ g ∈ p.retry, Tbl.get 0 p.tries g.lseq < 16) →
      ∃ t, exec (.replayTimeout w) s = .next t ∧ t.port w.val = { p with replay := p.retry } ∧ Safety.fabricOnly s t) ∧
    (p.st = .up → p.retraining = false → (∃ g ∈ p.retry, 16 ≤ Tbl.get 0 p.tries g.lseq) → ∃ t, exec (.replayTimeout w) s = .next t ∧
      t.port w.val = { p with st := .training, retraining := true, replay := [], tries := [], ctl := p.ctl ++ [s.identity w.val] } ∧
      Safety.fabricOnly s t) ∧
    (p.retraining = true → p.st = .training → s.marked w.val = true → ∃ t, exec (.portRetrainEnd w true) s = .next t ∧
      t.port w.val = { p with st := .securing, secWait := false, retraining := false, replay := p.retry, ctl := p.ctl ++ securing (decide (s.myId < p.peerId)) } ∧
      Safety.fabricOnly s t) ∧
    (p.retraining = true → p.rerouted = false → p.st = .training → s.marked w.val = false → p.encrypted = false →
      s.fab.moduleId.testBit 15 = true → p.peerValid = true →
      torusSize s.fab.dims (w.val / 2) ≠ 1 → s.expectedPeer w.val = (p.peerId, p.peerPort) → ∃ t, exec (.portRetrainEnd w true) s = .next t ∧
      t.port w.val = { p with st := .up, retraining := false, replay := p.retry } ∧ Safety.fabricOnly s t) ∧
    (p.retraining = true → p.st = .training → ∃ t, exec (.portRetrainEnd w false) s = .next t ∧ (t.port w.val).st = .failed ∧ (t.port w.val).lanes = 0) ∧
    (p.st = .failed → ∃ t, exec (.failedPortRetry w) s = .next t ∧ t.port w.val = { p with retraining := true } ∧ Safety.fabricOnly s t))

/-! ### Sessions of the fabric (ch09) -/

/-- A partition writes and reads the memory of another module through its session (R264, R324, R325): the next message of an open session is
delivered once, its bytes are written or its data returned, and it is acknowledged; the data of a read reaches its transfer (R236). -/
def Obligations.RemoteReadsAndWrites : Prop :=
  (∀ (m : FabMsg) (keys : List Nat) (s : State), s.linksOn = true → s.admits m = true → s.arrival m = .next → (s.part m.dpart).traceBytes = 0 →
    (route s.fab.dims s.fab.linkMap s.myId m.src).isSome = true → (s.session (sessAt m)).mayAck s.clockUs = true →
    (m.op = 0x01 → s.remoteKeys m m.data.length = some keys →
      ∃ t a, exec (.fabWrite m) s = .next t ∧ t.readKeys keys = m.data ∧ (∀ g, g ∉ keys → Mem.byte t.mem.cells g = Mem.byte s.mem.cells g) ∧
        (t.session (sessAt m)).rxSeq = ((s.session (sessAt m)).rxSeq + 1) % 2 ^ 14 ∧
        Out.message a ∈ t.outbox ∧ a.op = 0x05 ∧ a.status = 0 ∧ a.sseq = m.sseq ∧ a.dst = m.src) ∧
    (m.op = 0x02 → m.addr / 2 ^ 56 ≠ 2 → s.remoteKeys m m.len = some keys → s.meetsBad [] keys = none →
      ∃ t a, exec (.readReq m) s = .next t ∧ t.mem.cells = s.mem.cells ∧
        (t.session (sessAt m)).rxSeq = ((s.session (sessAt m)).rxSeq + 1) % 2 ^ 14 ∧
        Out.message a ∈ t.outbox ∧ a.op = 0x03 ∧ a.status = 0 ∧ a.tag = m.tag ∧ a.dst = m.src ∧ a.data = s.readKeys keys)) ∧
  (∀ (m : FabMsg) (s : State) (o : Outstanding) (e q pc seq : Nat) (x : DeXfer), s.linksOn = true → m.op = 0x03 →
    let k := State.sessKey m.dpart 2 m.src
    (s.session k).st = .opened → (s.session k).waitq = [] → m.status / 256 ≠ 1 →
    (s.session k).out.find? (fun o => decide (o.msg.op = 0x02) && decide (o.msg.tag = m.tag)) = some o → o.de = some (e, q, pc, seq) →
    (s.de e).active = some x → x.qid = q → x.seq = seq → x.cause = 0 →
    ∃ t y, exec (.readResp m) s = .next t ∧ (t.de e).active = some y ∧ y.qid = q ∧ y.seq = seq ∧ y.desc = x.desc ∧
      y.reads = x.reads.filter (fun r => decide (r.1 ≠ m.tag)) ∧
      (y.reads ≠ [] → y.remote = x.remote - 1 ∧ y.got.map (·.2) = x.got.map (·.2) ++ [m.data] ∧ (t.session k).out = (s.session k).out.filter (fun z => !decide (z = o))))

/-- A remote synchronisation operation that its object takes (R201, R203, R325) is acknowledged. What an acknowledgement covers is outstanding no
more; a HOLD stops the resend timer; without progress what is outstanding is sent again in order, and after sixteen resends the session
fails (R327, R328). -/
def Obligations.AcknowledgementsAndResends : Prop :=
  (∀ (m : FabMsg) (s : State) (o : SyncObj) (ws : List Waiter), s.linksOn = true → m.op = 0x04 → s.admits m = true → s.arrival m = .next →
    (s.session (sessAt m)).held = [] → s.syncFrozen m = false → (route s.fab.dims s.fab.linkMap s.myId m.src).isSome = true →
    (s.session (sessAt m)).mayAck s.clockUs = true →
    let p := syncOpOf (((s.takeRx m).expectNext m).delivered m) m
    p.opc = 0x70 ∨ p.opc = 0x73 ∨ p.opc = 0x77 → (s.obj p.obj).take p = .inr (o, ws) →
    ∃ t a, exec (.sync m) s = .next t ∧ t.obj p.obj = { o with causal := max o.causal p.causal } ∧
      Out.message a ∈ t.outbox ∧ a.op = 0x05 ∧ a.status = 0 ∧ a.sseq = m.sseq ∧ (∀ j, j ≠ p.obj → t.obj j = s.obj j)) ∧
  (∀ (m : FabMsg) (p : Part) (cls peer : Nat) (s : State), s.linksOn = true →
    let k := State.sessKey m.dpart (m.addr % 4) m.src
    let covered (o : Outstanding) : Bool :=
      decide ((m.sseq + 2 ^ 14 - o.msg.sseq) % 2 ^ 14 < 256) && decide (o.msg.op ≠ 0x02 ∨ o.msg.sseq = m.sseq ∧ m.status / 256 = 1)
    let r := State.sessKey p.val cls peer
    (m.op = 0x05 → (s.session k).st = .opened → (s.session k).waitq = [] → m.status / 256 ≠ 1 → (s.session k).out.any covered = true →
      ∃ t, exec (.ack m) s = .next t ∧ (t.session k).out = (s.session k).out.filter (fun o => !covered o) ∧ (t.session k).resends = 0 ∧
        t.mem = s.mem) ∧
    (m.op = 0x06 → (s.session k).out.any (fun o => decide (o.msg.sseq = m.sseq)) = true →
      ∃ t, exec (.hold m) s = .next t ∧ t.session k = { s.session k with holding := true } ∧ Safety.fabricOnly s t) ∧
    ((s.session r).st = .opened → (s.session r).out ≠ [] → (s.session r).holding = false → (s.session r).resends < 16 →
      ∃ t l, exec (.sessionResendTimeout p cls peer) s = .next t ∧ t.session r = { s.session r with resends := (s.session r).resends + 1 } ∧
        t.outbox = s.outbox ++ (s.session r).out.map (fun o => Out.message o.msg) ++ l) ∧
    ((s.session r).st = .opened → (s.session r).out ≠ [] → (s.session r).holding = false → 16 ≤ (s.session r).resends →
      ∃ t, exec (.sessionResendTimeout p cls peer) s = .next t ∧ (t.session r).st = .failed ∧ (t.session r).out = []))

/-- Opening a pair of sessions (R319 to R323): requests queue or are turned away, the oldest is served, and the reply opens the sessions with every
sequence number at 0, has the request repeated, or closes them. Closing a pair (R330), and the map of links (R314, R315). -/
def Obligations.SessionsOpenAndClose : Prop :=
  (∀ (m : FabMsg) (p : Part) (peer r : Nat) (s : State), s.linksOn = true →
    let opened (t : State) (p peer r : Nat) : Prop := ∀ k ∈ pairKeys p peer, t.session k = { st := .opened, rpart := r }
    let routed (d : Nat) : Prop := (route s.fab.dims s.fab.linkMap s.myId d).isSome = true
    (m.op = 0x10 → s.openBusy = false → ∃ t, exec (.openReq m) s = .next t ∧ t.fab.openQ = s.fab.openQ ++ [m] ∧ Safety.fabricOnly s t) ∧
    (m.op = 0x10 → s.openBusy = true → routed m.src → ∃ t a, exec (.openReq m) s = .next t ∧ t.fab.openQ = s.fab.openQ ∧ Out.message a ∈ t.outbox ∧
      a.op = 0x11 ∧ a.status = St.notReady ∧ a.dst = m.src) ∧
    (∀ ms, s.fab.openQ = m :: ms → (s.part m.dpart).st = .ready → (s.part m.dpart).peer m.src = some m.spart → routed m.src →
      ∃ t a, exec .openQueueServe s = .next t ∧ t.fab.openQ = ms ∧ opened t m.dpart m.src m.spart ∧ Out.message a ∈ t.outbox ∧ a.op = 0x11 ∧ a.status = St.ok) ∧
    (m.op = 0x11 → (s.session (State.sessKey m.dpart 0 m.src)).st = .opening → (s.session (State.sessKey m.dpart 0 m.src)).rpart = m.spart →
      (m.status = St.ok → ∃ t, exec (.openReply m) s = .next t ∧ opened t m.dpart m.src m.spart) ∧
      (m.status = St.notReady → ∃ t, exec (.openReply m) s = .next t ∧
        Tbl.get 0 t.fab.openRetry (2048 * m.dpart + m.src) = Tbl.get 0 s.fab.openRetry (2048 * m.dpart + m.src) + 1 ∧ Safety.fabricOnly s t) ∧
      (m.status = St.noPeer → (∀ k ∈ pairKeys m.dpart m.src, (s.session k).st = .opening) →
        ∃ t, exec (.openReply m) s = .next t ∧ (∀ k ∈ pairKeys m.dpart m.src, t.session k = {}) ∧ Safety.fabricOnly s t)) ∧
    ((s.session (State.sessKey p.val 0 peer)).st = .opening → Tbl.get 0 s.fab.openRetry (2048 * p.val + peer) ≠ 0 → routed peer →
      ∃ t a, exec (.openRetry p peer) s = .next t ∧ Out.message a ∈ t.outbox ∧ a.op = 0x10 ∧ a.dst = peer ∧ a.spart = p.val) ∧
    (s.mayOpen p.val peer = true →
      (s.part p.val).peer peer = some r → s.myId < peer → s.powered = true → (s.part p.val).st = .ready → routed peer →
      ∃ t a, exec (.sessionReopen p peer) s = .next t ∧ (∀ k ∈ pairKeys p.val peer, t.session k = { st := .opening, rpart := r }) ∧
        Out.message a ∈ t.outbox ∧ a.op = 0x10 ∧ a.dst = peer)) ∧
  (∀ (m : FabMsg) (w : WPort) (s : State), s.linksOn = true →
    (m.op = 0x12 → (route s.fab.dims s.fab.linkMap s.myId m.src).isSome = true →
      (∀ k ∈ pairKeys m.dpart m.src, (s.session k).st = .opened ∧ (s.session k).rpart = m.spart ∧ (s.session k).out = [] ∧ (s.session k).waitq = [] ∧
        (s.session k).held = [] ∧ (s.session k).ackDue = []) →
      ∃ t a, exec (.close m) s = .next t ∧ (∀ k ∈ pairKeys m.dpart m.src, t.session k = {}) ∧ Out.message a ∈ t.outbox ∧ a.op = 0x13 ∧ a.dst = m.src) ∧
    (m.op = 0x13 → (∀ k ∈ pairKeys m.dpart m.src, (s.session k).st = .closing ∧ (s.session k).out = [] ∧ (s.session k).waitq = [] ∧
        (s.session k).held = [] ∧ (s.session k).ackDue = []) →
      ∃ t, exec (.closeReply m) s = .next t ∧ ∀ k ∈ pairKeys m.dpart m.src, t.session k = {}) ∧
    (m.op = 0x20 → m.src ≠ s.myId →
      s.fab.linkMap.filter (fun k => decide (k / 8 = m.src)) ≠ (mapSet s.fab.linkMap m.src (m.addr % 64)).filter (fun k => decide (k / 8 = m.src)) →
      ∃ t, exec (.linkState w m) s = .next t ∧ t.fab.linkMap = mapSet s.fab.linkMap m.src (m.addr % 64) ∧ t.mem = s.mem))

/-! ### Collectives (ch10) -/

/-- An exchange message of an open session (R375, R384) is held until an instance comes to it, and where one has, that instance takes it and it is
delivered. An abort ends the member's round with its status and is ignored once the round has ended; a signature or an epoch that differs ends it with the status of the
difference (R348, R350), and counts are kept by member (R380). -/
def Obligations.ExchangeMessages : Prop :=
  (∀ (m : FabMsg) (s : State), Safety.serves s = true → s.arrival m = .next → (s.part m.dpart).xheld = [] →
    let u := ((s.takeRx m).expectNext m).modPart m.dpart fun P => { P with xheld := [m] }
    let v := (u.modPart m.dpart fun P => { P with xheld := [] }).delivered m
    let takes (op : Nat) (i : Instr) : Prop :=
      m.op = op →
        (s.takerOf m = none → s.lateAbort m = false → ∃ t, exec i s = .next t ∧ (t.part m.dpart).xheld = [m] ∧ (t.part m.dpart).insts = (s.part m.dpart).insts ∧
          (t.session (sessAt m)).rxSeq = ((s.session (sessAt m)).rxSeq + 1) % 2 ^ 14 ∧ t.mem = s.mem) ∧
        (∀ x, s.takerOf m = some x → ∃ t, exec i s = .next t ∧ (t.part m.dpart).xheld = [] ∧
          (t.part m.dpart).insts = ((v.takeX x m).part m.dpart).insts ∧ t.mem = (v.takeX x m).mem ∧ t.sync.bound = (v.takeX x m).sync.bound)
    takes 0x30 (.xchRoll m) ∧ takes 0x31 (.xchAgree m) ∧ takes 0x32 (.xchWx m) ∧ takes 0x33 (.xchBfx m) ∧ takes 0x34 (.xchProbe m) ∧
    takes 0x35 (.xchPiece m) ∧ takes 0x36 (.xchCount m) ∧ takes 0x37 (.xchQuota m) ∧ takes 0x38 (.xchToken m) ∧ takes 0x39 (.xchReturn m) ∧
    takes 0x3A (.xchAbort m) ∧
    (m.op = 0x3A → s.takerOf m = none → s.lateAbort m = true → ∃ t, exec (.xchAbort m) s = .next t ∧ (t.part m.dpart).xheld = [] ∧
      (t.part m.dpart).insts = (s.part m.dpart).insts ∧ t.mem = v.mem)) ∧
  (∀ (m : FabMsg) (s : State) (x : Inst), x ∈ (s.part x.part).insts → (∀ y ∈ (s.part x.part).insts, y.h = x.h → y = x) →
    s.atHand (s.instRanges x) = true →
    let after (P : Inst → Prop) : Prop := ∃ y ∈ ((s.takeX x m).part x.part).insts, y.h = x.h ∧ P y
    (m.op = 0x3A → after fun y => y.phase = .ending ∧ y.status = leNat (slice (XHdr.body m) 0 2) ∧ y.causeModule = leNat (slice (XHdr.body m) 2 2)) ∧
    (m.op ≠ 0x3A → x.sig ≠ XHdr.sig m → after fun y => y.phase = .ending ∧ y.status = x.mismatch m ∧ y.causeModule = s.myId) ∧
    (m.op ≠ 0x3A → x.sig = XHdr.sig m → x.layout.epoch ≠ XHdr.epoch m → after fun y => y.phase = .ending ∧ y.status = St.epochMismatch) ∧
    (m.op = 0x36 → x.phase = .count → x.sig = XHdr.sig m → x.layout.epoch = XHdr.epoch m → x.arrived.length + 1 < x.layout.members →
      after fun y => y.phase = .count ∧ y.arrived = x.arrived ++ [(x.layout.rankOf s.fab.dims m.src).getD 0]))

/-- The life of a round (R345, R349 to R351, R354, R373, R374, R384): a trigger starts it on its round block, an exported bank is staged, its end raises the
done signal, and the next round waits or the instance is gone; time ends it with TIMEOUT; a message that waited too long is refused, and ends the round whose roll call it differs from (R348); a layout without instances is dropped. -/
def Obligations.RoundsRun : Prop :=
  (∀ (p : Part) (h i : Nat) (s : State) (x : Inst), Safety.serves s = true → s.inst p.val h = some x → x.part = p.val →
    (s.part p.val).xheld = [] →
    let after (t : State) (P : Inst → Prop) : Prop := ∃ y ∈ (t.part p.val).insts, y.h = h ∧ P y
    (x.phase = .trigger → s.sync.granted.contains (.coll p.val h) = true → (s.ctx x.ctx).st = .resident → s.atHand (s.instRanges x) = true →
      ∃ t, exec (.roundTrigger p h) s = .next t ∧ after t fun y => y.phase ≠ .trigger ∧ y.round = x.round ∧
        y.rb = leNat (s.addrRead (IBlk.paramAddr x.blk) 64)) ∧
    (∀ t0 tile, s.bankFlight[i]? = some t0 → t0.isExport = true → s.exportTo t0 = some (x, tile) → x.phase = .data → x.cancel = false →
      s.atHand (s.instRanges x) = true → x.exported.contains tile = false → (∀ e ∈ (List.range 256).zip t0.accs, e.2.win = x.window (256 * tile + e.1)) → x.exported.length + 1 < IBlk.tiles x.blk →
      ∃ t, exec (.exportBank i) s = .next t ∧ t.bankFlight = dropAt s.bankFlight i ∧ after t fun y => y.exported = x.exported ++ [tile] ∧ y.phase = .data) ∧
    (x.phase = .ending → ∃ t b, exec (.roundEnd p h) s = .next t ∧ t.sync.bound = s.sync.bound ++ [b] ∧ b.obj = IBlk.doneObj x.blk ∧ b.origin = 2 ∧
      (x.cancel = true ∨ IBlk.rounds x.blk = x.round + 1 → ∀ y ∈ (t.part p.val).insts, y.h ≠ h) ∧
      (x.cancel = false → IBlk.rounds x.blk ≠ x.round + 1 → after t fun y => y.phase = .trigger ∧ y.round = x.round + 1 ∧ y.status = 0)) ∧
    (x.phase ≠ .trigger → x.phase ≠ .ending → x.cancel = false → ∃ t, exec (.roundTimeout p h) s = .next t ∧
      after t fun y => y.phase = .ending ∧ y.status = St.timeout ∧ y.causeModule = s.myId)) ∧
  (∀ (p : Part) (g i : Nat) (s : State), Safety.serves s = true →
    (∀ m, (s.part p.val).xheld[i]? = some m → (∀ e ∈ (s.part p.val).xheld, s.takerOf e = none ∧ s.lateAbort e = false) → (∀ e ∈ (s.part p.val).xheld, e.dpart = p.val) →
      (∀ x ∈ (s.part p.val).insts, s.rollDiffers x m = false) →
      ∃ t, exec (.xchHoldTimeout p i) s = .next t ∧ (t.part p.val).xheld = dropAt (s.part p.val).xheld i ∧ t.mem = s.mem) ∧
    (∀ m x, (s.part p.val).xheld = [m] → m.dpart = p.val → x ∈ (s.part p.val).insts → x.part = p.val → (∀ y ∈ (s.part p.val).insts, y.h = x.h → y = x) →
      s.rollDiffers x m = true → ∃ t, exec (.xchHoldTimeout p 0) s = .next t ∧ (t.part p.val).xheld = [] ∧
        ∃ y ∈ (t.part p.val).insts, y.h = x.h ∧ y.phase = .ending ∧ y.status = x.mismatch m) ∧
    (∀ G l, s.group p.val g = some G → l ∈ G.old → (∀ x ∈ (s.part p.val).insts, ¬(IBlk.group x.blk = g ∧ x.layout = l)) →
      let kept := G.old.filter fun l => (s.part p.val).insts.any fun x => decide (IBlk.group x.blk = g) && decide (x.layout = l)
      (G.waiting = none → ∃ t, exec (.layoutDrained p g) s = .next t ∧ t.group p.val g = some { G with old := kept } ∧ t.mem = s.mem) ∧
      (∀ n, G.waiting = some n → ∃ t, exec (.layoutDrained p g) s = .next t ∧
        t.group p.val g = some { cur := { n with epoch := (G.cur.epoch + 1) % 2 ^ 16 }, old := kept ++ [G.cur] })))

/-! ### Kentis (ch13) -/

/-- Commands on contexts (R447 to R453): IDENTIFY completes; a created context has its units; a destruction stops its queues, and releases all
when it has drained; a suspension stops the queues that run or wait, a context that has drained, with no queue about to end, is saved, and a
saved one resumes under its new map. -/
def Obligations.ContextCommands : Prop :=
  ∀ (src : CmdSrc) (c : Cmd) (s : State),
    let w := c.slot
    let p := srcPart src
    let x := Slot.ctx w
    let does (op : Nat) (i : Instr) (ok : Prop) (effect : State → Prop) : Prop :=
      Safety.hasTurn op src s c = true → ok → ∃ t, exec i s = .next t ∧ effect t
    does 0x02 (.identify src) True (fun t => Safety.completes t c St.ok (Config.identifyRaw % 2 ^ 128) ∧ t.ctxs = s.ctxs ∧ t.mem = s.mem) ∧
    (∀ (bs : Bytes) (i : Nat),
      let y : Ctx := { st := .resident, part := p, saveAddr := bits w 191 128, saveBytes := bits w 255 192, clmBase := bits w 326 320,
                       clmLen := bits w 334 327, cmap := coreMap bs }
      let need := (s.setCtx 1024 y).saveNeed 1024
      does 0x10 (.ctxCreate src)
        (s.kRead p (bits w 319 256) 512 [0] = .inr bs ∧ (s.part p).refusing = false ∧ (s.part p).stopping = 0 ∧ y.saveAddr % 65536 = 0 ∧ s.okRange p y.saveAddr y.saveBytes true [0] = true ∧
          s.mapRefusal p 1024 y.cmap y.clmBase y.clmLen = none ∧ ((List.range 1024).find? fun i => decide ((s.ctx i).st = .none)) = some i ∧ need ≤ y.saveBytes)
        (fun t => t.ctx i = y ∧ (∀ j, j ≠ i → (s.ctx j).st ≠ .faulted → t.ctx j = s.ctx j) ∧ (∀ q ∈ y.queues, t.queue q = { ctx := some i }) ∧
          Safety.completes t c St.ok (need * 2 ^ 64 + i))) ∧
    does 0x11 (.ctxDestroy src) ((s.ctx x).part = p ∧ (s.ctx x).st ≠ .none ∧ (s.ctx x).st ≠ .destroying)
      (fun t => t.ctx x = { s.ctx x with st := .destroying } ∧
        ∀ q ∈ (s.ctx x).queues, (s.queue q).ctx = some x → (s.queue q).st = .running → (t.queue q).st = .stopped) ∧
    does 0x12 (.ctxSuspend src) (s.hasCtx p x = true ∧ (s.ctx x).st = .resident ∧ (s.ctx x).queues.Nodup)
      (fun t => t.ctx x = { s.ctx x with st := .suspending } ∧
        (∀ q ∈ (s.ctx x).queues, (s.queue q).st = .running ∨ (s.queue q).st = .waiting →
          t.queue q = { s.queue q with saved := (s.queue q).st, st := .suspended }) ∧
        ∀ q, ¬(q ∈ (s.ctx x).queues ∧ ((s.queue q).st = .running ∨ (s.queue q).st = .waiting)) → t.queue q = s.queue q) ∧
    (∀ bs : Bytes,
      let y := s.ctx x
      let a := bits w 255 192
      let ren := resumeCore bs y.cmap
      let m : Table Nat := y.cmap.foldl (fun t e => Tbl.put t (ren e.1) e.2) []
      does 0x13 (.ctxResume src)
        (s.hasCtx p x = true ∧ y.st = .suspended ∧ (s.part p).refusing = false ∧ y.saved.isSome = true ∧
          (if a = 0 then .inr [] else s.kRead p a 256 [0]) = (.inr bs : Nat ⊕ Bytes) ∧ nub (y.cmap.map fun e => ren e.1) = y.cmap.map (fun e => ren e.1) ∧
          s.mapRefusal p x m y.clmBase y.clmLen = none ∧ (s.setCtx x { y with cmap := m }).saveNeed x ≤ y.saveBytes)
        (fun t => (t.ctx x).cmap = m ∧ (t.ctx x).saved = none ∧ Safety.completes t c St.ok 0)) ∧
    (Safety.serves s = true →
      let free (x : Nat) : Bool := decide ((s.ctx x).st = .destroying) && s.drained x && (s.part (s.ctx x).part).insts.all fun i => decide (i.ctx ≠ x)
      let ended (q : Nat) : Bool := decide ((s.queue q).st ≠ .ending) || !s.queueDone q
      let ripe (x : Nat) : Bool := decide ((s.ctx x).st = .suspending) && s.drained x && s.roundsEnded x && (s.ctx x).queues.all ended
      (s.waitingCmd src (fun c => decide (Slot.op c.slot = 0x11) && free (Slot.ctx c.slot)) = some c →
        ∃ t, exec (.ctxReleaseComplete src) s = .next t ∧ t.ctx x = {} ∧ (∀ j, j ≠ x → (t.ctx j).cmap = (s.ctx j).cmap) ∧ Safety.completes t c St.ok 0) ∧
      (s.waitingCmd src (fun c => decide (Slot.op c.slot = 0x12) && ripe (Slot.ctx c.slot)) = some c →
        ∃ t, exec (.ctxSaveComplete src) s = .next t ∧ (t.ctx x).st = .suspended ∧ (t.ctx x).saved.isSome = true ∧ (∀ j, j ≠ x → t.ctx j = s.ctx j) ∧
          Safety.completes t c St.ok 0))

/-- Commands on queues (R454 to R456): a start sets the pc and `S1` to `S8`, a resumed queue goes on or presents its wait again, a stopped one
keeps its place, and the command completes once its instructions have. -/
def Obligations.QueueCommands : Prop :=
  ∀ (src : CmdSrc) (c : Cmd) (s : State),
    let w := c.slot
    let q := Slot.queue w
    let Q := s.queue q
    let others (t : State) : Prop := ∀ j, j ≠ q → t.queue j = s.queue j
    let does (op : Nat) (i : Instr) (ok : Prop) (effect : State → Prop) : Prop :=
      Safety.hasTurn op src s c = true → ok → ∃ t, exec i s = .next t ∧ others t ∧ t.mem = s.mem ∧ effect t
    let begun (t : State) : Prop := bit w 149 = false → Safety.completes t c St.ok (queueResult (t.queue q))
    let held := s.hasCtx (srcPart src) (Slot.ctx w) = true ∧ s.ownsQueue (Slot.ctx w) q = true ∧ (s.ctx (Slot.ctx w)).st = .resident
    does 0x31 (.queueStart src) (bit w 148 = false ∧ (s.startRefusal c).isNone = true ∧ (Q.st = .stopped → s.queueDone q = true) ∧ bits w 255 192 % 32 = 0 ∧ (∃ ks, s.fetchKeys q (bits w 255 192) = .inr ks))
      (fun t => (t.queue q).st = .running ∧ (t.queue q).ctx = Q.ctx ∧ (t.queue q).pc = bits w 255 192 ∧ (t.queue q).seq = 0 ∧ (t.queue q).loops = [] ∧
        (∀ i, i < 8 → (t.queue q).reg (i + 1) = BitVec.ofNat 64 (bits w (64 * i + 319) (64 * i + 256))) ∧ begun t) ∧
    does 0x31 (.queueResume src) (bit w 148 = true ∧ (s.startRefusal c).isNone = true ∧ Q.st = .stopped ∧ Q.wait = none)
      (fun t => t.queue q = { Q with st := .running } ∧ begun t) ∧
    (∀ v : PendWait, does 0x31 (.queueResume src) (bit w 148 = true ∧ (s.startRefusal c).isNone = true ∧ Q.st = .stopped ∧ Q.wait = some v)
      (fun t => t.queue q = { Q with st := .waiting } ∧ t.sync.flight = s.sync.flight ++ [v.op] ∧ begun t)) ∧
    does 0x32 (.queueStop src) (held ∧ Q.st = .running) (fun t => t.queue q = { Q with st := .stopped }) ∧
    does 0x32 (.queueStop src) (held ∧ Q.st = .ending) (fun t => t.queue q = Q) ∧
    does 0x32 (.queueStop src) (held ∧ (Q.st = .idle ∨ Q.st = .ended ∨ Q.st = .stopped ∨ Q.st = .suspended))
      (fun t => t.queue q = Q ∧ Safety.completes t c St.ok (stopResult Q)) ∧
    (s.powered = true → s.waitingCmd src s.stopDrained = some c →
      ∃ t, exec (.queueStopDrained src) s = .next t ∧ t.queue q = Q ∧ others t ∧ Safety.completes t c St.ok c.result)

/-- Host maps and copies (R457 to R460): a map is added or removed, the removal complete at once where no transfer has an access in flight
through it; a copy, a fill and a load put their bytes at the destination, and complete
with the last write, or raise their signal. -/
def Obligations.MapsAndCopies : Prop :=
  ∀ (src : CmdSrc) (c : Cmd) (ue : List Nat) (s : State),
    let w := c.slot
    let p := srcPart src
    let maps := (s.part p).maps
    let m : HostMap := { winOff := bits w 303 256, len := bits w 255 192, host := bits w 191 128, rd := bit w 304, wr := bit w 305 }
    let does (op : Nat) (i : Instr) (ok : Prop) (effect : State → Prop) : Prop :=
      Safety.hasTurn op src s c = true → ok → ∃ t, exec i s = .next t ∧ effect t
    let dst := s.addrKeys (Copy.dst w) (Copy.len w)
    let frame (t : State) : Prop := ∀ g, g ∉ dst → Mem.byte t.mem.cells g = Mem.byte s.mem.cells g
    let sound := s.meetsBad ue (if Copy.src w / 2 ^ 56 = 3 then [] else s.addrKeys (Copy.src w) (Copy.len w)) = none
    let moves (op : Nat) (i : Instr) (ok : Prop) : Prop :=
      ∀ bs, does op i (s.copyRefusal c = none ∧ ok ∧ sound ∧ s.anyRead p (Copy.src w) (Copy.len w) = some bs ∧ Copy.dst w / 2 ^ 56 ≠ 3)
        (fun t => t.readKeys dst = bs ∧ frame t ∧ ∃ y ∈ t.cmds, y.id = c.id ∧ y.phase = .waiting)
    does 0x20 (.hostmapAdd src) (m.winOff % 2 ^ 21 = 0 ∧ m.len % 4096 = 0 ∧ 0 < m.len ∧ m.len ≤ 2 ^ 46 ∧ m.host % 4096 = 0 ∧ m.winOff + m.len ≤ 2 ^ 48 ∧
        (∀ y ∈ maps, overlaps (y.winOff, y.len) (m.winOff, m.len) = false) ∧ (s.part p).port ≠ 0 ∧ maps.length < 256)
      (fun t => (t.part p).maps = maps ++ [m] ∧ Safety.completes t c St.ok 0) ∧
    (∀ y ∈ maps, y.winOff = bits w 303 256 →
      does 0x21 (.hostmapRemove src) True (fun t => (t.part p).maps = maps.filter (fun y => decide (y.winOff ≠ bits w 303 256)) ∧
        ((∀ z ∈ maps, z.winOff = y.winOff → s.hostUse p (3 * 2 ^ 56 + y.winOff, z.len) = false) → Safety.completes t c St.ok 0))) ∧
    moves 0x40 (.copy src ue) True ∧ moves 0x30 (.progLoad src ue) (s.codeInUse p (Copy.dst w) (Copy.len w) = false) ∧
    does 0x41 (.fill src) (s.copyRefusal c = none ∧ Copy.dst w / 2 ^ 56 ≠ 3)
      (fun t => t.readKeys dst = fillBytes (Copy.src w) (Copy.dst w) (Copy.len w) ∧ frame t ∧ ∃ y ∈ t.cmds, y.id = c.id ∧ y.phase = .waiting) ∧
    (s.powered = true → s.waitingCmd src (fun c => [0x30, 0x40, 0x41].contains (Slot.op c.slot) && !c.sigOut) = some c →
      (Copy.isLoad w = true → c.status = St.ok → ∃ t, exec (.copyComplete src) s = .next t ∧ t.mem = s.mem ∧ Safety.completes t c St.ok 0) ∧
      (Copy.isLoad w = false → Copy.sigKind w = 0 → ∃ t, exec (.copyComplete src) s = .next t ∧ t.mem = s.mem ∧ Safety.completes t c St.ok 0) ∧
      (Copy.isLoad w = false → Copy.sigKind w ≠ 0 → ∃ t b, exec (.copyComplete src) s = .next t ∧ t.sync.bound = s.sync.bound ++ [b] ∧
        b.obj = Copy.sigObj w ∧ b.kind = Copy.sigKind w ∧ b.qid = Copy.owner w ∧ b.ctx = Copy.sigCtx w ∧ b.origin = 1 ∧ b.cmd = c.id))

/-- Commands on synchronisation objects (R461, R462): an allocated object has the kind and the value asked for, a freed one is free, a value is
set, and an image is read. -/
def Obligations.ObjectCommands : Prop :=
  ∀ (src : CmdSrc) (c : Cmd) (s : State),
    let w := c.slot
    let p := srcPart src
    let x := Slot.ctx w
    let n := SCmd.obj w
    let O := s.obj n
    let mine := s.hasCtx p x = true ∧ s.objIn p n = true ∧ O.kind ≠ .free ∧ O.ctx = x ∧ O.waiters = []
    let does (op : Nat) (i : Instr) (ok : Prop) (effect : State → Prop) : Prop :=
      Safety.hasTurn op src s c = true → ok → ∃ t, exec i s = .next t ∧ effect t
    (∀ (o : Nat) (bs : Bytes),
      let free := s.freeObjs p (SCmd.die w)
      let tab := if bs.isEmpty then [] else producerTable bs
      let y := newObject w p tab (decide ((s.ctx x).st ≠ .resident))
      does 0x50 (.syncAlloc src)
        (SCmd.kind w ≠ 0 ∧ s.hasCtx p x = true ∧ (s.ctx x).st ≠ .faulted ∧ allocFieldsOk w = true ∧
          (if SCmd.any w then free[Config.freeNat s.free % free.length]? = some o else o = n ∧ s.objIn p n = true ∧ O.kind = .free) ∧
          (if SCmd.kind w = 3 ∧ SCmd.addr w ≠ 0 then s.kRead p (SCmd.addr w) 512 [0] else .inr []) = (.inr bs : Nat ⊕ Bytes) ∧ producerTableOk bs = true ∧
          (SCmd.decl w = false ∨ SCmd.ext w = true ∨ s.ownsQueue x (4 * SCmd.prodCore w + SCmd.prodQ w) = true) ∧
          (∀ e ∈ tab, s.ownsQueue x (e.2 - 1) = true) ∧ (s.setObj o y).saveNeed x ≤ (s.ctx x).saveBytes)
        (fun t => t.obj o = y ∧ (∀ j, j ≠ o → t.obj j = s.obj j) ∧ Safety.completes t c St.ok o)) ∧
    does 0x50 (.syncFree src) (SCmd.kind w = 0 ∧ mine) (fun t => (t.obj n).kind = .free ∧ Safety.completes t c St.ok n) ∧
    does 0x51 (.syncSet src) (mine ∧ (O.kind = .flag → SCmd.value w < 2) ∧ O.frozen = false)
      (fun t => t.obj n = (if O.kind = .barrier then { O with gen := SCmd.gen w, bmCur := 0, bmNext := 0 } else { O with count := SCmd.value w }) ∧
        (∀ j, j ≠ n → t.obj j = s.obj j) ∧ Safety.completes t c St.ok 0) ∧
    does 0x52 (.syncRead src) (s.objIn p n = true ∧ SCmd.addr w = 0)
      (fun t => t.sync = s.sync ∧ t.mem = s.mem ∧ Safety.completes t c St.ok (leNat (O.bytes.take 16))) ∧
    does 0x52 (.syncRead src) (s.objIn p n = true ∧ SCmd.addr w ≠ 0 ∧ s.okRange p (SCmd.addr w) 128 true [0, 1, 3] = true ∧ SCmd.addr w / 2 ^ 56 ≠ 3)
      (fun t => t.sync = s.sync ∧ t.readKeys (s.addrKeys (SCmd.addr w) 128) = O.bytes ∧ Safety.completes t c St.ok (leNat (O.bytes.take 16)))

/-- Commands on groups, instances and shards (R341, R373, R374, R376, R463 to R467): a layout is defined, removed, or advanced once fewer than two old
ones have instances; an instance starts on its block and waits for its trigger, or is cancelled; a shard is registered, removed or read. -/
def Obligations.CollectiveCommands : Prop :=
  ∀ (src : CmdSrc) (c : Cmd) (s : State),
    let w := c.slot
    let p := srcPart src
    let g := groupOf w
    let P := s.part p
    let does (op : Nat) (i : Instr) (ok : Prop) (effect : State → Prop) : Prop :=
      Safety.hasTurn op src s c = true → ok → ∃ t, exec i s = .next t ∧ t.mem = s.mem ∧ effect t
    let h : Shard := { num := shardNum w, base := bits w 191 128, len := bits w 255 192, tid := bits w 279 256, ver := 0 }
    does 0x60 (.collGroupDefine src) (bits w 147 143 ≠ 0 ∧ s.boxRefusal p (layoutOf w 0) = none ∧ s.group p g = none)
      (fun t => t.group p g = some { cur := layoutOf w 0 } ∧ (∀ j, j ≠ g → t.group p j = s.group p j) ∧
        Safety.completes t c St.ok (s.groupResult (layoutOf w 0))) ∧
    (∀ G : Group, does 0x60 (.collGroupRemove src) (bits w 147 143 = 0 ∧ s.group p g = some G ∧ (∀ x ∈ P.insts, IBlk.group x.blk ≠ g))
      (fun t => t.group p g = none ∧ (∀ j, j ≠ g → t.group p j = s.group p j) ∧ Safety.completes t c St.ok (s.groupResult G.cur))) ∧
    (∀ G : Group,
      let l := layoutOf w ((G.cur.epoch + 1) % 2 ^ 16)
      let ok := s.group p g = some G ∧ s.boxRefusal p l = none ∧ G.waiting = none
      let kept := G.old.filter fun l => P.insts.any fun x => decide (IBlk.group x.blk = g) && decide (x.layout = l)
      does 0x62 (.epochAdvance src) (ok ∧ kept.length < 2)
        (fun t => t.group p g = some { cur := l, old := kept ++ [G.cur] } ∧ Safety.completes t c St.ok (s.groupResult l)) ∧
      does 0x62 (.epochAdvance src) (ok ∧ 2 ≤ kept.length) (fun t => t.group p g = some { G with old := kept, waiting := some l })) ∧
    (∀ (bs : Bytes) (G : Group) (k : Nat), P.xheld = [] →
      does 0x61 (.collStart src)
        (bit w 128 = false ∧ s.kRead p (bits w 255 192) 256 [0] = .inr bs ∧ s.blockRefusal p (leNat bs) = none ∧ s.group p (IBlk.group (leNat bs)) = some G ∧
          ((List.range 64).find? fun k => (s.inst p k).isNone) = some k)
        (fun t => (∃ x ∈ (t.part p).insts, x.h = k ∧ x.blk = leNat bs ∧ x.layout = G.cur ∧ x.round = 0 ∧ x.phase = .trigger) ∧ Safety.completes t c St.ok k)) ∧
    (∀ x : Inst, s.inst p (Slot.handle w) = some x → x.part = p →
      does 0x61 (.collCancel src) (bit w 128 = true ∧ x.phase = .trigger)
        (fun t => (t.part p).insts = P.insts.filter (fun y => decide (y.h ≠ Slot.handle w)) ∧ Safety.completes t c St.ok 0) ∧
      does 0x61 (.collCancel src) (bit w 128 = true ∧ x.phase ≠ .trigger)
        (fun t => ∃ y ∈ (t.part p).insts, y.h = Slot.handle w ∧ y.cancel = true ∧ y.phase = x.phase)) ∧
    does 0x63 (.shardRegister src)
      (shardAction w = 0 ∧ h.base % 64 = 0 ∧ h.len % 64 = 0 ∧ 0 < h.len ∧ s.shard p h.num = none ∧ s.okRange p h.base h.len true [0] = true ∧
        (∀ y ∈ P.shards, overlaps (y.base, y.len) (h.base, h.len) = false))
      (fun t => (t.part p).shards = P.shards ++ [h] ∧ Safety.completes t c St.ok (shardResult h)) ∧
    (∀ y : Shard, s.shard p (shardNum w) = some y →
      does 0x63 (.shardRemove src) (shardAction w = 1 ∧ P.readsShard y = false)
        (fun t => (t.part p).shards = P.shards.filter (fun z => decide (z.num ≠ shardNum w)) ∧ Safety.completes t c St.ok (shardResult y)) ∧
      does 0x63 (.shardRead src) (shardAction w = 2) (fun t => (t.part p).shards = P.shards ∧ Safety.completes t c St.ok (shardResult y)))

/-- Commands of the services (R388 to R391, R396, R397, R403, R405 to R409, R468 to R474): a policy is armed or disarmed; units are lent to a partition that
a bulk session leads to, and revoked; checkpoints, restores and watches begin; a fence, a dump, the recovery settings and a shutdown. -/
def Obligations.ServiceCommands : Prop :=
  ∀ (src : CmdSrc) (c : Cmd) (s : State),
    let w := c.slot
    let p := srcPart src
    let P := s.part p
    let us := s.slotUnits c
    let kind := watchKind w
    let does (op : Nat) (i : Instr) (ok : Prop) (effect : State → Prop) : Prop :=
      Safety.hasTurn op src s c = true → ok → ∃ t, exec i s = .next t ∧ effect t
    (∀ (lent : Bool) (bs : Bytes) (h : Nat), does 0x70 (.offloadArm src lent)
      (bits w 129 128 = 0 ∧ s.kRead p (blockAddr w) 64 [0] = .inr bs ∧ s.policyRefusal p (leNat bs) lent = none ∧
        ((List.range 4).find? fun h => (s.policy p h).isNone) = some h)
      (fun t => (t.part p).policies = P.policies ++ [{ h := h, ctx := PBlk.ctx (leNat bs), blk := leNat bs }] ∧ Safety.completes t c St.ok h)) ∧
    does 0x70 (.offloadDisarm src) (bits w 129 128 = 1 ∧ (s.policy p (Slot.handle w)).isSome = true)
      (fun t => (t.part p).policies = P.policies.filter (fun y => decide (y.h ≠ Slot.handle w)) ∧ Safety.completes t c St.ok 0) ∧
    does 0x70 (.lend src)
      (bits w 129 128 = 2 ∧ us ≠ [] ∧ us.length = bits w 287 272 ∧ consecutive us = true ∧ s.bulkTo p (borrower w).1 (borrower w).2.1 = true ∧
        (∀ u ∈ us, (s.memUnit u).lent = none ∧ (s.memUnit u).st = .owned))
      (fun t => ∀ u ∈ us, (t.memUnit u).lent = some (borrower w) ∧ (t.memUnit u).st = .clearing ∧ u ∈ (t.die (u / 155)).clearQ) ∧
    does 0x70 (.revoke src) (bits w 129 128 = 3 ∧ us ≠ [] ∧ us.length = bits w 287 272 ∧ (∀ u ∈ us, (s.memUnit u).lent.isSome = true))
      (fun t => ∀ u ∈ us, (t.memUnit u).revoking = true ∧ ((s.memUnit u).st = .owned → (t.memUnit u).st = .clearing)) ∧
    (∀ (found : List (Option (List Bytes))) (b : Bytes), does 0x71 (.ckptBegin src found)
      (s.kRead p (blockAddr w) 1248 [0] = .inr b ∧ P.ckpt = none ∧ P.refusing = false ∧ ckptBlockOk b true = true ∧ s.hasCtx p (CBlk.ctx b) = true ∧ s.ownerOk (CBlk.ctx b) (CBlk.owner b) = true ∧
        s.ckptRanges p b false = true ∧ (∀ x ∈ ckptIndex b, s.ckptTargetOk p b found x = true))
      (fun t => (∃ k, (t.part p).ckpt = some k ∧ k.blk = b ∧ k.seq = (P.ckptSeq + 1) % 2 ^ 32) ∧ Safety.completes t c St.ok ((P.ckptSeq + 1) % 2 ^ 32))) ∧
    (∀ b : Bytes, does 0x72 (.ckptRestore src)
      (s.kRead p (blockAddr w) 1248 [0] = .inr b ∧ ckptBlockOk b false = true ∧ s.hasCtx p (CBlk.ctx b) = true ∧ s.ownerOk (CBlk.ctx b) (CBlk.owner b) = true ∧ s.ckptRanges p b true = true ∧
        s.okRange p (CBlk.progOut b) 64 true [0] = true ∧ (∀ x ∈ CBlk.targets b, x.1 / 2 ^ 56 = 0x80))
      (fun t => (t.part p).restores = P.restores ++ [{ blk := b, seq := CBlk.seqReq b }] ∧ Safety.completes t c St.ok (CBlk.seqReq b))) ∧
    (∀ a b : Bytes, does 0x80 (.watchDefine src)
      (bit w 130 = false ∧ kind ≠ 3 ∧ s.watch p kind = none ∧ s.kRead p (blockAddr w) 64 [0] = .inr a ∧
        s.kRead p (blockAddr w) (64 + WBlk.itemSize kind * WBlk.items a) [0] = .inr b ∧ s.watchRefusal p kind b = none)
      (fun t => (t.part p).watches = P.watches ++ [{ kind := kind, blk := b }] ∧ Safety.completes t c St.ok 0)) ∧
    does 0x80 (.watchRemove src) (bit w 130 = true ∧ kind ≠ 3 ∧ (s.watch p kind).isSome = true)
      (fun t => (t.part p).watches = P.watches.filter (fun y => decide (y.kind ≠ kind)) ∧ Safety.completes t c St.ok 0) ∧
    (∀ x : Watch,
      let first := bits w 335 320
      let n := bits w 351 336
      let bs := (span first n).flatMap fun i => s.addrRead (WBlk.recAddr kind x.blk (bits w 319 256) i) (WBlk.recSize kind)
      does 0x81 (.watchRead src)
        (kind ≠ 3 ∧ s.watch p kind = some x ∧ first + n ≤ WBlk.items x.blk ∧ (∀ i ∈ span first n, x.holds (bits w 319 256) i = true) ∧
          s.okRange p (blockAddr w) bs.length true [0, 1, 3] = true ∧ blockAddr w / 2 ^ 56 ≠ 3)
        (fun t => t.readKeys (s.addrKeys (blockAddr w) bs.length) = bs ∧ Safety.completes t c St.ok n)) ∧
    does 0x90 (.fence src) (s.fenceBlocked c = false) (fun t => t.mem = s.mem ∧ t.ctxs = s.ctxs ∧ Safety.completes t c St.ok 0) ∧
    does 0x90 (.fence src) (s.fenceBlocked c = true) (fun t => c ∈ t.cmds ∧ c.phase = .fresh) ∧
    (∀ d : Bytes, does 0xA0 (.dumpFetch src)
      (s.hasCtx p (Slot.ctx w) = true ∧ (s.ctx (Slot.ctx w)).st = .faulted ∧ (s.ctx (Slot.ctx w)).dump = some d ∧ d.length ≤ bits w 319 256 ∧
        s.okRange p (bits w 255 192) d.length true [0, 3] = true ∧ bits w 255 192 / 2 ^ 56 ≠ 3)
      (fun t => t.readKeys (s.addrKeys (bits w 255 192) d.length) = s.dumpNow (Slot.ctx w) d ∧
        Safety.completes t c St.ok (pack [(0, 64, d.length), (64, 8, (s.ctx (Slot.ctx w)).queues.length)]))) ∧
    does 0xA1 (.recoveryPolicy src) (bits w 134 129 = 0 ∨ (20 ≤ bits w 134 129 ∧ bits w 134 129 ≤ 40))
      (fun t => (t.part p).notify = bit w 143 ∧ (t.part p).hangLog2 = bits w 134 129 ∧ (t.part p).noReplay = bit w 128 ∧
        Safety.completes t c St.ok (P.recoverySettings)) ∧
    does 0xB0 (.shutdownPrepare src) (bit w 129 = false) (fun t => (t.part p).refusing = true ∧ t.mem = s.mem ∧ t.ctxs = s.ctxs) ∧
    does 0xB0 (.shutdownCancel src) (bit w 129 = true) (fun t => (t.part p).refusing = false ∧ Safety.completes t c St.ok 0) ∧
    (s.powered = true → s.waitingCmd src (fun c => decide (Slot.op c.slot = 0xB0)) = some c →
      ∃ t, exec (.shutdownPrepareTimeout src) s = .next t ∧ (t.part p).refusing = P.refusing ∧ Safety.completes t c St.timeout 0)

/-! ### Training support (ch11) -/

/-- The life of an off-load policy (R391 to R396): a stash is copied or set free, the backward pass begins, slots fall due in reverse order
within the pipeline's depth, and a restored slot has its status. -/
def Obligations.PolicyRounds : Prop :=
  ∀ (p : Part) (h j : Nat) (remote : Option Bytes) (s : State) (x : Policy), Safety.serves s = true → s.policy p.val h = some x →
    let n := PBlk.slots x.blk
    let runs := (s.ctx x.ctx).st = .resident
    let kind (j : Nat) : Nat := slotKind (s.slotEntry x.blk j)
    let after (t : State) (P : Policy → Prop) : Prop := ∃ y ∈ (t.part p.val).policies, y.h = h ∧ y.blk = x.blk ∧ y.round = x.round ∧ P y
    let u := (s.absorbReleases p.val x).2
    let last := n - 1 - x.due
    (s.sync.granted.contains (.stash p.val h) = true → runs → x.stashed < n → x.slot x.stashed = .none →
      (kind x.stashed ≠ 1 → s.atHand [(slotLocal (s.slotEntry x.blk x.stashed), slotBytes (s.slotEntry x.blk x.stashed))] = true → ∃ t, exec (.stash p h) s = .next t ∧ after t fun y => y.stashed = x.stashed + 1 ∧ y.slot x.stashed = .copying) ∧
      (kind x.stashed = 1 → x.ready < n → ∃ t, exec (.stash p h) s = .next t ∧ after t fun y => y.stashed = x.stashed + 1 ∧ y.slot x.stashed = .free)) ∧
    (x.slot j = .copying → (PBlk.lent x.blk = true → s.bulkDone p.val (s.slotTarget x.blk j) (slotBytes (s.slotEntry x.blk j)) = true) → x.ready < n →
      ∃ t, exec (.stashCopyEnd p h j) s = .next t ∧ after t fun y => y.slot j = .free ∧ y.stashed = x.stashed) ∧
    (s.sync.granted.contains (.back p.val h) = true → runs → x.backward = false →
      ∃ t, exec (.backwardStart p h) s = .next t ∧ after t fun y => y.backward = true ∧ y.rel = 0 ∧ y.slots = x.slots) ∧
    (x.backward = true → runs → x.due < n → x.due ≤ x.rel + u + PBlk.depth x.blk → x.ready + 1 < n →
      ∃ t, exec (.slotDue p h) s = .next t ∧ after t fun y => y.due = x.due + 1 ∧ y.rel = x.rel + u ∧
        (kind last = 1 → y.slot last = .done ∧ y.ready = x.ready + 1) ∧
        (kind last ≠ 1 → x.slot last = .free → y.slot last = .restoring ∧ y.ready = x.ready) ∧
        (kind last ≠ 1 → x.slot last ≠ .free → y.slot last = .abandoned ∧ y.ready = x.ready + 1)) ∧
    (x.slot j = .restoring → s.atHand [(slotRestore (s.slotEntry x.blk j), slotBytes (s.slotEntry x.blk j))] = true → x.ready + 1 < n → ∃ t, exec (.slotRestoreEnd p h j remote) s = .next t ∧
      after t fun y => y.slot j = .done ∧ y.ready = x.ready + 1 ∧ y.due = x.due)

/-- Checkpoints end with their status (R399 to R404), and the numerics watch takes its triggers (R405 to R410), in a partition that does not
trace. -/
def Obligations.CheckpointsAndWatches : Prop :=
  ∀ (p : Part) (lost : Option (Fin 6)) (images : List (List (Option Bytes))) (k : Nat) (s : State), Safety.serves s = true → (s.part p.val).traceBytes = 0 →
    let record (t : State) (b : Bytes) (fields : List (Nat × Nat × Nat)) : Prop :=
      CBlk.statusAddr b < dieBytes → s.rangeOpen (CBlk.statusAddr b) 32 = true → t.readKeys (span (CBlk.statusAddr b) 32) = leBytes 32 (pack fields)
    (∀ c, (s.part p.val).ckpt = some c → s.power.modeChange = none →
      (c.stage = .done → ∃ t, exec (.checkpointEnd p lost) s = .next t ∧ (t.part p.val).ckpt = none ∧
        record t c.blk [(0, 16, St.ok), (16, 3, 0), (32, 32, c.seq)]) ∧
      (∀ i, c.stage ≠ .done → s.lostTarget p.val c lost = some i → ∃ t, exec (.checkpointEnd p lost) s = .next t ∧ (t.part p.val).ckpt = none ∧
        record t c.blk [(0, 16, St.lost), (16, 3, i), (32, 32, c.seq)]) ∧
      (c.stage ≠ .done → s.lostTarget p.val c lost = none → c.torn = true →
        ∃ t, exec (.checkpointEnd p lost) s = .next t ∧ (t.part p.val).ckpt = none ∧
          record t c.blk [(0, 16, St.torn), (16, 3, 0), (32, 32, c.seq)])) ∧
    (∀ c cs, (s.part p.val).restores = c :: cs → s.atHand (CBlk.ranges c.blk) = true → ∃ t, exec (.restoreEnd p images) s = .next t ∧ (t.part p.val).restores = cs ∧
      (images.length ≠ CBlk.nTargets c.blk → record t c.blk [(0, 16, St.lost), (32, 32, c.seq)])) ∧
    (∀ x, s.watch p.val 0 = some x → s.atHand x.ranges = true → s.sync.granted.contains (.layer p.val) = true →
      ∃ t, exec (.layerWatch p) s = .next t ∧ (∃ y ∈ (t.part p.val).watches, y.kind = 0 ∧ y.blk = x.blk ∧ y.triggers = x.triggers + 1) ∧
        t.watchAlarms = satAdd 32 s.watchAlarms (((List.range (WBlk.items x.blk)).map (s.layerRecord x.blk)).filter (·.2)).length) ∧
    (∀ x, s.watch p.val 1 = some x →
      (s.sync.granted.contains (.tensor p.val) = true → ∃ t, exec (.tensorWatchScan p) s = .next t ∧
        ∃ y ∈ (t.part p.val).watches, y.kind = 1 ∧ y.blk = x.blk ∧ y.triggers = x.triggers + 1 ∧
          y.scanning = x.scanning ++ (x.dueTensors.filter fun i => !x.scanning.any fun k => decide (k % 64 = i)).map fun i => 64 * x.triggers + i) ∧
      (∀ e, s.atHand x.ranges = true → x.scanning.find? (fun i => decide (i % 64 = k)) = some e → ∃ t, exec (.tensorScanEnd p k) s = .next t ∧
        ∃ y ∈ (t.part p.val).watches, y.kind = 1 ∧ y.blk = x.blk ∧ y.triggers = x.triggers ∧ y.scanning = dropFirst (fun i => decide (i = e)) x.scanning ∧
          Tbl.get 0 y.steps (64 * (e / 64 % WBlk.ring x.blk) + k) = e / 64 + 1)) ∧
    (∀ x, s.watch p.val 2 = some x → s.atHand x.ranges = true →
      (s.sync.granted.contains (.scaleLocal p.val) = true → WBlk.probeSrc x.blk + 2 * WBlk.items x.blk ≤ dieBytes →
        ∃ t, exec (.scaleLocalPhase p) s = .next t ∧ (t.part p.val).watches = (s.part p.val).watches ∧
          ∀ i, i < WBlk.items x.blk → t.readKeys (span (WBlk.probeSrc x.blk + 2 * i) 2) =
            leBytes 1 (probeByte (WBlk.e0 x.blk) (s.scaleStats (WBlk.item 2 x.blk i)).maxexp) ++
            leBytes 1 (probeByte (WBlk.e0 x.blk) (s.scaleStats (WBlk.item 2 x.blk i)).amaxexp)) ∧
      (s.sync.granted.contains (.scaleApply p.val) = true → WBlk.ringAddr x.blk + 16 * WBlk.items x.blk ≤ dieBytes →
        ∃ t, exec (.scaleApplyPhase p) s = .next t ∧ (∃ y ∈ (t.part p.val).watches, y.kind = 2 ∧ y.blk = x.blk ∧ y.triggers = x.triggers + 1) ∧
          ∀ i, i < WBlk.items x.blk → t.readKeys (span (WBlk.ringAddr x.blk + 16 * i) 16) = leBytes 16 (s.scaleEntry x.blk x.triggers i)))

/-! ### Host ports (ch12) -/

/-- Command rings and BAR2 (R417 to R429): control writes, submission, completion records, messages, and host memory accesses, at a function
whose BARs are open and a port that holds no earlier write; a slot write in a change of mode is held (R26). -/
def Obligations.RingsAndBars : Prop :=
  ∀ (p : Part) (r : RingIx) (tee : Bool) (off log2 : Nat) (data : Bytes) (h : HPort) (f : Fn) (v : Fin 32) (s : State), s.linksOn = true →
    let R := s.ring p.val r.val
    let open_ := s.barOpen p.val tee = true
    let held (t : State) : List HostWrite := (t.pciPort (s.part p.val).hostPort).held
    let w := leNat (splice (leBytes 64 (R.entry (s.draining p r))) off data)
    let x := Tbl.get {} (s.func h.val f.val).vecs v.val
    let carvedOnly (t : State) : Prop := ∀ a, (∀ b, s.carved p.val = some b → a < b + 2 ^ 19 * r.val ∨ b + 2 ^ 19 * r.val + 2 ^ 19 ≤ a) →
      Mem.byte t.mem.cells a = Mem.byte s.mem.cells a
    let vec (t : State) : Vec := Tbl.get {} (t.func h.val f.val).vecs v.val
    (open_ → held s = [] → R.enable = false → s.taken p r = false → ∃ t, exec (.ringEnable p r tee) s = .next t ∧ (t.ring p.val r.val).enable = true ∧
      (t.ring p.val r.val).expected = 1 ∧ (t.ring p.val r.val).consumed = 0 ∧ (t.ring p.val r.val).overrun = false ∧
      (t.ring p.val r.val).cqBase = R.cqBase ∧ carvedOnly t) ∧
    (open_ → held s = [] → ∃ t, exec (.ringDisable p r tee) s = .next t ∧ t.ring p.val r.val = { R with enable := false } ∧ t.mem = s.mem) ∧
    (open_ → held s = [] → off + data.length ≤ 64 → R.enable = false → s.taken p r = false → ∃ t, exec (.ringControlWrite p r off data tee) s = .next t ∧
      (t.ring p.val r.val).enable = bit w 0 ∧ (t.ring p.val r.val).cqBase = (R.configure w).cqBase ∧ (t.ring p.val r.val).cqLog2 = (R.configure w).cqLog2 ∧
      (t.ring p.val r.val).msixVec = (R.configure w).msixVec ∧ carvedOnly t) ∧
    (open_ → held s = [] → s.memHeld = true → off + data.length ≤ 2 ^ 19 → ∃ t, exec (.slotWrite p r off data tee) s = .next t ∧
      held t = [.slot p r off data] ∧ t.ring p.val r.val = R ∧ t.mem = s.mem) ∧
    (open_ → held s = [] → s.memHeld = false → s.carveReached p.val = true → off + data.length ≤ 2 ^ 19 → ∃ t, exec (.slotWrite p r off data tee) s = .next t ∧
      (t.ring p.val r.val).window = Mem.write R.window off data ∧ carvedOnly t ∧
      (let R' := { R with window := Mem.write R.window off data }
       R.enable = true → R.overrun = false → Slot.seq R'.slot = R.expected → R.room = true →
         ∃ y ∈ t.cmds, y.id = s.nextCmd ∧ y.src = .ring p r ∧ y.slot = R'.slot)) ∧
    (∀ c, s.cmds.find? (fun c => decide (c.src = .ring p r)) = some c → c.phase = .done → c.noRecord = false → R.room = true →
      ∃ t, exec (.completionRecord p r) s = .next t ∧ t.mem.cells = s.mem.cells ∧
        ((∀ e ∈ s.cmds, e.id < s.nextCmd) → ∀ y ∈ t.cmds, y.id ≠ c.id) ∧
        (r.val ≠ 0 → (t.ring p.val r.val).written = (R.written + 1) % 2 ^ 32)) ∧
    (x.running = true → ∃ t, exec (.msixPeriodEnd h f v) s = .next t ∧ t.mem = s.mem ∧
      (x.again = false → vec t = { x with running := false }) ∧
      (x.again = true → x.masked = true → vec t = { x with running := false, again := false, pending := true }) ∧
      (x.again = true → x.masked = false → vec t = { x with again := false } ∧ Safety.sent s t (.msix h f.val v.val))) ∧
    (∀ u, open_ → held s = [] → s.powered = true → off < 2 ^ (s.fnOf p.val).bar2Log2 → off % 4096 + data.length ≤ 4096 → (s.unitsOf p.val)[off / unitBytes]? = some u →
      (s.memUnit u).st = .owned → (s.memUnit u).lent = none → s.hubWrites (unitBase u + off % unitBytes) = true →
      ∃ t, exec (.bar2Write p off data tee) s = .next t ∧ t.readKeys (span (unitBase u + off % unitBytes) data.length) = data ∧
        ∀ g, g ∉ span (unitBase u + off % unitBytes) data.length → Mem.byte t.mem.cells g = Mem.byte s.mem.cells g) ∧
    ((s.part p.val).port ≠ 0 → s.fnHere (s.part p.val).hostPort (p.val + 1) = true → (s.part p.val).tdi ≠ 1 → (s.part p.val).tdi ≠ 2 → 30 ≤ log2 → log2 ≤ 44 →
      ∃ t, exec (.bar2Resize p log2) s = .next t ∧ t.fnOf p.val = { s.fnOf p.val with bar2Log2 := log2 } ∧ t.mem = s.mem)

/-- The PCI ports (R411 to R414, R431 to R433, R608): configuration requests, links no wider than the lanes that self-test left (R591), resets and failed
requests. -/
def Obligations.PortsOfHosts : Prop :=
  ∀ (h : HPort) (f rate width : Nat) (flit : Bool) (p : Part) (c : Core) (src : CmdSrc) (s : State), s.linksOn = true →
    let fn (t : State) : Func := t.fnOf p.val
    let cut (t : State) (p : Nat) : Prop := (t.part p).maps = [] ∧ (∀ r, (t.ring p r).enable = false) ∧ (t.part p).tdi ≠ 1 ∧ (t.part p).tdi ≠ 2
    (∃ t, exec (.configRequest h f) s = .next t ∧ t.mem = s.mem ∧
      Safety.sent s t (.config h f (if s.fnHere h.val f = false then 2 else if s.power.ready then 0 else 1))) ∧
    ((s.pciPort h.val).perst = false → pciLinkOk rate width flit = true → width ≤ s.widthAllowed h.val → ∃ t, exec (.pciLinkUp h rate width flit) s = .next t ∧
      t.pciPort h.val = { s.pciPort h.val with rate := rate, width := width, flit := flit }) ∧
    (∃ t, exec (.perst h) s = .next t ∧ t.pciPort h.val = { s.pciPort h.val with perst := false }) ∧
    ((s.part p.val).port ≠ 0 → s.fnHere (s.part p.val).hostPort (p.val + 1) = true →
      ∃ t, exec (.flr p) s = .next t ∧ cut t p.val ∧ (fn t).vecs = [] ∧ (fn t).bar2Log2 = s.bar2Default p.val ∧ (fn t).spdm = (fn s).spdm ∧
        ∀ y ∈ t.cmds, ∀ r, y.src = .ring p r → y.noRecord = true) ∧
    (∃ t, exec (.linkDown h) s = .next t ∧ (t.pciPort h.val).width = 0 ∧ (t.pciPort h.val).ide = false ∧
      ∀ q, q < 8 → s.fnHere h.val (q + 1) = true → cut t q) ∧
    (∀ x, s.powered = true → (s.de c.val).active = some x → x.hostInFlight true = true →
      ∃ t, exec (.hostCompletionTimeout (.de c)) s = .next t ∧ (t.de c.val).active = some { x with cause := 0x45 } ∧ (t.de c.val).shadow = (s.de c.val).shadow) ∧
    (∀ y, s.powered = true → s.waitingCmd src (fun c => c.copiesThrough { winOff := 0, len := 2 ^ 48, host := 0, rd := true, wr := true }) = some y →
      ∃ t, exec (.hostCompletionTimeout (.cmd src)) s = .next t ∧ Safety.completes t y St.hostError 0) ∧
    (∀ y f a n, s.powered = true → s.waitingCmd src (fun c => c.copiesThrough { winOff := 0, len := 2 ^ 48, host := 0, rd := true, wr := true }) = none →
      s.turn src = some y → s.underRecovery y = false → s.hostRecord y = some (f, a, n) → a / 2 ^ 56 = 3 → (f s y).2.phase = .done → (f s y).2.status = St.ok →
      ∃ t, exec (.hostCompletionTimeout (.cmd src)) s = .next t ∧ Safety.completes t y St.hostError 0)

/-! ### Security (ch15) -/

/-- SPDM over a function's DOE mailbox, TDISP in a session that may carry it, and the debug header (R526 to R535, R546). -/
def Obligations.AttestationAndIsolation : Prop :=
  ∀ (h : HPort) (f : Fn) (supported mutAuth anchored : Bool) (p : Part) (k ix ins : Nat) (s : State), s.linksOn = true →
    let F := s.func h.val f.val
    let doe := s.fnHere h.val f.val = true ∧ s.power.ready = true
    let P := s.part p.val
    let td := P.port ≠ 0 ∧ s.fnHere P.hostPort (p.val + 1) = true ∧ s.power.ready = true ∧ s.trusted P.hostPort (p.val + 1) k = true
    let answers (i : Instr) (o : Out) : Prop := ∃ t, exec i s = .next t ∧ Safety.sent s t o ∧ t.mem = s.mem ∧ t.funcs = s.funcs ∧ t.sec = s.sec
    (doe → ∃ t, exec (.negotiateAlgorithms h f supported) s = .next t ∧ t.func h.val f.val = { F with noAlgs := !supported } ∧
      Safety.sent s t (.spdm h f 1 supported []) ∧ (supported = true → Safety.sent s t (.spdmProfile h f spdmAlgs spdmCaps))) ∧
    (doe → F.noAlgs = true → answers (.challenge h f k) (.spdm h f 3 false []) ∧ answers (.getMeasurements h f ix) (.spdm h f 4 false []) ∧
      answers (.keyExchange h f mutAuth anchored) (.spdm h f 5 false [])) ∧
    (doe → answers (.getCertificate h f k) (.spdm h f 2 (s.certSlot k).isSome ((s.certSlot k).getD []))) ∧
    (doe → F.noAlgs = false → answers (.challenge h f k) (.spdm h f 3 (s.certSlot k).isSome ((s.certSlot k).elim [] Config.sign))) ∧
    (doe → F.noAlgs = false → answers (.getMeasurements h f ix)
      (.spdm h f 4 (s.measurement f.val ix).isSome ((s.measurement f.val ix).elim [] fun m => m ++ Config.sign m))) ∧
    (doe → F.noAlgs = false → F.spdm.length < 4 → ∃ t, exec (.keyExchange h f mutAuth anchored) s = .next t ∧
      t.func h.val f.val = { F with spdm := F.spdm ++ [mutAuth && anchored] } ∧ Safety.sent s t (.spdm h f 5 true [])) ∧
    (doe → 4 ≤ F.spdm.length → answers (.keyExchange h f mutAuth anchored) (.spdm h f 5 false [])) ∧
    (doe → s.trusted h.val f.val k = true → ∃ t, exec (.ideKm h f k) s = .next t ∧ t.func h.val f.val = { F with ideKeyed := true } ∧
      (f.val = 0 → (t.pciPort h.val).ide = true)) ∧
    (doe → s.trusted h.val f.val k = false → answers (.ideKm h f k) (.spdm h f 6 false [])) ∧
    (td → P.tdi = 0 → 2 ≤ s.sec.state → (s.fnOf p.val).ideKeyed = true → P.debug = false → s.debugLevel ≠ 2 → P.st = .ready →
      ∃ t, exec (.lockInterface p k) s = .next t ∧ (t.part p.val).tdi = 1 ∧ t.mem = s.mem ∧ Safety.sent s t (.tdisp p 0 true) ∧
        Safety.sent s t (.tdiReport p [(0, 2 ^ 26), (2, 2 ^ (s.fnOf p.val).bar2Log2)])) ∧
    (td → P.tdi = 1 → ∃ t, exec (.startInterface p k) s = .next t ∧ (t.part p.val).tdi = 2 ∧ t.mem = s.mem ∧ Safety.sent s t (.tdisp p 1 true)) ∧
    (td → P.st = .ready → P.stopping = 0 → ∃ t, exec (.stopInterface p k) s = .next t ∧ (t.part p.val).maps = [] ∧ (t.part p.val).ckpt = none ∧
      ∀ x, (s.ctx x).part = p.val → (s.ctx x).st ≠ .none → (t.ctx x).st = .destroying) ∧
    (P.tdi = 1 ∨ P.tdi = 2 → ∃ t, exec (.ideIntegrityFailure p) s = .next t ∧ (t.part p.val).tdi = 3 ∧ t.mem = s.mem) ∧
    (s.auxOn = true → ins ≤ 1 → exec (.debugHeaderInstruction ins) s = .next { s with outbox := s.outbox ++ [.jtag ins s.scanChains] }) ∧
    (s.auxOn = true → 2 ≤ ins → s.debugLevel ≠ 2 → exec (.debugHeaderInstruction ins) s = .next { s with outbox := s.outbox ++ [.jtag 0 .none] }) ∧
    (s.auxOn = true → s.debugLevel = 2 → exec (.debugHeaderInstruction ins) s =
      .next { s with outbox := s.outbox ++ [.jtag ins (if s.power.state ≤ 1 then .full else if s.power.state = 2 then .hub else .hubAux)] })

/-- The security state (R511, R536 to R538) moves only between UNPROVISIONED and OPEN, between OPEN and ATTESTED, and from ATTESTED to LOCKED, which no command
leaves. -/
def Obligations.LockedIsNeverLeft : Prop :=
  ∀ (i : Instr) (s t : State), exec i s = .next t → t.sec.state = s.sec.state ∨
    (s.sec.state = 0 ∧ t.sec.state = 1) ∨ (s.sec.state = 1 ∧ t.sec.state = 0) ∨ (s.sec.state = 1 ∧ t.sec.state = 2) ∨
    (s.sec.state = 2 ∧ t.sec.state = 1) ∨ (s.sec.state = 2 ∧ t.sec.state = 3)

/-- What the station writes to the security entries (R511, R525, R536 to R538, R541, R543, R544). -/
def Obligations.SecurityWrites : Prop :=
  ∀ (pr : Principal) (p : Part) (sub off v : Nat) (data : Bytes) (s : State), s.portM = true → s.mgmt.recovery = false →
    let goes (i : Instr) (effect : State → Prop) : Prop := ∃ t, exec i s = .next t ∧ t.mem = s.mem ∧ effect t
    (s.sec.state = 2 → goes .secToOpen fun t => t.sec.state = 1 ∧ t.sec.siteCert = s.sec.siteCert ∧
      ∀ q, q < 8 → (s.part q).port ≠ 0 → (t.fnOf q).spdm = [] ∧ (t.fnOf q).ideKeyed = false ∧ (t.part q).tdi ≠ 1 ∧ (t.part q).tdi ≠ 2) ∧
    (s.sec.state = 1 → s.debugLevel ≠ 2 → goes .secToAttested fun t => t.sec.state = 2 ∧ t.sec.lockReqUs = none) ∧
    (s.sec.state = 2 → s.sec.lockReqUs = none → goes .secToLocked fun t => t.sec.state = 2 ∧ t.sec.lockReqUs = some s.clockUs) ∧
    (∀ n, s.sec.state = 2 → s.sec.lockReqUs = some n → s.clockUs ≤ n + 10000000 → goes .secToLocked fun t => t.sec.state = 3) ∧
    (s.sec.state < 2 → data.length ≤ 16384 → off + data.length ≤ 8192 →
      goes (.secSiteCertWrite off data) fun t => t.sec = { s.sec with siteCert := splice s.sec.siteCert off data }) ∧
    (1 ≤ sub → sub ≤ 4 → data.length = siteKeyBytes → s.sec.state < 2 → data.all (· = 0) = false →
      goes (.mgmtSiteKeyWrite sub data) fun t => Tbl.get [] t.mgmt.siteKeys sub = data ∧ t.sec.state = 1 ∧
        ∀ j, j ≠ sub → Tbl.get [] t.mgmt.siteKeys j = Tbl.get [] s.mgmt.siteKeys j) ∧
    (1 ≤ sub → sub ≤ 4 → data.length = siteKeyBytes → s.sec.state < 2 → data.all (· = 0) = true → s.mgmt.active = none ∨ imageSigner s.activeImage ≠ sub →
      goes (.mgmtSiteKeyWrite sub data) fun t => Tbl.get [] t.mgmt.siteKeys sub = [] ∧ (t.sec.state = 0 ↔ t.mgmt.siteKeys = [])) ∧
    (s.sec.state < 2 → s.sec.tokenFails < 4 → s.tokenOk data = true →
      (goes (.dbgToken data true) fun t => t.sec.unlocked = true ∧ t.sec.challenge = freeBytes s.free 32 ∧ t.sec.state = s.sec.state ∧
        ∀ q, q < 8 → (s.part q).port ≠ 0 → (t.fnOf q).spdm = []) ∧
      (goes (.dbgToken data false) fun t => t.sec.unlocked = s.sec.unlocked ∧ t.sec.challenge = freeBytes s.free 32 ∧ t.sec.tokenFails = s.sec.tokenFails + 1)) ∧
    (pr = .mgmt ∨ pr = .part p → s.pathOn pr = true → v ≤ 1 → (s.part p.val).st ≠ .free → (s.part p.val).tdi ≠ 1 → (s.part p.val).tdi ≠ 2 →
      goes (.partDebugWrite pr p v) fun t => (t.part p.val).debug = decide (v = 1) ∧ t.sec = s.sec)

/-- Partitions (R514 to R520): a create record assigns clusters, units, ranges and a port, and the units start to clear; a destruction ends its
contexts. -/
def Obligations.PartitionsComeAndGo : Prop :=
  ∀ (rec : Bytes) (v : Nat) (s : State), s.portM = true → s.mgmt.recovery = false →
    let w := leNat rec
    let p := PRec.part w
    (rec.length = 64 → s.createRefusal rec = none →
      ∃ t, exec (.partCreate rec) s = .next t ∧ ((t.part p).st = .clearing ∨ (t.part p).st = .ready) ∧ (t.part p).clusters = PRec.clusters w ∧
        (t.part p).port = PRec.port w ∧ (t.part p).debug = PRec.debug w ∧ (t.part p).tdi = (if PRec.port w = 0 then 4 else 0) ∧ t.mem.cells = s.mem.cells ∧
        (∀ d, d < 4 → ∀ u ∈ (s.freeUnits d).take (PRec.units w d), (t.memUnit u).part = p ∧ (t.memUnit u).st = .clearing ∧ (t.memUnit u).toOwned = true) ∧
        ∀ u, (s.memUnit u).st ≠ .free → t.memUnit u = s.memUnit u) ∧
    (v ≤ 7 → (s.part v).st = .clearing ∨ (s.part v).st = .ready →
      ∃ t, exec (.partDestroy v) s = .next t ∧ ((t.part v).st = .destroying ∨ (t.part v).st = .free) ∧ (t.part v).traceBytes = 0 ∧ (t.part v).peers = [] ∧
        (∀ c ∈ t.cmds, srcPart c.src ≠ v) ∧ ∀ x, (s.ctx x).part = v → (s.ctx x).st ≠ .none → (t.ctx x).st = .destroying)

/-! ### Management (ch14) -/

/-- Discovery and sessions of port M (R482 to R486): a reply to a `DISCOVER`, the handshake with its lockout, and the ends of sessions.
The verdicts on certificates and signatures are operands (log 11). -/
def Obligations.SirrikSessions : Prop :=
  ∀ (peer k seq : Nat) (hd : SirrikHdr) (s : State), s.sirrikUp = true →
    let m := s.expire.mgmt
    let gone (t : State) (k : Nat) : Prop := ∀ y ∈ t.mgmt.sessions, y.id ≠ k
    (∃ t, exec (.discover peer) s = .next t ∧ t.mgmt.discover = m.discover ++ [peer] ∧ t.mem = s.mem) ∧
    (∀ l, m.discover = peer :: l → ∃ t b, exec .discoverReplySend s = .next t ∧ t.mgmt.discover = l ∧ Safety.sent s t (.datagram peer 0x02 0 0 b)) ∧
    (m.lockout = false → m.imagesChecked = true → m.sessions.length < 4 →
      ∃ t x b, exec (.open1 peer) s = .next t ∧ x ∈ t.mgmt.sessions ∧ x.id ≠ 0 ∧ x.peer = peer ∧ x.isOpen = false ∧ (∀ y ∈ m.sessions, y.id ≠ x.id) ∧
        Safety.sent s t (.datagram peer 0x11 x.id 0 b)) ∧
    (∀ x, s.expire.sirrikSession k = some x →
      (x.isOpen = false → s.expire.anchors ≠ [] → ∃ t, exec (.open3 k true true true) s = .next t ∧ Safety.sent s t (.datagram x.peer 0x13 k 0 []) ∧
        ∃ y ∈ t.mgmt.sessions, y.id = k ∧ y.isOpen = true ∧ y.high = 1 ∧ y.openedUs = s.clockUs) ∧
      (x.isOpen = false → ∃ t, exec (.open3 k true false true) s = .next t ∧ gone t k ∧ t.mgmt.authFails = satAdd 32 m.authFails 1 ∧
        (16 ≤ (m.rejectTimes.filter fun n => decide (s.clockUs < n + 60000000)).length + 1 → t.mgmt.lockout = true)) ∧
      (x.isOpen = false → ∃ t, exec (.open3Timeout k) s = .next t ∧ gone t k) ∧
      (x.isOpen = true → ∃ t, exec (.sessionIdleTimeout k) s = .next t ∧ gone t k) ∧
      (∃ t, exec (.fragmentTimeout k seq) s = .next t ∧ ∀ y ∈ t.mgmt.sessions, y.id = k → ∀ f ∈ y.frags, f.1 ≠ seq)) ∧
    (∃ t, exec .authLockoutEnd s = .next t ∧ t.mgmt.lockout = false ∧ t.mgmt.rejectTimes = m.rejectTimes) ∧
    (∀ x, s.expire.sirrikSession hd.session = some x → hd.ver = 1 → hd.type = 0x30 → hd.sealOk = true → x.isOpen = true → x.accepts hd.seq = true →
      fragOk hd = true → x.whole hd = true → ∃ t, exec (.sirrikClose hd) s = .next t ∧ gone t hd.session)

/-- Requests of an open session (R484, R487 to R489): a whole, new message is carried out on the dictionary and answered, and a stored reply is
sent again. -/
def Obligations.SirrikRequests : Prop :=
  ∀ (hd : SirrikHdr) (index sub off len : Nat) (data : Bytes) (sigOk : Bool) (s : State) (x : SirrikSess), s.sirrikUp = true →
    s.expire.sirrikSession hd.session = some x → hd.ver = 1 → hd.type = 0x20 → hd.sealOk = true → x.isOpen = true → x.accepts hd.seq = true →
    fragOk hd = true → x.whole hd = true →
    let u := s.expire.putSession (x.accept hd.seq s.clockUs)
    let w : DictWrite := { pr := .mgmt, index := index, sub := sub, sigOk := sigOk, origin := some (hd.session, hd.rid) }
    let new := (∀ r ∈ x.replies, r.1 ≠ hd.rid) ∧ hd.rid ∉ x.inFlight
    let fresh := new ∧ hd.reserved = 0
    let tells (i : Instr) (v : State) (op : Nat) (r : Nat × Bytes) : Prop :=
      ∃ t l, exec i s = .next t ∧ t.outbox = v.outbox ++ [.reply hd.session hd.rid op r.1 r.2] ++ l ∧ t.mem = v.mem ∧ t.fab = v.fab ∧ t.power = v.power ∧
        t.sec = v.sec ∧ t.rel = v.rel
    let kept (v : State) : Prop := (v.mgmt.sessions.any fun y => decide (y.id = hd.session)) = true
    (fresh → tells (.sirrikRead hd index sub) u 0x01 (u.dictRead .mgmt index sub) ∧
      tells (.readSeg hd index sub off len) u 0x03 (u.dictReadSeg .mgmt index sub off len)) ∧
    (∀ st v, fresh → hd.len = data.length → u.dictWrite w data = (some st, v) → kept v → tells (.sirrikWrite hd index sub data sigOk) v 0x02 (st, [])) ∧
    (∀ st v, fresh → hd.len = data.length → u.dictWriteSeg w off data = (some st, v) → kept v → tells (.writeSeg hd index sub off data sigOk) v 0x04 (st, [])) ∧
    (new → hd.reserved ≠ 0 ∨ hd.len ≠ data.length → tells (.sirrikWrite hd index sub data sigOk) u 0x02 (St.badField, [])) ∧
    (∀ o st d, x.replies.find? (fun r => decide (r.1 = hd.rid)) = some (hd.rid, o, st, d) →
      tells (.sirrikRead hd index sub) u o (st, d) ∧ tells (.sirrikWrite hd index sub data sigOk) u o (st, d))

/-- Writes of the dictionary that no session brings (R488, R491, R494, R502, R504 to R506, R510): any entry, the window and its segment block, parameter
images, commands of the station, and settings of port M that take effect later. -/
def Obligations.DictionaryWrites : Prop :=
  ∀ (pr : Principal) (h : HPort) (f : Fn) (p : Part) (index sub off v : Nat) (data : Bytes) (tee : Bool) (s : State),
    let wp := windowPrincipal h f
    let u := if f.val = 0 then s else s.addWork (f.val - 1) 6 data.length
    let m := s.mgmt
    let old := if m.inactive = 0 then m.slot0 else m.slot1
    (∀ r x, index ≠ 0x1111 → index < 0x3000 → s.pathOn pr = true → s.dictWrite { pr := pr, index := index, sub := sub } data = (some r, x) →
      ∃ t, exec (.registerWrite pr index sub data) s = .next t ∧ Safety.sent x t (.write pr index sub r) ∧ t.mem = x.mem ∧ t.fab = x.fab ∧ t.power = x.power ∧
        t.rel = x.rel ∧ t.sec = x.sec ∧ t.bist = x.bist ∧ t.meter = s.meter) ∧
    (s.hubOn = true → s.portM = true → m.recovery = false → 20 ≤ v → v ≤ 40 →
      ∃ t, exec (.registerWrite .mgmt 0x1801 0 (leBytes 8 v)) s = .next t ∧ t.rel = { s.rel with hangWindowLog2 := v } ∧ t.mem = s.mem ∧ t.fab = s.fab) ∧
    (s.windowOpen h f tee = true → off + data.length ≤ 2 ^ 24 → off ≠ segControl →
      (data.length = 8 → off % 8 = 0 → ∃ t, exec (.windowWrite h f off data tee) s = .next t ∧
        (let r := u.dictWrite { pr := wp, index := 0x1000 + off / 0x800, sub := off % 0x800 / 8 } data
         (t.func h.val f.val).wstatus = r.1.getD St.ok ∧ t.fab = r.2.fab ∧ t.mem = r.2.mem ∧ t.power = r.2.power)) ∧
      (data.length ≠ 8 ∨ off % 8 ≠ 0 → ∃ t, exec (.windowWrite h f off data tee) s = .next t ∧ (t.func h.val f.val).wstatus = St.badField ∧
        t.mem = s.mem ∧ t.fab = s.fab ∧ t.power = s.power)) ∧
    (s.windowOpen h f tee = true → ∃ t, exec (.segmentSelect h f v tee) s = .next t ∧
      t.func h.val f.val = { s.func h.val f.val with
        sindex := bits v 63 48, ssub := bits v 47 40, soffset := bits v 31 0, sstatus := (s.selected wp v).1, slen := (s.selected wp v).2 }) ∧
    (s.portM = true → m.committing = false → s.imageOk m.stage true = true → imageVersion s.activeImage < imageVersion m.stage →
      s.sec.state ≠ 3 ∨ imageSigner m.stage ≠ 0 →
      ∃ t, exec (.imageCommit true) s = .next t ∧ t.mgmt.committing = true ∧ t.mgmt.active = m.active ∧
        (if m.inactive = 0 then t.mgmt.slot0 = { data := m.stage, valid := false, present := true } ∧ t.mgmt.slot1 = m.slot1
         else t.mgmt.slot1 = { data := m.stage, valid := false, present := true } ∧ t.mgmt.slot0 = m.slot0)) ∧
    (s.portM = true → m.committing = false → s.imageOk m.stage true = true → s.sec.state = 3 → imageSigner m.stage = 0 →
      ∃ t, exec (.imageCommit true) s = .next t ∧ Safety.sent s t (.write .mgmt 0x1111 0 St.badState) ∧ t.mgmt.committing = false ∧
        t.mgmt.slot0 = m.slot0 ∧ t.mgmt.slot1 = m.slot1) ∧
    (m.committing = true → ∃ t, exec .imageCommitEnd s = .next t ∧ t.mgmt.committing = false ∧ t.mgmt.active = m.active ∧
      (if m.inactive = 0 then t.mgmt.slot0 else t.mgmt.slot1) = { old with valid := true }) ∧
    (s.portM = true → ∃ t, exec .imageStageClear s = .next t ∧ t.mgmt.stage = [] ∧ t.mgmt.slot0 = m.slot0 ∧ t.mgmt.slot1 = m.slot1) ∧
    (∀ b l, s.auxOn = true → m.toApply = (0x1104, b) :: l →
      ∃ t, exec .mgmtConfigApply s = .next t ∧ t.mgmt.toApply = l ∧ t.mgmt.effUdpPort = leNat b ∧ t.mgmt.effIpv6 = m.effIpv6) ∧
    (s.portM = true → m.recovery = false → data.length = 128 → (s.part p.val).st ≠ .free → (∀ c ∈ s.cmds, c.src ≠ .mgmt p) →
      Slot.seq (leNat data) = (s.part p.val).cmdExpected →
      ∃ t, exec (.partCmd p data) s = .next t ∧ (t.part p.val).cmdExpected = ((s.part p.val).cmdExpected + 1) % 2 ^ 32 ∧ t.nextCmd = s.nextCmd + 1 ∧
        t.mem = s.mem)

/-- Entries of the dictionary that act (R26, R41 to R44, R276, R333, R500, R501, R581, R589, R593, R595). -/
def Obligations.EntriesThatAct : Prop :=
  ∀ (pr : Principal) (p : Part) (sub v j : Nat) (s : State), s.portM = true → s.mgmt.recovery = false →
    let goes (i : Instr) (effect : State → Prop) : Prop := ∃ t, exec i s = .next t ∧ effect t
    let own := pr = .mgmt ∨ (pr = .part p ∧ s.pathOn pr = true)
    let k := bits v 12 8
    let slot := bits v 3 0
    (v ≤ 2 → goes (.pwrModeWrite .mgmt v) fun t => t.power.modeReg = v ∧ t.power.mode = s.power.mode ∧ t.mem = s.mem ∧
      (s.notRunning = false → s.power.modeChange = none → s.modeHeld = false → v ≠ s.power.mode → t.power.modeChange = some (0, v))) ∧
    (s.hubOn = true → v < 2 ^ 16 → bits v 14 11 = 0 → s.sessionsOpen = false → (v.testBit 15 = true → inTorus s.fab.dims (v % 2 ^ 11) = true) →
      goes (.fabModuleIdWrite .mgmt v) fun t => t.fab.moduleId = v ∧ t.fab.dims = s.fab.dims ∧ t.mem = s.mem) ∧
    (s.hubOn = true → v < 2 ^ 16 → bits v 4 0 = 0 → s.sessionsOpen = false →
      goes (.fabTorusDimsWrite .mgmt v) fun t => t.fab.dims = v ∧ t.fab.moduleId = s.fab.moduleId ∧ t.mem = s.mem) ∧
    (s.hubOn = true → v < 64 → goes (.fabPortExternalWrite .mgmt v) fun t => t.fab.external = v ∧
      ∀ w, w < 6 → (s.port w).st = .up → s.fab.external.testBit w ≠ v.testBit w → (t.port w).st = .training) ∧
    (s.powered = true → v < 1024 → (s.subch (bits v 9 8) (bits v 7 0)).st < 2 → (s.die (bits v 9 8)).events.length < 7 → s.power.startStep = none →
      goes (.memSpareRequest .mgmt v) fun t => (t.subch (bits v 9 8) (bits v 7 0)).st = (if (s.die (bits v 9 8)).copying then 2 else 3) ∧
        t.mem.cells = s.mem.cells) ∧
    (1 ≤ sub → sub ≤ 128 → v < 2 ^ 64 → (s.part p.val).st ≠ .free → j < 16 →
      (s.fab.moduleId.testBit 15 = true → ∀ i, i < 16 → 16 * (sub - 1) + i = s.myId → bits v (4 * i + 3) (4 * i) < 8) →
      goes (.partPeersWrite p sub v) fun t => Tbl.get 0 (t.part p.val).peers (16 * (sub - 1) + j) = bits v (4 * j + 3) (4 * j) ∧
        (t.part p.val).maps = (s.part p.val).maps) ∧
    (v < 2 ^ 64 → bits v 45 0 = 0 → goes (.obsSelect v) fun t => t.rel = { s.rel with obsSelect := v, obsData := s.observe v s.sec.unlocked } ∧ t.mem = s.mem) ∧
    (own → v < 2 ^ 64 → bits v 45 0 = 0 → (s.part p.val).st ≠ .free → goes (.partObsSelect pr p v) fun t => (t.part p.val).obsSelect = v ∧ t.rel = s.rel ∧
      (t.part p.val).obsData = s.observe v (s.debugOpen p.val && s.hasCluster p.val (clusterOf (obsCore v)))) ∧
    (goes (.bistFullNext 1) fun t => t.bist = { s.bist with fullNext := true, skipNext := false } ∧ t.power = s.power) ∧
    (goes (.bistSkipNext 1) fun t => t.bist = { s.bist with fullNext := false, skipNext := true } ∧ t.power = s.power) ∧
    (v ≤ 4 → s.powered = true → s.allFree = true → s.bist.burning = none → s.fuseUsed v < fuseBanks v → s.softOf v ≠ 0 →
      goes (.repFuseBurn v) fun t => t.bist = { s.bist with burning := some (v, none) }) ∧
    (∀ d o, s.bist.burning = some (d, o) → goes .fuseBurnEnd fun t => t.bist.burning = none ∧ t.fuseUsed d = s.fuseUsed d + 1 ∧ t.softOf d = s.softOf d - 512) ∧
    (v < 2 ^ 13 → bits v 7 4 = 0 → slot ≤ 8 → slotCode (s.slotMap k) slot = 0xA → 3 ≤ Tbl.get 0 s.bist.corePass (9 * k + slot) →
      3 ≤ Tbl.get 0 s.bist.sramPass (9 * k + slot) → s.strikesOf k slot = 0 →
      goes (.repUnretire v) fun t => t.slotMap k = setSlot (s.slotMap k) slot ((missingCore (s.slotMap k)).getD 8))

/-! ### Power (ch01, ch18) -/

/-- The input and the start-up timeline (R599 to R602, R606, R607): a soft start, losses of the input, the steps in order, and `MODULE_READY`. -/
def Obligations.InputAndStart : Prop :=
  ∀ (mv ms : Nat) (rep : StartReport) (s : State),
    let P := s.power
    let starts (i : Instr) : Prop := ∃ t, exec i s = .next t ∧ t.power.hotSwap = true ∧ t.power.startStep = some 0 ∧ t.power.absent = false ∧
      t.power.state = P.state ∧ t.meter = s.meter
    let lost (t : State) : Prop := t.power.absent = true ∧ t.meter = s.meter ∧ t.sec.state = s.sec.state ∧
      (P.hotSwap = true → t.power.state = 4 ∧ t.power.hotSwap = false ∧ t.bist.stale = true ∧ t.power.lastStop = 1 ∧ t.parts = [] ∧ t.queues = [] ∧ t.mem.cells = [])
    (P.hotSwap = false → P.absent = true → turnOn mv = true → starts (.powerOn mv)) ∧
    (P.state = 4 → P.hotSwap = false → P.presN = false → P.absent = false → turnOn P.mv = true → starts .wakeN) ∧
    (P.overVolt = true → P.presN = false → turnOn mv = true → starts (.inputOvervoltage mv)) ∧
    (∃ t, exec .presNHigh s = .next t ∧ t.power.presN = true ∧ lost t) ∧
    (∃ t, exec .inputUndervoltage s = .next t ∧ t.power.presN = P.presN ∧ lost t) ∧
    (62000 < mv → ∃ t, exec (.inputOvervoltage mv) s = .next t ∧ t.power.overVolt = true ∧ lost t) ∧
    (∀ k, P.startStep = some k → k < 12 → k ≠ 4 → ∃ t, exec (.startUpStep rep) s = .next t ∧ t.power.startStep = some (k + 1) ∧
      (k < 3 → t.power.rails.testBit k = true) ∧ t.meter = s.meter) ∧
    (P.startStep = some 4 → P.startFrom = 4 →
      ((s.checkSlots rep.image0 rep.image1).mgmt.choose = none → ∃ t, exec (.startUpStep rep) s = .next t ∧ t.power.startStep = none ∧ t.power.state = 3 ∧
        t.mgmt.recovery = true ∧ t.mgmt.active = none) ∧
      (∀ k, (s.checkSlots rep.image0 rep.image1).mgmt.choose = some k → ∃ t, exec (.startUpStep rep) s = .next t ∧ t.power.startStep = some 5 ∧
        t.mgmt.active = some k ∧ t.mgmt.recovery = false)) ∧
    (P.startStep = some 12 → ∃ t, exec (.moduleReady ms) s = .next t ∧ t.power.state = 0 ∧ t.power.ready = true ∧ t.power.readyMs = ms ∧
      t.power.mode = P.modeReg ∧ t.power.startStep = none ∧ (P.startFrom = 2 → t.sync.objs = P.keptObjs ∧ t.mem = s.mem))

/-- Power states (R602 to R605, R609, R614): waking, and entering P2, P3 and P4. -/
def Obligations.PowerStates : Prop :=
  ∀ (v : Nat) (s : State), s.portM = true → s.mgmt.recovery = false →
    let P := s.power
    let goes (i : Instr) (effect : State → Prop) : Prop := ∃ t, exec i s = .next t ∧ t.meter = s.meter ∧ effect t
    let target := bits v 18 16
    let enters (i : Instr) (x : Nat) : Prop :=
      s.prepared x = true → s.moving = false →
        (s.powered = true → s.allFree = true → s.bist.skipNext = false → s.bist.running = none → s.bist.testOver = false →
          goes i fun t => t.power.toState = some x ∧ t.power.state = P.state ∧
            t.bist.running = some (s.bist.cursor, 0, 0, if s.bist.fullNext then none else some s.bist.budgetMs)) ∧
        (P.state = 2 → s.mgmt.committing = false → goes i fun t => t.power.state = x ∧ t.power.lastStop = 0 ∧ t.parts = [] ∧ t.mem.cells = [] ∧ t.fab.sessions = [])
    (s.moving = false → P.state = 2 ∨ P.state = 3 → goes (.wake .mgmt) fun t => t.power.toState = some 0 ∧
      t.power.startStep = some (if P.state = 3 then 2 else 7) ∧ t.power.startFrom = P.state) ∧
    (s.moving = false → s.powered = true → s.prepared 2 = true → goes (.enterRetention .mgmt) fun t => t.power.state = 2 ∧ t.power.keptObjs = s.sync.objs ∧
      t.queues = [] ∧ t.mes = [] ∧ t.ses = [] ∧ t.des = [] ∧ (∀ o, (t.obj o).kind = .free) ∧
      (∀ a, a < 2 ^ 56 → (∀ p b, s.carved p = some b → a < b + 2 ^ 23 ∨ b + 2 ^ 23 + 128 * s.sync.objs.length ≤ a) → Mem.byte t.mem.cells a = Mem.byte s.mem.cells a) ∧ (∀ a, 2 ^ 56 ≤ a → Mem.byte t.mem.cells a = 0) ∧
      ∀ i, i < 32 → t.dictRead .mgmt 0x1301 (i + 1) = s.dictRead .mgmt 0x1301 (i + 1)) ∧
    enters (.enterStandby .mgmt) 3 ∧ enters (.enterOff .mgmt) 4 ∧
    (v < 2 ^ 19 → 2 ≤ target → target ≤ 4 → 1 ≤ bits v 15 0 → bits v 15 0 ≤ 3600 → s.moving = false → P.state ≤ 2 → s.prepared target = false →
      goes (.pwrShutdownReq .mgmt v) fun t => t.power = { P with shutTarget := target, shutSecs := bits v 15 0, shutFrom := s.clockUs }) ∧
    (s.hubOn = true → P.shutTarget = 2 → goes .shutdownNoticeExpiry fun t => t.power = { P with shutTarget := 0, shutSecs := 0 } ∧ t.mem = s.mem) ∧
    (s.hubOn = true → P.shutTarget = 3 ∨ P.shutTarget = 4 → s.powered = true → s.moving = false → s.bist.skipNext = false →
      goes .shutdownNoticeExpiry fun t => t.power.toState = some P.shutTarget ∧ t.power.shutTarget = 0 ∧
        ∀ p, (t.part p).st ≠ .ready ∧ (t.part p).st ≠ .clearing)

/-- Modes, clocks and limits (R19, R24 to R28, R603, R610 to R613, R640, R641): the phases of a mode change, after which a queued mode begins, or is
deferred while something holds it; gating, throttling, the cap, the peak limit and the thermal trip; cables and on-board links. -/
def Obligations.ModesClocksAndCables : Prop :=
  ∀ (v temp watts : Nat) (k : Clu) (w : WPort) (link : Fin 10) (lanes : Nat) (s : State),
    let P := s.power
    let goes (i : Instr) (effect : State → Prop) : Prop := ∃ t, exec i s = .next t ∧ effect t
    let C := s.cluster k.val
    let all (t : State) (f : ClusterSt → ClusterSt) : Prop := ∀ i, i < 32 → t.cluster i = f (s.cluster i)
    let taken (f : ClusterSt → ClusterSt) : Nat := ((List.range 32).map fun i => stepsTaken f (s.cluster i)).sum
    let only (t : State) (c : ClusterSt) : Prop := t.cluster k.val = c ∧ ∀ i, i ≠ k.val → t.cluster i = s.cluster i
    (s.hubOn = true →
      (P.modeChange = some (0, v) → goes .modeChangeStep fun t => t.power = { P with modeChange := some (1, v) }) ∧
      (P.modeChange = some (1, v) → s.enginesIdle = true → goes .modeChangeStep fun t => t.power = { P with modeChange := some (2, v) }) ∧
      (P.modeChange = some (2, v) → goes .modeChangeStep fun t => t.power = { P with modeChange := some (3, v), mode := v }) ∧
      (P.modeChange = some (3, v) → P.modeQueued = none → goes .modeChangeStep fun t => t.power = { P with modeChange := none }) ∧
      (∀ n, P.modeChange = some (3, n) → P.modeQueued = some v → s.modeHeld = false → v ≠ P.mode →
        goes .modeChangeStep fun t => t.power = { P with modeChange := some (0, v), modeQueued := none, modeDeferred := none }) ∧
      (∀ n, P.modeChange = some (3, n) → P.modeQueued = some v → s.modeHeld = true →
        goes .modeChangeStep fun t => t.power = { P with modeChange := none, modeQueued := none, modeDeferred := some v }) ∧
      (P.modeDeferred = some v → s.modeHeld = false → s.notRunning = false → P.modeChange = none → v ≠ P.mode →
        goes .deferredModeChange fun t => t.power = { P with modeChange := some (0, v), modeQueued := none, modeDeferred := none })) ∧
    (s.powered = true →
      (s.clusterBusy k.val = false → s.gated.testBit k.val = false → goes (.clusterClockGate k) fun t => t.gated.testBit k.val = true ∧ t.power = P) ∧
      (95 ≤ temp → C.steps < 15 → goes (.throttleStepDown k temp) fun t => only t { C with temp := temp, step := C.step + 1 } ∧
        t.power.throttleEvents = satAdd 32 P.throttleEvents 1) ∧
      (95 ≤ temp → 15 ≤ C.steps → goes (.throttleStepDown k temp) fun t => only t { C with temp := temp } ∧
        t.power.throttleEvents = satAdd 32 P.throttleEvents 0) ∧
      (temp ≤ 90 → goes (.throttleStepUp k temp) fun t => only t { C with temp := temp, step := C.step - 1 }) ∧
      (P.capW ≠ 0 → P.capW < watts → goes (.powerCapStep watts) fun t => all t (fun c => { c with cap := min 15 (c.cap + 1) }) ∧
        t.power.throttleEvents = satAdd 32 P.throttleEvents (taken fun c => { c with cap := min 15 (c.cap + 1) })) ∧
      (P.capW = 0 ∨ watts ≤ P.capW → goes (.powerCapStep watts) fun t => all t (fun c => { c with cap := c.cap - 1 })) ∧
      (2400 < watts → P.peakOn = false → goes (.peakLimit watts) fun t => all t (fun c => { c with peak := 4 }) ∧ t.power.peakOn = true ∧
        t.power.throttleEvents = satAdd 32 P.throttleEvents (taken fun c => { c with peak := 4 })) ∧
      (P.peakOn = true → watts ≤ s.sustained → goes (.peakRelease watts) fun t => all t (fun c => { c with peak := 0 }) ∧ t.power.peakOn = false) ∧
      (110 ≤ temp → goes (.thermalTrip k temp) fun t => t.power.state = 3 ∧ t.power.lastStop = 2 ∧ t.parts = [] ∧ t.queues = [] ∧ t.bist.running = none ∧
        t.meter = s.meter) ∧
      goes (.onBoardLinkLaneFailure link lanes) fun t => t.power = { P with links := Tbl.upd 16 P.links link.val fun n => min n (linkLanes lanes) }) ∧
    ((s.port w.val).plugged = false →
      (s.hubOn = false → goes (.cablePlug w watts) fun t => t.port w.val = { s.port w.val with plugged := true, lowPower := decide (8 < watts) }) ∧
      (s.hubOn = true → watts ≤ 8 → goes (.cablePlug w watts) fun t => t.mem = s.mem ∧
        t.port w.val = { (s.port w.val).fresh with plugged := true, lowPower := false, st := .training, lanes := 0, ctl := [s.identity w.val] }) ∧
      (s.hubOn = true → 8 < watts → goes (.cablePlug w watts) fun t => (t.port w.val).st = .down ∧ (t.port w.val).lowPower = true)) ∧
    ((s.port w.val).plugged = true → goes (.cablePull w) fun t => (t.port w.val).plugged = false ∧
      (s.hubOn = true → (s.port w.val).st ≠ .down → (t.port w.val).st = .failed) ∧ t.mem = s.mem)

/-! ### Reliability and self-test (ch16, ch17) -/

/-- Hang recovery, stalls, deadlocks and checks (R551 to R564, R570): a recovery begins with a reset of the engine, a suspect that completes is cleared, a stall and
a deadlock fault their queues, and a check compares. -/
def Obligations.RecoveryRuns : Prop :=
  ∀ (c : Core) (q : QIx) (u : EngUnit) (x a b d e : Nat) (s : State), s.powered = true →
    let k := qid c q
    let at_ (r : Recovery) : Prop := r.core = c.val ∧ r.unit = u
    let faulted (t : State) (q cause : Nat) : Prop := (t.queue q).st = .faulted ∧ (t.queue q).fault.cause = cause
    (s.power.modeChange = none → s.recovery c.val u = none → s.suspendsAt c.val u = false → s.atWork c.val u (fun _ => true) = true →
      ∃ t, exec (.hangDetected c u) s = .next t ∧ (∃ r ∈ t.rel.recoveries, at_ r ∧ r.resetting = true) ∧ t.rel.hangs = satAdd 32 s.rel.hangs 1 ∧
        (u = .me → (t.me c.val).ops = []) ∧ (u = .se → (t.se c.val).ops = []) ∧ (u = .de → (t.de c.val).active = none ∧ (t.de c.val).shadow = none)) ∧
    (∀ r, s.recovery c.val u = some r → r.resetting = true →
      ∃ t, exec (.engineResetDone c u) s = .next t ∧ ∀ y ∈ t.rel.recoveries, at_ y → y.resetting = false) ∧
    (∀ r, s.recovery c.val u = some r → r.resetting = false → r.current = some x → r.todo = [] → s.replayDone c.val u x = true →
      ∃ t, exec (.suspectCleared c u) s = .next t ∧ ∀ y ∈ t.rel.recoveries, ¬at_ y) ∧
    (s.stalled x = true → (s.ctx x).queues.Nodup → (∀ q ∈ (s.ctx x).queues, (s.queue q).ctx = some x) →
      ∃ t, exec (.stallDetected x) s = .next t ∧ (t.ctx x).st = .faulted ∧ ∀ q ∈ (s.ctx x).queues, (s.queue q).st = .waiting → faulted t q 0x08) ∧
    (∀ f y, (s.waits k).findSome? s.orphan = some f → (s.queue f.1).ctx = some y → (s.queue f.1).st ≠ .faulted →
      ∃ t, exec (.deadlockCheck c q) s = .next t ∧ faulted t f.1 0x07 ∧ t.rel.deadlocks = satAdd 32 s.rel.deadlocks 1) ∧
    (∀ g l y, (s.waits k).findSome? s.orphan = none → s.waitCycle k = some (g :: l) →
      (s.queue g.1.q).ctx = some y → (s.queue g.1.q).st ≠ .faulted →
      ∃ t, exec (.deadlockCheck c q) s = .next t ∧ faulted t g.1.q 0x07 ∧ t.rel.deadlocks = satAdd 32 s.rel.deadlocks 1) ∧
    (∀ o, (s.me c.val).ops.find? (fun o => decide (o.phase = .checking)) = some o →
      (a % 2 ^ 64 = b % 2 ^ 64 → ∃ t, exec (.jayCompare c a b d e) s = .next t ∧ t.rel = s.rel ∧
        ∀ y ∈ (t.me c.val).ops, y.qid = o.qid → y.seq = o.seq → y.phase = .tokenHeld) ∧
      (a % 2 ^ 64 ≠ b % 2 ^ 64 → ∃ t, exec (.jayCompare c a b d e) s = .next t ∧ t.rel.jayMismatch = (s.rel.jayMismatch + 1) % 2 ^ 64))

/-- Strikes, margins, field tests, migration, and the slices of a self-test (R38, R39, R571 to R577, R585 to R590). -/
def Obligations.TestsAndMargins : Prop :=
  ∀ (k : Clu) (slot : Fin 9) (c : Core) (result detail ms : Nat) (faults : List Nat) (s : State),
    let goes (i : Instr) (effect : State → Prop) : Prop := ∃ t, exec i s = .next t ∧ effect t
    let K := clusterOf c.val
    let old := s.slotOf c.val
    (s.powered = true →
      (goes (.strikeExpiry k slot) fun t => Tbl.get 0 t.rel.strikes (9 * k.val + slot.val) = Tbl.get 0 s.rel.strikes (9 * k.val + slot.val) - 1 ∧ t.rel.margin = s.rel.margin) ∧
      (goes (.marginReturn k) fun t => t.marginOf k.val = s.marginOf k.val - 1 ∧ t.rel.strikes = s.rel.strikes) ∧
      (∀ i, s.rel.ftPeriod ≠ 0 → s.rel.ftTest = none → (∀ g ∈ s.rel.migrations, g.2.2 = false) →
        ((List.range 288).map fun i => (s.rel.ftNext + i) % 288).find? s.testable = some i →
        (slotCode (s.slotMap (i / 9)) (i % 9) = 8 → goes .fieldTestStart fun t => t.rel.ftTest = some (i / 9, i % 9) ∧ t.rel.ftNext = (i + 1) % 288 ∧
          t.slotMap (i / 9) = setSlot (s.slotMap (i / 9)) (i % 9) 9) ∧
        (∀ sp, slotCode (s.slotMap (i / 9)) (i % 9) ≠ 8 → s.spareOf (i / 9) = some sp → goes .fieldTestStart fun t =>
          t.rel.migrations = s.rel.migrations ++ [(8 * (i / 9) + slotCode (s.slotMap (i / 9)) (i % 9), sp, true)] ∧ t.rel.ftNext = (i + 1) % 288)) ∧
      (∀ a b, s.rel.ftTest = some (a, b) →
        (goes (.fieldTestEnd true) fun t => t.rel.ftTest = none ∧ t.slotMap a = setSlot (s.slotMap a) b 8 ∧ t.rel.ftFailed = s.rel.ftFailed) ∧
        (goes (.fieldTestEnd false) fun t => t.rel.ftTest = none ∧ t.slotMap a = setSlot (s.slotMap a) b 0xA ∧ t.rel.ftFailed = satAdd 16 s.rel.ftFailed 1)) ∧
      (∀ sp, s.coreIdle c.val = true → s.spareOf K = some sp → s.checkerBusy K = false → (K, old) ∉ s.rel.retirePend →
        (∃ b, (c.val, sp, b) ∈ s.rel.migrations) →
        goes (.migration c) fun t => t.slotMap K = setSlot (setSlot (s.slotMap K) old 9) sp (c.val % 8) ∧ t.rel.ftTest = some (K, old) ∧
          t.mes = s.mes ∧ t.queues = s.queues ∧ t.mem = s.mem)) ∧
    (∀ r, s.bist.running = some r → 1 ≤ result → result ≤ 3 → s.bist.cursor < 51 → s.bist.noRoom s.bist.cursor detail = 0 →
      goes (.selfTestSliceEnd result detail ms faults) fun t => Tbl.get 0 t.bist.results s.bist.cursor = sliceEntry 0 ms detail result ∧
        t.bist.cursor = (s.bist.cursor + 1) % 51)

/-! ### Meter (ch19) -/

/-- The meter's own commands (R617 to R630) change the meter and the hub's copy of its records, and nothing else but what the module sends.
The operands and the details of the records are the model's choices (log 78). -/
def Obligations.MeterRuns : Prop :=
  ∀ (answer : Option Bool) (mv ma e pMax : Nat) (fail : Bool) (s : State),
    let m := s.meter
    let M := s.mirror
    let goes (i : Instr) (effect : State → Prop) : Prop :=
      ∃ t, exec i s = .next t ∧ { t with meter := s.meter, mirror := s.mirror, outbox := s.outbox, free := s.free } = s ∧ effect t
    let issued (t : State) (r : MeterRec) : Prop := t.meter.records = newest 1440 (m.records ++ [r]) ∧ t.meter.nextSeq = m.nextSeq + 1 ∧ r.seq = m.nextSeq ∧
      r.energy = t.meter.acc / 2 ^ 20 ∧ (M.linkUp = true → t.mirror.sending = newest 1440 (M.sending ++ [r]))
    (m.powered = false → goes (.meterPowerUp answer) fun t => t.meter.powered = true ∧ t.meter.boots = m.boots + 1 ∧ t.meter.acc = m.nvAcc ∧
      t.meter.serialKnown = answer.isSome ∧ t.meter.serialMismatch = decide (answer = some false) ∧ ∃ r, issued t r ∧ r.start = true ∧ r.boots = m.boots + 1) ∧
    (m.powered = true →
      (goes (.meterSample mv ma e) fun t => t.meter.acc = m.acc + e ∧ t.meter.records = m.records ∧
        t.meter.vMin = (if m.intervalEmpty then mv / 10 else min m.vMin (mv / 10)) ∧ t.meter.vMax = (if m.intervalEmpty then mv / 10 else max m.vMax (mv / 10)) ∧
        t.outbox = s.outbox ++ List.replicate ((m.acc + e) / whUnits - m.acc / whUnits) .led) ∧
      (goes (.meterReading pMax fail true) fun t => t.meter.ticks = m.ticks + 1966080 ∧ t.meter.acc = m.acc ∧ ∃ r, issued t r ∧ r.start = false ∧
        r.ticks = m.ticks + 1966080 ∧ r.pMax = pMax ∧ r.selfTestFail = fail ∧ (m.intervalEmpty = false → r.vMin = m.vMin ∧ r.vMax = m.vMax)) ∧
      (goes (.meterReading pMax fail false) fun t => t.meter = { m with ticks := m.ticks + 1966080 }) ∧
      (goes .meterNvWrite fun t => t.meter = { m with nvAcc := m.acc }) ∧
      (goes .meterHoldupSave fun t => t.meter.nvAcc = m.acc ∧ t.meter.powered = false ∧ t.meter.records = m.records ∧ t.meter.nextSeq = m.nextSeq ∧
        t.mirror.linkUp = false) ∧
      (s.auxOn = true → m.serialKnown = false → goes (.serialCheckRetry answer) fun t =>
        t.meter = { m with serialKnown := answer.isSome, serialMismatch := decide (answer = some false) }) ∧
      (s.auxOn = true → M.linkUp = false → goes .meterRecordRequest fun t => t.meter = m ∧ t.mirror = { M with linkUp := true, sending := s.meterAfter })) ∧
    (∀ r rs, s.auxOn = true → M.linkUp = true → M.sending = r :: rs → goes .meterRecordArrive fun t => t.meter = m ∧ t.mirror.sending = rs ∧
      t.mirror.latest = some r ∧ Tbl.get none t.mirror.slots (r.seq % 60) = some r ∧ t.mirror.records = newest 64 (M.records ++ [r]))

/-! ### Invariants of the sequencers -/

/-- The state after reset is legal (R24, R495, R536, R602, R617). -/
def Obligations.ResetIsLegal : Prop :=
  Safety.Legal State.reset

/-- Every step keeps the sequencers' states legal (R24, R536, R544, R585, R602, R619, R626, R629). -/
def Obligations.StepsKeepLegal : Prop :=
  ∀ s t : State, Safety.Legal s → step s = .next t → Safety.Legal t

/-- The meter never goes back (R617, R619, R626): its energy, ticks, boots and sequence numbers never decrease, and a record that a step issues shows no less energy and
a higher sequence number than every record before it. -/
def Obligations.MeterNeverGoesBack : Prop :=
  ∀ s t : State, Safety.Legal s → step s = .next t →
    s.meter.acc ≤ t.meter.acc ∧ s.meter.nvAcc ≤ t.meter.nvAcc ∧ s.meter.ticks ≤ t.meter.ticks ∧ s.meter.boots ≤ t.meter.boots ∧
    s.meter.nextSeq ≤ t.meter.nextSeq ∧
    ∀ r ∈ t.meter.records, r ∈ s.meter.records ∨ ∀ q ∈ s.meter.records, q.energy ≤ r.energy ∧ q.seq < r.seq
end

