-- ==== Sys2Proof/Laws/Table.lean ====
section
/-! SUPPORT. Laws/Table.lean: reading what was written, and the canonical form, of sparse tables and of memory. -/

namespace Sys2Proof.Machine

variable {α : Type}

@[simp] theorem Tbl.get_nil (d : α) (k : Nat) : Tbl.get d [] k = d := rfl

theorem Tbl.get_put_same (d : α) (t : Table α) (k : Nat) (a : α) : Tbl.get d (Tbl.put t k a) k = a := by
  induction t with
  | nil => simp [Tbl.put, Tbl.get]
  | cons e t ih =>
    obtain ⟨i, b⟩ := e
    simp only [Tbl.put]
    split
    · simp [Tbl.get]
    · split
      · simp [Tbl.get]
      · simp [Tbl.get, *]

theorem Tbl.get_put_other (d : α) (t : Table α) (k j : Nat) (a : α) (h : j ≠ k) :
    Tbl.get d (Tbl.put t k a) j = Tbl.get d t j := by
  induction t with
  | nil => simp [Tbl.put, Tbl.get, h]
  | cons e t ih =>
    obtain ⟨i, b⟩ := e
    simp only [Tbl.put]
    split
    · subst_vars; simp [Tbl.get, h]
    · split <;> simp [Tbl.get, h, ih]

theorem Tbl.get_del_same (d : α) (t : Table α) (k : Nat) : Tbl.get d (Tbl.del t k) k = d := by
  induction t with
  | nil => rfl
  | cons e t ih =>
    obtain ⟨i, b⟩ := e
    simp only [Tbl.del]
    split
    · exact ih
    · simp [Tbl.get, *]

theorem Tbl.get_del_other (d : α) (t : Table α) (k j : Nat) (h : j ≠ k) : Tbl.get d (Tbl.del t k) j = Tbl.get d t j := by
  induction t with
  | nil => rfl
  | cons e t ih =>
    obtain ⟨i, b⟩ := e
    simp only [Tbl.del]
    split
    · subst_vars; simp [Tbl.get, h, ih]
    · simp [Tbl.get, ih]

variable [DecidableEq α]

/-- A table reads at the key written what was written. -/
@[simp] theorem Tbl.get_set_same (d : α) (t : Table α) (k : Nat) (a : α) : Tbl.get d (Tbl.set d t k a) k = a := by
  unfold Tbl.set
  split
  · next h => rw [Tbl.get_del_same, h]
  · exact Tbl.get_put_same d t k a

/-- A write leaves every other key as it was. -/
theorem Tbl.get_set_other (d : α) (t : Table α) (k j : Nat) (a : α) (h : j ≠ k) : Tbl.get d (Tbl.set d t k a) j = Tbl.get d t j := by
  unfold Tbl.set
  split
  · exact Tbl.get_del_other d t k j h
  · exact Tbl.get_put_other d t k j a h

@[simp] theorem Tbl.get_upd_same (d : α) (t : Table α) (k : Nat) (f : α → α) : Tbl.get d (Tbl.upd d t k f) k = f (Tbl.get d t k) := by
  simp [Tbl.upd]

theorem Tbl.get_upd_other (d : α) (t : Table α) (k j : Nat) (f : α → α) (h : j ≠ k) :
    Tbl.get d (Tbl.upd d t k f) j = Tbl.get d t j := Tbl.get_set_other d t k j _ h

/-- Where `f` keeps the default, applying `f` to a table applies it to every key. -/
theorem Tbl.get_mapAll (d : α) (f : Nat → α → α) (t : Table α) (k : Nat) (hf : f k d = d) :
    Tbl.get d (Tbl.mapAll d f t) k = f k (Tbl.get d t k) := by
  induction t with
  | nil => exact hf.symm
  | cons e t ih =>
    obtain ⟨i, a⟩ := e
    simp only [Tbl.mapAll, Tbl.get]
    by_cases hk : k = i
    · subst hk
      split
      · next h => simp [Tbl.get_del_same, h]
      · simp [Tbl.get]
    · split
      · simp [Tbl.get_del_other, hk, ih]
      · simp [Tbl.get, hk, ih]

/-! ### The canonical form -/

theorem Tbl.wfFrom_weaken (d : α) (lo lo' : Option Nat) (t : Table α) (h : Tbl.wfFrom d lo t = true)
    (hl : ∀ i, lo.all (· < i) = true → lo'.all (· < i) = true) : Tbl.wfFrom d lo' t = true := by
  cases t with
  | nil => rfl
  | cons e t =>
    obtain ⟨i, a⟩ := e
    simp only [Tbl.wfFrom, Bool.and_eq_true] at h ⊢
    exact ⟨⟨hl i h.1.1, h.1.2⟩, h.2⟩

theorem Tbl.wfFrom_del (d : α) (t : Table α) (k : Nat) : ∀ lo, Tbl.wfFrom d lo t = true → Tbl.wfFrom d lo (Tbl.del t k) = true := by
  induction t with
  | nil => intro lo h; exact h
  | cons e t ih =>
    obtain ⟨i, a⟩ := e
    intro lo h
    simp only [Tbl.wfFrom, Bool.and_eq_true] at h
    simp only [Tbl.del]
    split
    · refine Tbl.wfFrom_weaken d (some i) lo _ (ih _ h.2) ?_
      intro j hj
      cases lo with
      | none => rfl
      | some l => simp at hj h ⊢; omega
    · simp only [Tbl.wfFrom, Bool.and_eq_true]
      exact ⟨h.1, ih _ h.2⟩

theorem Tbl.wfFrom_put (d : α) (t : Table α) (k : Nat) (a : α) (ha : a ≠ d) :
    ∀ lo, lo.all (· < k) = true → Tbl.wfFrom d lo t = true → Tbl.wfFrom d lo (Tbl.put t k a) = true := by
  induction t with
  | nil => intro lo hl _; simp [Tbl.put, Tbl.wfFrom, hl, ha]
  | cons e t ih =>
    obtain ⟨i, b⟩ := e
    intro lo hl h
    simp only [Tbl.wfFrom, Bool.and_eq_true] at h
    simp only [Tbl.put]
    split
    · subst_vars; simp [Tbl.wfFrom, hl, ha, h.2]
    · split
      · next h1 h2 =>
        simp only [Tbl.wfFrom, Bool.and_eq_true]
        exact ⟨⟨hl, by simp [ha]⟩, ⟨by simpa using h2, h.1.2⟩, h.2⟩
      · next h1 h2 =>
        simp only [Tbl.wfFrom, Bool.and_eq_true]
        exact ⟨h.1, ih _ (by simp; omega) h.2⟩

/-- A write keeps the canonical form. -/
theorem Tbl.wf_set (d : α) (t : Table α) (k : Nat) (a : α) (h : Tbl.wf d t = true) : Tbl.wf d (Tbl.set d t k a) = true := by
  unfold Tbl.set Tbl.wf at *
  split
  · exact Tbl.wfFrom_del d t k none h
  · next ha => exact Tbl.wfFrom_put d t k a ha none rfl h

/-- So does leaving entries out. -/
theorem Tbl.wfFrom_filter (d : α) (t : Table α) (p : Nat × α → Bool) : ∀ lo, Tbl.wfFrom d lo t = true → Tbl.wfFrom d lo (t.filter p) = true := by
  induction t with
  | nil => intro lo h; exact h
  | cons e t ih =>
    obtain ⟨i, a⟩ := e
    intro lo h
    simp only [Tbl.wfFrom, Bool.and_eq_true] at h
    rw [List.filter_cons]
    split
    · simp only [Tbl.wfFrom, Bool.and_eq_true]
      exact ⟨h.1, ih _ h.2⟩
    · refine Tbl.wfFrom_weaken d (some i) lo _ (ih _ h.2) ?_
      intro j hj
      cases lo with
      | none => rfl
      | some l => simp at hj h ⊢; omega

/-! ### Memory -/

/-- A read after a write to the same address gives the byte written. -/
theorem Mem.byte_setByte_same (m : Memory) (a : Nat) (b : Byte) : Mem.byte (Mem.setByte m a b) a = b := by
  simp [Mem.byte, Mem.setByte]

/-- A write leaves every other address alone. -/
theorem Mem.byte_setByte_other (m : Memory) (a k : Nat) (b : Byte) (h : k ≠ a) : Mem.byte (Mem.setByte m a b) k = Mem.byte m k :=
  Tbl.get_set_other 0 m a k b h

theorem Mem.wf_setByte (m : Memory) (a : Nat) (b : Byte) (h : Memory.wf m = true) : Memory.wf (Mem.setByte m a b) = true :=
  Tbl.wf_set 0 m a b h

theorem Mem.wf_write (bs : Bytes) : ∀ (m : Memory) (a : Nat), Memory.wf m = true → Memory.wf (Mem.write m a bs) = true := by
  induction bs with
  | nil => intro m a h; exact h
  | cons b bs ih => intro m a h; exact ih _ _ (Mem.wf_setByte m a b h)

theorem Mem.wf_writeAt (l : List (Nat × Byte)) : ∀ m : Memory, Memory.wf m = true → Memory.wf (Mem.writeAt m l) = true := by
  induction l with
  | nil => intro m h; exact h
  | cons e l ih => intro m h; exact ih _ (Mem.wf_setByte m e.1 e.2 h)

theorem Mem.wf_erase (m : Memory) (a n : Nat) (h : Memory.wf m = true) : Memory.wf (Mem.erase m a n) = true :=
  Tbl.wfFrom_filter 0 m _ none h

/-- A byte outside a written range is as before. -/
theorem Mem.byte_write_other (bs : Bytes) : ∀ (m : Memory) (a k : Nat), k < a ∨ a + bs.length ≤ k →
    Mem.byte (Mem.write m a bs) k = Mem.byte m k := by
  induction bs with
  | nil => intro m a k _; rfl
  | cons b bs ih =>
    intro m a k h
    simp only [List.length_cons] at h
    rw [Mem.write, ih _ _ _ (by omega), Mem.byte_setByte_other _ _ _ _ (by omega)]

/-- A byte whose address is not among those written is as before. -/
theorem Mem.byte_writeAt_other (l : List (Nat × Byte)) : ∀ (m : Memory) (k : Nat), k ∉ l.map (·.1) →
    Mem.byte (Mem.writeAt m l) k = Mem.byte m k := by
  induction l with
  | nil => intro m k _; rfl
  | cons e l ih =>
    intro m k h
    simp only [List.map_cons, List.mem_cons, not_or] at h
    rw [Mem.writeAt, ih _ _ h.2, Mem.byte_setByte_other _ _ _ _ h.1]


end Sys2Proof.Machine
end

