-- ==== Sys2Proof/Laws/State.lean ====
section
/-! SUPPORT. Laws/State.lean: what each named update of State leaves as it was, field by field, and what it makes of
the entry it names. -/

namespace Sys2Proof.Machine.State

variable (s t : State)

/-! ### setQueue -/

@[simp] theorem setQueue_pending (q : Nat) (x : Queue) : (s.setQueue q x).pending = s.pending := rfl
@[simp] theorem setQueue_free (q : Nat) (x : Queue) : (s.setQueue q x).free = s.free := rfl
@[simp] theorem setQueue_gated (q : Nat) (x : Queue) : (s.setQueue q x).gated = s.gated := rfl
@[simp] theorem setQueue_clockUs (q : Nat) (x : Queue) : (s.setQueue q x).clockUs = s.clockUs := rfl
@[simp] theorem setQueue_outbox (q : Nat) (x : Queue) : (s.setQueue q x).outbox = s.outbox := rfl
@[simp] theorem setQueue_power (q : Nat) (x : Queue) : (s.setQueue q x).power = s.power := rfl
@[simp] theorem setQueue_mes (q : Nat) (x : Queue) : (s.setQueue q x).mes = s.mes := rfl
@[simp] theorem setQueue_ses (q : Nat) (x : Queue) : (s.setQueue q x).ses = s.ses := rfl
@[simp] theorem setQueue_des (q : Nat) (x : Queue) : (s.setQueue q x).des = s.des := rfl
@[simp] theorem setQueue_tandem (q : Nat) (x : Queue) : (s.setQueue q x).tandem = s.tandem := rfl
@[simp] theorem setQueue_bankFlight (q : Nat) (x : Queue) : (s.setQueue q x).bankFlight = s.bankFlight := rfl
@[simp] theorem setQueue_sync (q : Nat) (x : Queue) : (s.setQueue q x).sync = s.sync := rfl
@[simp] theorem setQueue_mem (q : Nat) (x : Queue) : (s.setQueue q x).mem = s.mem := rfl
@[simp] theorem setQueue_fab (q : Nat) (x : Queue) : (s.setQueue q x).fab = s.fab := rfl
@[simp] theorem setQueue_pci (q : Nat) (x : Queue) : (s.setQueue q x).pci = s.pci := rfl
@[simp] theorem setQueue_funcs (q : Nat) (x : Queue) : (s.setQueue q x).funcs = s.funcs := rfl
@[simp] theorem setQueue_msixMinUs (q : Nat) (x : Queue) : (s.setQueue q x).msixMinUs = s.msixMinUs := rfl
@[simp] theorem setQueue_badRequests (q : Nat) (x : Queue) : (s.setQueue q x).badRequests = s.badRequests := rfl
@[simp] theorem setQueue_cmds (q : Nat) (x : Queue) : (s.setQueue q x).cmds = s.cmds := rfl
@[simp] theorem setQueue_nextCmd (q : Nat) (x : Queue) : (s.setQueue q x).nextCmd = s.nextCmd := rfl
@[simp] theorem setQueue_ctxs (q : Nat) (x : Queue) : (s.setQueue q x).ctxs = s.ctxs := rfl
@[simp] theorem setQueue_parts (q : Nat) (x : Queue) : (s.setQueue q x).parts = s.parts := rfl
@[simp] theorem setQueue_mgmt (q : Nat) (x : Queue) : (s.setQueue q x).mgmt = s.mgmt := rfl
@[simp] theorem setQueue_sec (q : Nat) (x : Queue) : (s.setQueue q x).sec = s.sec := rfl
@[simp] theorem setQueue_rel (q : Nat) (x : Queue) : (s.setQueue q x).rel = s.rel := rfl
@[simp] theorem setQueue_bist (q : Nat) (x : Queue) : (s.setQueue q x).bist = s.bist := rfl
@[simp] theorem setQueue_meter (q : Nat) (x : Queue) : (s.setQueue q x).meter = s.meter := rfl
@[simp] theorem setQueue_mirror (q : Nat) (x : Queue) : (s.setQueue q x).mirror = s.mirror := rfl
@[simp] theorem setQueue_watchAlarms (q : Nat) (x : Queue) : (s.setQueue q x).watchAlarms = s.watchAlarms := rfl
@[simp] theorem setQueue_watchRate (q : Nat) (x : Queue) : (s.setQueue q x).watchRate = s.watchRate := rfl
@[simp] theorem setQueue_watchLate (q : Nat) (x : Queue) : (s.setQueue q x).watchLate = s.watchLate := rfl
@[simp] theorem setQueue_shown (q : Nat) (x : Queue) : (s.setQueue q x).shown = s.shown := rfl

/-! ### setMe -/

@[simp] theorem setMe_pending (c : Nat) (x : MeEng) : (s.setMe c x).pending = s.pending := rfl
@[simp] theorem setMe_free (c : Nat) (x : MeEng) : (s.setMe c x).free = s.free := rfl
@[simp] theorem setMe_gated (c : Nat) (x : MeEng) : (s.setMe c x).gated = s.gated := rfl
@[simp] theorem setMe_clockUs (c : Nat) (x : MeEng) : (s.setMe c x).clockUs = s.clockUs := rfl
@[simp] theorem setMe_outbox (c : Nat) (x : MeEng) : (s.setMe c x).outbox = s.outbox := rfl
@[simp] theorem setMe_power (c : Nat) (x : MeEng) : (s.setMe c x).power = s.power := rfl
@[simp] theorem setMe_queues (c : Nat) (x : MeEng) : (s.setMe c x).queues = s.queues := rfl
@[simp] theorem setMe_ses (c : Nat) (x : MeEng) : (s.setMe c x).ses = s.ses := rfl
@[simp] theorem setMe_des (c : Nat) (x : MeEng) : (s.setMe c x).des = s.des := rfl
@[simp] theorem setMe_tandem (c : Nat) (x : MeEng) : (s.setMe c x).tandem = s.tandem := rfl
@[simp] theorem setMe_bankFlight (c : Nat) (x : MeEng) : (s.setMe c x).bankFlight = s.bankFlight := rfl
@[simp] theorem setMe_sync (c : Nat) (x : MeEng) : (s.setMe c x).sync = s.sync := rfl
@[simp] theorem setMe_mem (c : Nat) (x : MeEng) : (s.setMe c x).mem = s.mem := rfl
@[simp] theorem setMe_fab (c : Nat) (x : MeEng) : (s.setMe c x).fab = s.fab := rfl
@[simp] theorem setMe_pci (c : Nat) (x : MeEng) : (s.setMe c x).pci = s.pci := rfl
@[simp] theorem setMe_funcs (c : Nat) (x : MeEng) : (s.setMe c x).funcs = s.funcs := rfl
@[simp] theorem setMe_msixMinUs (c : Nat) (x : MeEng) : (s.setMe c x).msixMinUs = s.msixMinUs := rfl
@[simp] theorem setMe_badRequests (c : Nat) (x : MeEng) : (s.setMe c x).badRequests = s.badRequests := rfl
@[simp] theorem setMe_cmds (c : Nat) (x : MeEng) : (s.setMe c x).cmds = s.cmds := rfl
@[simp] theorem setMe_nextCmd (c : Nat) (x : MeEng) : (s.setMe c x).nextCmd = s.nextCmd := rfl
@[simp] theorem setMe_ctxs (c : Nat) (x : MeEng) : (s.setMe c x).ctxs = s.ctxs := rfl
@[simp] theorem setMe_parts (c : Nat) (x : MeEng) : (s.setMe c x).parts = s.parts := rfl
@[simp] theorem setMe_mgmt (c : Nat) (x : MeEng) : (s.setMe c x).mgmt = s.mgmt := rfl
@[simp] theorem setMe_sec (c : Nat) (x : MeEng) : (s.setMe c x).sec = s.sec := rfl
@[simp] theorem setMe_rel (c : Nat) (x : MeEng) : (s.setMe c x).rel = s.rel := rfl
@[simp] theorem setMe_bist (c : Nat) (x : MeEng) : (s.setMe c x).bist = s.bist := rfl
@[simp] theorem setMe_meter (c : Nat) (x : MeEng) : (s.setMe c x).meter = s.meter := rfl
@[simp] theorem setMe_mirror (c : Nat) (x : MeEng) : (s.setMe c x).mirror = s.mirror := rfl
@[simp] theorem setMe_watchAlarms (c : Nat) (x : MeEng) : (s.setMe c x).watchAlarms = s.watchAlarms := rfl
@[simp] theorem setMe_watchRate (c : Nat) (x : MeEng) : (s.setMe c x).watchRate = s.watchRate := rfl
@[simp] theorem setMe_watchLate (c : Nat) (x : MeEng) : (s.setMe c x).watchLate = s.watchLate := rfl
@[simp] theorem setMe_shown (c : Nat) (x : MeEng) : (s.setMe c x).shown = s.shown := rfl

/-! ### setSe -/

@[simp] theorem setSe_pending (c : Nat) (x : SeEng) : (s.setSe c x).pending = s.pending := rfl
@[simp] theorem setSe_free (c : Nat) (x : SeEng) : (s.setSe c x).free = s.free := rfl
@[simp] theorem setSe_gated (c : Nat) (x : SeEng) : (s.setSe c x).gated = s.gated := rfl
@[simp] theorem setSe_clockUs (c : Nat) (x : SeEng) : (s.setSe c x).clockUs = s.clockUs := rfl
@[simp] theorem setSe_outbox (c : Nat) (x : SeEng) : (s.setSe c x).outbox = s.outbox := rfl
@[simp] theorem setSe_power (c : Nat) (x : SeEng) : (s.setSe c x).power = s.power := rfl
@[simp] theorem setSe_queues (c : Nat) (x : SeEng) : (s.setSe c x).queues = s.queues := rfl
@[simp] theorem setSe_mes (c : Nat) (x : SeEng) : (s.setSe c x).mes = s.mes := rfl
@[simp] theorem setSe_des (c : Nat) (x : SeEng) : (s.setSe c x).des = s.des := rfl
@[simp] theorem setSe_tandem (c : Nat) (x : SeEng) : (s.setSe c x).tandem = s.tandem := rfl
@[simp] theorem setSe_bankFlight (c : Nat) (x : SeEng) : (s.setSe c x).bankFlight = s.bankFlight := rfl
@[simp] theorem setSe_sync (c : Nat) (x : SeEng) : (s.setSe c x).sync = s.sync := rfl
@[simp] theorem setSe_mem (c : Nat) (x : SeEng) : (s.setSe c x).mem = s.mem := rfl
@[simp] theorem setSe_fab (c : Nat) (x : SeEng) : (s.setSe c x).fab = s.fab := rfl
@[simp] theorem setSe_pci (c : Nat) (x : SeEng) : (s.setSe c x).pci = s.pci := rfl
@[simp] theorem setSe_funcs (c : Nat) (x : SeEng) : (s.setSe c x).funcs = s.funcs := rfl
@[simp] theorem setSe_msixMinUs (c : Nat) (x : SeEng) : (s.setSe c x).msixMinUs = s.msixMinUs := rfl
@[simp] theorem setSe_badRequests (c : Nat) (x : SeEng) : (s.setSe c x).badRequests = s.badRequests := rfl
@[simp] theorem setSe_cmds (c : Nat) (x : SeEng) : (s.setSe c x).cmds = s.cmds := rfl
@[simp] theorem setSe_nextCmd (c : Nat) (x : SeEng) : (s.setSe c x).nextCmd = s.nextCmd := rfl
@[simp] theorem setSe_ctxs (c : Nat) (x : SeEng) : (s.setSe c x).ctxs = s.ctxs := rfl
@[simp] theorem setSe_parts (c : Nat) (x : SeEng) : (s.setSe c x).parts = s.parts := rfl
@[simp] theorem setSe_mgmt (c : Nat) (x : SeEng) : (s.setSe c x).mgmt = s.mgmt := rfl
@[simp] theorem setSe_sec (c : Nat) (x : SeEng) : (s.setSe c x).sec = s.sec := rfl
@[simp] theorem setSe_rel (c : Nat) (x : SeEng) : (s.setSe c x).rel = s.rel := rfl
@[simp] theorem setSe_bist (c : Nat) (x : SeEng) : (s.setSe c x).bist = s.bist := rfl
@[simp] theorem setSe_meter (c : Nat) (x : SeEng) : (s.setSe c x).meter = s.meter := rfl
@[simp] theorem setSe_mirror (c : Nat) (x : SeEng) : (s.setSe c x).mirror = s.mirror := rfl
@[simp] theorem setSe_watchAlarms (c : Nat) (x : SeEng) : (s.setSe c x).watchAlarms = s.watchAlarms := rfl
@[simp] theorem setSe_watchRate (c : Nat) (x : SeEng) : (s.setSe c x).watchRate = s.watchRate := rfl
@[simp] theorem setSe_watchLate (c : Nat) (x : SeEng) : (s.setSe c x).watchLate = s.watchLate := rfl
@[simp] theorem setSe_shown (c : Nat) (x : SeEng) : (s.setSe c x).shown = s.shown := rfl

/-! ### setDe -/

@[simp] theorem setDe_pending (c : Nat) (x : DeEng) : (s.setDe c x).pending = s.pending := rfl
@[simp] theorem setDe_free (c : Nat) (x : DeEng) : (s.setDe c x).free = s.free := rfl
@[simp] theorem setDe_gated (c : Nat) (x : DeEng) : (s.setDe c x).gated = s.gated := rfl
@[simp] theorem setDe_clockUs (c : Nat) (x : DeEng) : (s.setDe c x).clockUs = s.clockUs := rfl
@[simp] theorem setDe_outbox (c : Nat) (x : DeEng) : (s.setDe c x).outbox = s.outbox := rfl
@[simp] theorem setDe_power (c : Nat) (x : DeEng) : (s.setDe c x).power = s.power := rfl
@[simp] theorem setDe_queues (c : Nat) (x : DeEng) : (s.setDe c x).queues = s.queues := rfl
@[simp] theorem setDe_mes (c : Nat) (x : DeEng) : (s.setDe c x).mes = s.mes := rfl
@[simp] theorem setDe_ses (c : Nat) (x : DeEng) : (s.setDe c x).ses = s.ses := rfl
@[simp] theorem setDe_tandem (c : Nat) (x : DeEng) : (s.setDe c x).tandem = s.tandem := rfl
@[simp] theorem setDe_bankFlight (c : Nat) (x : DeEng) : (s.setDe c x).bankFlight = s.bankFlight := rfl
@[simp] theorem setDe_sync (c : Nat) (x : DeEng) : (s.setDe c x).sync = s.sync := rfl
@[simp] theorem setDe_mem (c : Nat) (x : DeEng) : (s.setDe c x).mem = s.mem := rfl
@[simp] theorem setDe_fab (c : Nat) (x : DeEng) : (s.setDe c x).fab = s.fab := rfl
@[simp] theorem setDe_pci (c : Nat) (x : DeEng) : (s.setDe c x).pci = s.pci := rfl
@[simp] theorem setDe_funcs (c : Nat) (x : DeEng) : (s.setDe c x).funcs = s.funcs := rfl
@[simp] theorem setDe_msixMinUs (c : Nat) (x : DeEng) : (s.setDe c x).msixMinUs = s.msixMinUs := rfl
@[simp] theorem setDe_badRequests (c : Nat) (x : DeEng) : (s.setDe c x).badRequests = s.badRequests := rfl
@[simp] theorem setDe_cmds (c : Nat) (x : DeEng) : (s.setDe c x).cmds = s.cmds := rfl
@[simp] theorem setDe_nextCmd (c : Nat) (x : DeEng) : (s.setDe c x).nextCmd = s.nextCmd := rfl
@[simp] theorem setDe_ctxs (c : Nat) (x : DeEng) : (s.setDe c x).ctxs = s.ctxs := rfl
@[simp] theorem setDe_parts (c : Nat) (x : DeEng) : (s.setDe c x).parts = s.parts := rfl
@[simp] theorem setDe_mgmt (c : Nat) (x : DeEng) : (s.setDe c x).mgmt = s.mgmt := rfl
@[simp] theorem setDe_sec (c : Nat) (x : DeEng) : (s.setDe c x).sec = s.sec := rfl
@[simp] theorem setDe_rel (c : Nat) (x : DeEng) : (s.setDe c x).rel = s.rel := rfl
@[simp] theorem setDe_bist (c : Nat) (x : DeEng) : (s.setDe c x).bist = s.bist := rfl
@[simp] theorem setDe_meter (c : Nat) (x : DeEng) : (s.setDe c x).meter = s.meter := rfl
@[simp] theorem setDe_mirror (c : Nat) (x : DeEng) : (s.setDe c x).mirror = s.mirror := rfl
@[simp] theorem setDe_watchAlarms (c : Nat) (x : DeEng) : (s.setDe c x).watchAlarms = s.watchAlarms := rfl
@[simp] theorem setDe_watchRate (c : Nat) (x : DeEng) : (s.setDe c x).watchRate = s.watchRate := rfl
@[simp] theorem setDe_watchLate (c : Nat) (x : DeEng) : (s.setDe c x).watchLate = s.watchLate := rfl
@[simp] theorem setDe_shown (c : Nat) (x : DeEng) : (s.setDe c x).shown = s.shown := rfl

/-! ### setObj -/

@[simp] theorem setObj_pending (o : Nat) (x : SyncObj) : (s.setObj o x).pending = s.pending := rfl
@[simp] theorem setObj_free (o : Nat) (x : SyncObj) : (s.setObj o x).free = s.free := rfl
@[simp] theorem setObj_gated (o : Nat) (x : SyncObj) : (s.setObj o x).gated = s.gated := rfl
@[simp] theorem setObj_clockUs (o : Nat) (x : SyncObj) : (s.setObj o x).clockUs = s.clockUs := rfl
@[simp] theorem setObj_outbox (o : Nat) (x : SyncObj) : (s.setObj o x).outbox = s.outbox := rfl
@[simp] theorem setObj_power (o : Nat) (x : SyncObj) : (s.setObj o x).power = s.power := rfl
@[simp] theorem setObj_queues (o : Nat) (x : SyncObj) : (s.setObj o x).queues = s.queues := rfl
@[simp] theorem setObj_mes (o : Nat) (x : SyncObj) : (s.setObj o x).mes = s.mes := rfl
@[simp] theorem setObj_ses (o : Nat) (x : SyncObj) : (s.setObj o x).ses = s.ses := rfl
@[simp] theorem setObj_des (o : Nat) (x : SyncObj) : (s.setObj o x).des = s.des := rfl
@[simp] theorem setObj_tandem (o : Nat) (x : SyncObj) : (s.setObj o x).tandem = s.tandem := rfl
@[simp] theorem setObj_bankFlight (o : Nat) (x : SyncObj) : (s.setObj o x).bankFlight = s.bankFlight := rfl
@[simp] theorem setObj_mem (o : Nat) (x : SyncObj) : (s.setObj o x).mem = s.mem := rfl
@[simp] theorem setObj_fab (o : Nat) (x : SyncObj) : (s.setObj o x).fab = s.fab := rfl
@[simp] theorem setObj_pci (o : Nat) (x : SyncObj) : (s.setObj o x).pci = s.pci := rfl
@[simp] theorem setObj_funcs (o : Nat) (x : SyncObj) : (s.setObj o x).funcs = s.funcs := rfl
@[simp] theorem setObj_msixMinUs (o : Nat) (x : SyncObj) : (s.setObj o x).msixMinUs = s.msixMinUs := rfl
@[simp] theorem setObj_badRequests (o : Nat) (x : SyncObj) : (s.setObj o x).badRequests = s.badRequests := rfl
@[simp] theorem setObj_cmds (o : Nat) (x : SyncObj) : (s.setObj o x).cmds = s.cmds := rfl
@[simp] theorem setObj_nextCmd (o : Nat) (x : SyncObj) : (s.setObj o x).nextCmd = s.nextCmd := rfl
@[simp] theorem setObj_ctxs (o : Nat) (x : SyncObj) : (s.setObj o x).ctxs = s.ctxs := rfl
@[simp] theorem setObj_parts (o : Nat) (x : SyncObj) : (s.setObj o x).parts = s.parts := rfl
@[simp] theorem setObj_mgmt (o : Nat) (x : SyncObj) : (s.setObj o x).mgmt = s.mgmt := rfl
@[simp] theorem setObj_sec (o : Nat) (x : SyncObj) : (s.setObj o x).sec = s.sec := rfl
@[simp] theorem setObj_rel (o : Nat) (x : SyncObj) : (s.setObj o x).rel = s.rel := rfl
@[simp] theorem setObj_bist (o : Nat) (x : SyncObj) : (s.setObj o x).bist = s.bist := rfl
@[simp] theorem setObj_meter (o : Nat) (x : SyncObj) : (s.setObj o x).meter = s.meter := rfl
@[simp] theorem setObj_mirror (o : Nat) (x : SyncObj) : (s.setObj o x).mirror = s.mirror := rfl
@[simp] theorem setObj_watchAlarms (o : Nat) (x : SyncObj) : (s.setObj o x).watchAlarms = s.watchAlarms := rfl
@[simp] theorem setObj_watchRate (o : Nat) (x : SyncObj) : (s.setObj o x).watchRate = s.watchRate := rfl
@[simp] theorem setObj_watchLate (o : Nat) (x : SyncObj) : (s.setObj o x).watchLate = s.watchLate := rfl
@[simp] theorem setObj_shown (o : Nat) (x : SyncObj) : (s.setObj o x).shown = s.shown := rfl

/-! ### setPart -/

@[simp] theorem setPart_pending (p : Nat) (x : Partition) : (s.setPart p x).pending = s.pending := rfl
@[simp] theorem setPart_free (p : Nat) (x : Partition) : (s.setPart p x).free = s.free := rfl
@[simp] theorem setPart_gated (p : Nat) (x : Partition) : (s.setPart p x).gated = s.gated := rfl
@[simp] theorem setPart_clockUs (p : Nat) (x : Partition) : (s.setPart p x).clockUs = s.clockUs := rfl
@[simp] theorem setPart_outbox (p : Nat) (x : Partition) : (s.setPart p x).outbox = s.outbox := rfl
@[simp] theorem setPart_power (p : Nat) (x : Partition) : (s.setPart p x).power = s.power := rfl
@[simp] theorem setPart_queues (p : Nat) (x : Partition) : (s.setPart p x).queues = s.queues := rfl
@[simp] theorem setPart_mes (p : Nat) (x : Partition) : (s.setPart p x).mes = s.mes := rfl
@[simp] theorem setPart_ses (p : Nat) (x : Partition) : (s.setPart p x).ses = s.ses := rfl
@[simp] theorem setPart_des (p : Nat) (x : Partition) : (s.setPart p x).des = s.des := rfl
@[simp] theorem setPart_tandem (p : Nat) (x : Partition) : (s.setPart p x).tandem = s.tandem := rfl
@[simp] theorem setPart_bankFlight (p : Nat) (x : Partition) : (s.setPart p x).bankFlight = s.bankFlight := rfl
@[simp] theorem setPart_sync (p : Nat) (x : Partition) : (s.setPart p x).sync = s.sync := rfl
@[simp] theorem setPart_mem (p : Nat) (x : Partition) : (s.setPart p x).mem = s.mem := rfl
@[simp] theorem setPart_fab (p : Nat) (x : Partition) : (s.setPart p x).fab = s.fab := rfl
@[simp] theorem setPart_pci (p : Nat) (x : Partition) : (s.setPart p x).pci = s.pci := rfl
@[simp] theorem setPart_funcs (p : Nat) (x : Partition) : (s.setPart p x).funcs = s.funcs := rfl
@[simp] theorem setPart_msixMinUs (p : Nat) (x : Partition) : (s.setPart p x).msixMinUs = s.msixMinUs := rfl
@[simp] theorem setPart_badRequests (p : Nat) (x : Partition) : (s.setPart p x).badRequests = s.badRequests := rfl
@[simp] theorem setPart_cmds (p : Nat) (x : Partition) : (s.setPart p x).cmds = s.cmds := rfl
@[simp] theorem setPart_nextCmd (p : Nat) (x : Partition) : (s.setPart p x).nextCmd = s.nextCmd := rfl
@[simp] theorem setPart_ctxs (p : Nat) (x : Partition) : (s.setPart p x).ctxs = s.ctxs := rfl
@[simp] theorem setPart_mgmt (p : Nat) (x : Partition) : (s.setPart p x).mgmt = s.mgmt := rfl
@[simp] theorem setPart_sec (p : Nat) (x : Partition) : (s.setPart p x).sec = s.sec := rfl
@[simp] theorem setPart_rel (p : Nat) (x : Partition) : (s.setPart p x).rel = s.rel := rfl
@[simp] theorem setPart_bist (p : Nat) (x : Partition) : (s.setPart p x).bist = s.bist := rfl
@[simp] theorem setPart_meter (p : Nat) (x : Partition) : (s.setPart p x).meter = s.meter := rfl
@[simp] theorem setPart_mirror (p : Nat) (x : Partition) : (s.setPart p x).mirror = s.mirror := rfl
@[simp] theorem setPart_watchAlarms (p : Nat) (x : Partition) : (s.setPart p x).watchAlarms = s.watchAlarms := rfl
@[simp] theorem setPart_watchRate (p : Nat) (x : Partition) : (s.setPart p x).watchRate = s.watchRate := rfl
@[simp] theorem setPart_watchLate (p : Nat) (x : Partition) : (s.setPart p x).watchLate = s.watchLate := rfl
@[simp] theorem setPart_shown (p : Nat) (x : Partition) : (s.setPart p x).shown = s.shown := rfl

/-! ### setCtx -/

@[simp] theorem setCtx_pending (c : Nat) (x : Ctx) : (s.setCtx c x).pending = s.pending := rfl
@[simp] theorem setCtx_free (c : Nat) (x : Ctx) : (s.setCtx c x).free = s.free := rfl
@[simp] theorem setCtx_gated (c : Nat) (x : Ctx) : (s.setCtx c x).gated = s.gated := rfl
@[simp] theorem setCtx_clockUs (c : Nat) (x : Ctx) : (s.setCtx c x).clockUs = s.clockUs := rfl
@[simp] theorem setCtx_outbox (c : Nat) (x : Ctx) : (s.setCtx c x).outbox = s.outbox := rfl
@[simp] theorem setCtx_power (c : Nat) (x : Ctx) : (s.setCtx c x).power = s.power := rfl
@[simp] theorem setCtx_queues (c : Nat) (x : Ctx) : (s.setCtx c x).queues = s.queues := rfl
@[simp] theorem setCtx_mes (c : Nat) (x : Ctx) : (s.setCtx c x).mes = s.mes := rfl
@[simp] theorem setCtx_ses (c : Nat) (x : Ctx) : (s.setCtx c x).ses = s.ses := rfl
@[simp] theorem setCtx_des (c : Nat) (x : Ctx) : (s.setCtx c x).des = s.des := rfl
@[simp] theorem setCtx_tandem (c : Nat) (x : Ctx) : (s.setCtx c x).tandem = s.tandem := rfl
@[simp] theorem setCtx_bankFlight (c : Nat) (x : Ctx) : (s.setCtx c x).bankFlight = s.bankFlight := rfl
@[simp] theorem setCtx_sync (c : Nat) (x : Ctx) : (s.setCtx c x).sync = s.sync := rfl
@[simp] theorem setCtx_mem (c : Nat) (x : Ctx) : (s.setCtx c x).mem = s.mem := rfl
@[simp] theorem setCtx_fab (c : Nat) (x : Ctx) : (s.setCtx c x).fab = s.fab := rfl
@[simp] theorem setCtx_pci (c : Nat) (x : Ctx) : (s.setCtx c x).pci = s.pci := rfl
@[simp] theorem setCtx_funcs (c : Nat) (x : Ctx) : (s.setCtx c x).funcs = s.funcs := rfl
@[simp] theorem setCtx_msixMinUs (c : Nat) (x : Ctx) : (s.setCtx c x).msixMinUs = s.msixMinUs := rfl
@[simp] theorem setCtx_badRequests (c : Nat) (x : Ctx) : (s.setCtx c x).badRequests = s.badRequests := rfl
@[simp] theorem setCtx_cmds (c : Nat) (x : Ctx) : (s.setCtx c x).cmds = s.cmds := rfl
@[simp] theorem setCtx_nextCmd (c : Nat) (x : Ctx) : (s.setCtx c x).nextCmd = s.nextCmd := rfl
@[simp] theorem setCtx_parts (c : Nat) (x : Ctx) : (s.setCtx c x).parts = s.parts := rfl
@[simp] theorem setCtx_mgmt (c : Nat) (x : Ctx) : (s.setCtx c x).mgmt = s.mgmt := rfl
@[simp] theorem setCtx_sec (c : Nat) (x : Ctx) : (s.setCtx c x).sec = s.sec := rfl
@[simp] theorem setCtx_rel (c : Nat) (x : Ctx) : (s.setCtx c x).rel = s.rel := rfl
@[simp] theorem setCtx_bist (c : Nat) (x : Ctx) : (s.setCtx c x).bist = s.bist := rfl
@[simp] theorem setCtx_meter (c : Nat) (x : Ctx) : (s.setCtx c x).meter = s.meter := rfl
@[simp] theorem setCtx_mirror (c : Nat) (x : Ctx) : (s.setCtx c x).mirror = s.mirror := rfl
@[simp] theorem setCtx_watchAlarms (c : Nat) (x : Ctx) : (s.setCtx c x).watchAlarms = s.watchAlarms := rfl
@[simp] theorem setCtx_watchRate (c : Nat) (x : Ctx) : (s.setCtx c x).watchRate = s.watchRate := rfl
@[simp] theorem setCtx_watchLate (c : Nat) (x : Ctx) : (s.setCtx c x).watchLate = s.watchLate := rfl
@[simp] theorem setCtx_shown (c : Nat) (x : Ctx) : (s.setCtx c x).shown = s.shown := rfl

/-! ### modPort -/

@[simp] theorem modPort_pending (w : Nat) (f : Port → Port) : (s.modPort w f).pending = s.pending := rfl
@[simp] theorem modPort_free (w : Nat) (f : Port → Port) : (s.modPort w f).free = s.free := rfl
@[simp] theorem modPort_gated (w : Nat) (f : Port → Port) : (s.modPort w f).gated = s.gated := rfl
@[simp] theorem modPort_clockUs (w : Nat) (f : Port → Port) : (s.modPort w f).clockUs = s.clockUs := rfl
@[simp] theorem modPort_outbox (w : Nat) (f : Port → Port) : (s.modPort w f).outbox = s.outbox := rfl
@[simp] theorem modPort_power (w : Nat) (f : Port → Port) : (s.modPort w f).power = s.power := rfl
@[simp] theorem modPort_queues (w : Nat) (f : Port → Port) : (s.modPort w f).queues = s.queues := rfl
@[simp] theorem modPort_mes (w : Nat) (f : Port → Port) : (s.modPort w f).mes = s.mes := rfl
@[simp] theorem modPort_ses (w : Nat) (f : Port → Port) : (s.modPort w f).ses = s.ses := rfl
@[simp] theorem modPort_des (w : Nat) (f : Port → Port) : (s.modPort w f).des = s.des := rfl
@[simp] theorem modPort_tandem (w : Nat) (f : Port → Port) : (s.modPort w f).tandem = s.tandem := rfl
@[simp] theorem modPort_bankFlight (w : Nat) (f : Port → Port) : (s.modPort w f).bankFlight = s.bankFlight := rfl
@[simp] theorem modPort_sync (w : Nat) (f : Port → Port) : (s.modPort w f).sync = s.sync := rfl
@[simp] theorem modPort_mem (w : Nat) (f : Port → Port) : (s.modPort w f).mem = s.mem := rfl
@[simp] theorem modPort_pci (w : Nat) (f : Port → Port) : (s.modPort w f).pci = s.pci := rfl
@[simp] theorem modPort_funcs (w : Nat) (f : Port → Port) : (s.modPort w f).funcs = s.funcs := rfl
@[simp] theorem modPort_msixMinUs (w : Nat) (f : Port → Port) : (s.modPort w f).msixMinUs = s.msixMinUs := rfl
@[simp] theorem modPort_badRequests (w : Nat) (f : Port → Port) : (s.modPort w f).badRequests = s.badRequests := rfl
@[simp] theorem modPort_cmds (w : Nat) (f : Port → Port) : (s.modPort w f).cmds = s.cmds := rfl
@[simp] theorem modPort_nextCmd (w : Nat) (f : Port → Port) : (s.modPort w f).nextCmd = s.nextCmd := rfl
@[simp] theorem modPort_ctxs (w : Nat) (f : Port → Port) : (s.modPort w f).ctxs = s.ctxs := rfl
@[simp] theorem modPort_parts (w : Nat) (f : Port → Port) : (s.modPort w f).parts = s.parts := rfl
@[simp] theorem modPort_mgmt (w : Nat) (f : Port → Port) : (s.modPort w f).mgmt = s.mgmt := rfl
@[simp] theorem modPort_sec (w : Nat) (f : Port → Port) : (s.modPort w f).sec = s.sec := rfl
@[simp] theorem modPort_rel (w : Nat) (f : Port → Port) : (s.modPort w f).rel = s.rel := rfl
@[simp] theorem modPort_bist (w : Nat) (f : Port → Port) : (s.modPort w f).bist = s.bist := rfl
@[simp] theorem modPort_meter (w : Nat) (f : Port → Port) : (s.modPort w f).meter = s.meter := rfl
@[simp] theorem modPort_mirror (w : Nat) (f : Port → Port) : (s.modPort w f).mirror = s.mirror := rfl
@[simp] theorem modPort_watchAlarms (w : Nat) (f : Port → Port) : (s.modPort w f).watchAlarms = s.watchAlarms := rfl
@[simp] theorem modPort_watchRate (w : Nat) (f : Port → Port) : (s.modPort w f).watchRate = s.watchRate := rfl
@[simp] theorem modPort_watchLate (w : Nat) (f : Port → Port) : (s.modPort w f).watchLate = s.watchLate := rfl
@[simp] theorem modPort_shown (w : Nat) (f : Port → Port) : (s.modPort w f).shown = s.shown := rfl

/-! ### modSession -/

@[simp] theorem modSession_pending (k : Nat) (f : Session → Session) : (s.modSession k f).pending = s.pending := rfl
@[simp] theorem modSession_free (k : Nat) (f : Session → Session) : (s.modSession k f).free = s.free := rfl
@[simp] theorem modSession_gated (k : Nat) (f : Session → Session) : (s.modSession k f).gated = s.gated := rfl
@[simp] theorem modSession_clockUs (k : Nat) (f : Session → Session) : (s.modSession k f).clockUs = s.clockUs := rfl
@[simp] theorem modSession_outbox (k : Nat) (f : Session → Session) : (s.modSession k f).outbox = s.outbox := rfl
@[simp] theorem modSession_power (k : Nat) (f : Session → Session) : (s.modSession k f).power = s.power := rfl
@[simp] theorem modSession_queues (k : Nat) (f : Session → Session) : (s.modSession k f).queues = s.queues := rfl
@[simp] theorem modSession_mes (k : Nat) (f : Session → Session) : (s.modSession k f).mes = s.mes := rfl
@[simp] theorem modSession_ses (k : Nat) (f : Session → Session) : (s.modSession k f).ses = s.ses := rfl
@[simp] theorem modSession_des (k : Nat) (f : Session → Session) : (s.modSession k f).des = s.des := rfl
@[simp] theorem modSession_tandem (k : Nat) (f : Session → Session) : (s.modSession k f).tandem = s.tandem := rfl
@[simp] theorem modSession_bankFlight (k : Nat) (f : Session → Session) : (s.modSession k f).bankFlight = s.bankFlight := rfl
@[simp] theorem modSession_sync (k : Nat) (f : Session → Session) : (s.modSession k f).sync = s.sync := rfl
@[simp] theorem modSession_mem (k : Nat) (f : Session → Session) : (s.modSession k f).mem = s.mem := rfl
@[simp] theorem modSession_pci (k : Nat) (f : Session → Session) : (s.modSession k f).pci = s.pci := rfl
@[simp] theorem modSession_funcs (k : Nat) (f : Session → Session) : (s.modSession k f).funcs = s.funcs := rfl
@[simp] theorem modSession_msixMinUs (k : Nat) (f : Session → Session) : (s.modSession k f).msixMinUs = s.msixMinUs := rfl
@[simp] theorem modSession_badRequests (k : Nat) (f : Session → Session) : (s.modSession k f).badRequests = s.badRequests := rfl
@[simp] theorem modSession_cmds (k : Nat) (f : Session → Session) : (s.modSession k f).cmds = s.cmds := rfl
@[simp] theorem modSession_nextCmd (k : Nat) (f : Session → Session) : (s.modSession k f).nextCmd = s.nextCmd := rfl
@[simp] theorem modSession_ctxs (k : Nat) (f : Session → Session) : (s.modSession k f).ctxs = s.ctxs := rfl
@[simp] theorem modSession_parts (k : Nat) (f : Session → Session) : (s.modSession k f).parts = s.parts := rfl
@[simp] theorem modSession_mgmt (k : Nat) (f : Session → Session) : (s.modSession k f).mgmt = s.mgmt := rfl
@[simp] theorem modSession_sec (k : Nat) (f : Session → Session) : (s.modSession k f).sec = s.sec := rfl
@[simp] theorem modSession_rel (k : Nat) (f : Session → Session) : (s.modSession k f).rel = s.rel := rfl
@[simp] theorem modSession_bist (k : Nat) (f : Session → Session) : (s.modSession k f).bist = s.bist := rfl
@[simp] theorem modSession_meter (k : Nat) (f : Session → Session) : (s.modSession k f).meter = s.meter := rfl
@[simp] theorem modSession_mirror (k : Nat) (f : Session → Session) : (s.modSession k f).mirror = s.mirror := rfl
@[simp] theorem modSession_watchAlarms (k : Nat) (f : Session → Session) : (s.modSession k f).watchAlarms = s.watchAlarms := rfl
@[simp] theorem modSession_watchRate (k : Nat) (f : Session → Session) : (s.modSession k f).watchRate = s.watchRate := rfl
@[simp] theorem modSession_watchLate (k : Nat) (f : Session → Session) : (s.modSession k f).watchLate = s.watchLate := rfl
@[simp] theorem modSession_shown (k : Nat) (f : Session → Session) : (s.modSession k f).shown = s.shown := rfl

/-! ### modDie -/

@[simp] theorem modDie_pending (d : Nat) (f : DieMem → DieMem) : (s.modDie d f).pending = s.pending := rfl
@[simp] theorem modDie_free (d : Nat) (f : DieMem → DieMem) : (s.modDie d f).free = s.free := rfl
@[simp] theorem modDie_gated (d : Nat) (f : DieMem → DieMem) : (s.modDie d f).gated = s.gated := rfl
@[simp] theorem modDie_clockUs (d : Nat) (f : DieMem → DieMem) : (s.modDie d f).clockUs = s.clockUs := rfl
@[simp] theorem modDie_outbox (d : Nat) (f : DieMem → DieMem) : (s.modDie d f).outbox = s.outbox := rfl
@[simp] theorem modDie_power (d : Nat) (f : DieMem → DieMem) : (s.modDie d f).power = s.power := rfl
@[simp] theorem modDie_queues (d : Nat) (f : DieMem → DieMem) : (s.modDie d f).queues = s.queues := rfl
@[simp] theorem modDie_mes (d : Nat) (f : DieMem → DieMem) : (s.modDie d f).mes = s.mes := rfl
@[simp] theorem modDie_ses (d : Nat) (f : DieMem → DieMem) : (s.modDie d f).ses = s.ses := rfl
@[simp] theorem modDie_des (d : Nat) (f : DieMem → DieMem) : (s.modDie d f).des = s.des := rfl
@[simp] theorem modDie_tandem (d : Nat) (f : DieMem → DieMem) : (s.modDie d f).tandem = s.tandem := rfl
@[simp] theorem modDie_bankFlight (d : Nat) (f : DieMem → DieMem) : (s.modDie d f).bankFlight = s.bankFlight := rfl
@[simp] theorem modDie_sync (d : Nat) (f : DieMem → DieMem) : (s.modDie d f).sync = s.sync := rfl
@[simp] theorem modDie_fab (d : Nat) (f : DieMem → DieMem) : (s.modDie d f).fab = s.fab := rfl
@[simp] theorem modDie_pci (d : Nat) (f : DieMem → DieMem) : (s.modDie d f).pci = s.pci := rfl
@[simp] theorem modDie_funcs (d : Nat) (f : DieMem → DieMem) : (s.modDie d f).funcs = s.funcs := rfl
@[simp] theorem modDie_msixMinUs (d : Nat) (f : DieMem → DieMem) : (s.modDie d f).msixMinUs = s.msixMinUs := rfl
@[simp] theorem modDie_badRequests (d : Nat) (f : DieMem → DieMem) : (s.modDie d f).badRequests = s.badRequests := rfl
@[simp] theorem modDie_cmds (d : Nat) (f : DieMem → DieMem) : (s.modDie d f).cmds = s.cmds := rfl
@[simp] theorem modDie_nextCmd (d : Nat) (f : DieMem → DieMem) : (s.modDie d f).nextCmd = s.nextCmd := rfl
@[simp] theorem modDie_ctxs (d : Nat) (f : DieMem → DieMem) : (s.modDie d f).ctxs = s.ctxs := rfl
@[simp] theorem modDie_parts (d : Nat) (f : DieMem → DieMem) : (s.modDie d f).parts = s.parts := rfl
@[simp] theorem modDie_mgmt (d : Nat) (f : DieMem → DieMem) : (s.modDie d f).mgmt = s.mgmt := rfl
@[simp] theorem modDie_sec (d : Nat) (f : DieMem → DieMem) : (s.modDie d f).sec = s.sec := rfl
@[simp] theorem modDie_rel (d : Nat) (f : DieMem → DieMem) : (s.modDie d f).rel = s.rel := rfl
@[simp] theorem modDie_bist (d : Nat) (f : DieMem → DieMem) : (s.modDie d f).bist = s.bist := rfl
@[simp] theorem modDie_meter (d : Nat) (f : DieMem → DieMem) : (s.modDie d f).meter = s.meter := rfl
@[simp] theorem modDie_mirror (d : Nat) (f : DieMem → DieMem) : (s.modDie d f).mirror = s.mirror := rfl
@[simp] theorem modDie_watchAlarms (d : Nat) (f : DieMem → DieMem) : (s.modDie d f).watchAlarms = s.watchAlarms := rfl
@[simp] theorem modDie_watchRate (d : Nat) (f : DieMem → DieMem) : (s.modDie d f).watchRate = s.watchRate := rfl
@[simp] theorem modDie_watchLate (d : Nat) (f : DieMem → DieMem) : (s.modDie d f).watchLate = s.watchLate := rfl
@[simp] theorem modDie_shown (d : Nat) (f : DieMem → DieMem) : (s.modDie d f).shown = s.shown := rfl

/-! ### modUnit -/

@[simp] theorem modUnit_pending (u : Nat) (f : MemUnit → MemUnit) : (s.modUnit u f).pending = s.pending := rfl
@[simp] theorem modUnit_free (u : Nat) (f : MemUnit → MemUnit) : (s.modUnit u f).free = s.free := rfl
@[simp] theorem modUnit_gated (u : Nat) (f : MemUnit → MemUnit) : (s.modUnit u f).gated = s.gated := rfl
@[simp] theorem modUnit_clockUs (u : Nat) (f : MemUnit → MemUnit) : (s.modUnit u f).clockUs = s.clockUs := rfl
@[simp] theorem modUnit_outbox (u : Nat) (f : MemUnit → MemUnit) : (s.modUnit u f).outbox = s.outbox := rfl
@[simp] theorem modUnit_power (u : Nat) (f : MemUnit → MemUnit) : (s.modUnit u f).power = s.power := rfl
@[simp] theorem modUnit_queues (u : Nat) (f : MemUnit → MemUnit) : (s.modUnit u f).queues = s.queues := rfl
@[simp] theorem modUnit_mes (u : Nat) (f : MemUnit → MemUnit) : (s.modUnit u f).mes = s.mes := rfl
@[simp] theorem modUnit_ses (u : Nat) (f : MemUnit → MemUnit) : (s.modUnit u f).ses = s.ses := rfl
@[simp] theorem modUnit_des (u : Nat) (f : MemUnit → MemUnit) : (s.modUnit u f).des = s.des := rfl
@[simp] theorem modUnit_tandem (u : Nat) (f : MemUnit → MemUnit) : (s.modUnit u f).tandem = s.tandem := rfl
@[simp] theorem modUnit_bankFlight (u : Nat) (f : MemUnit → MemUnit) : (s.modUnit u f).bankFlight = s.bankFlight := rfl
@[simp] theorem modUnit_sync (u : Nat) (f : MemUnit → MemUnit) : (s.modUnit u f).sync = s.sync := rfl
@[simp] theorem modUnit_fab (u : Nat) (f : MemUnit → MemUnit) : (s.modUnit u f).fab = s.fab := rfl
@[simp] theorem modUnit_pci (u : Nat) (f : MemUnit → MemUnit) : (s.modUnit u f).pci = s.pci := rfl
@[simp] theorem modUnit_funcs (u : Nat) (f : MemUnit → MemUnit) : (s.modUnit u f).funcs = s.funcs := rfl
@[simp] theorem modUnit_msixMinUs (u : Nat) (f : MemUnit → MemUnit) : (s.modUnit u f).msixMinUs = s.msixMinUs := rfl
@[simp] theorem modUnit_badRequests (u : Nat) (f : MemUnit → MemUnit) : (s.modUnit u f).badRequests = s.badRequests := rfl
@[simp] theorem modUnit_cmds (u : Nat) (f : MemUnit → MemUnit) : (s.modUnit u f).cmds = s.cmds := rfl
@[simp] theorem modUnit_nextCmd (u : Nat) (f : MemUnit → MemUnit) : (s.modUnit u f).nextCmd = s.nextCmd := rfl
@[simp] theorem modUnit_ctxs (u : Nat) (f : MemUnit → MemUnit) : (s.modUnit u f).ctxs = s.ctxs := rfl
@[simp] theorem modUnit_parts (u : Nat) (f : MemUnit → MemUnit) : (s.modUnit u f).parts = s.parts := rfl
@[simp] theorem modUnit_mgmt (u : Nat) (f : MemUnit → MemUnit) : (s.modUnit u f).mgmt = s.mgmt := rfl
@[simp] theorem modUnit_sec (u : Nat) (f : MemUnit → MemUnit) : (s.modUnit u f).sec = s.sec := rfl
@[simp] theorem modUnit_rel (u : Nat) (f : MemUnit → MemUnit) : (s.modUnit u f).rel = s.rel := rfl
@[simp] theorem modUnit_bist (u : Nat) (f : MemUnit → MemUnit) : (s.modUnit u f).bist = s.bist := rfl
@[simp] theorem modUnit_meter (u : Nat) (f : MemUnit → MemUnit) : (s.modUnit u f).meter = s.meter := rfl
@[simp] theorem modUnit_mirror (u : Nat) (f : MemUnit → MemUnit) : (s.modUnit u f).mirror = s.mirror := rfl
@[simp] theorem modUnit_watchAlarms (u : Nat) (f : MemUnit → MemUnit) : (s.modUnit u f).watchAlarms = s.watchAlarms := rfl
@[simp] theorem modUnit_watchRate (u : Nat) (f : MemUnit → MemUnit) : (s.modUnit u f).watchRate = s.watchRate := rfl
@[simp] theorem modUnit_watchLate (u : Nat) (f : MemUnit → MemUnit) : (s.modUnit u f).watchLate = s.watchLate := rfl
@[simp] theorem modUnit_shown (u : Nat) (f : MemUnit → MemUnit) : (s.modUnit u f).shown = s.shown := rfl

/-! ### modFunc -/

@[simp] theorem modFunc_pending (h i : Nat) (f : Func → Func) : (s.modFunc h i f).pending = s.pending := rfl
@[simp] theorem modFunc_free (h i : Nat) (f : Func → Func) : (s.modFunc h i f).free = s.free := rfl
@[simp] theorem modFunc_gated (h i : Nat) (f : Func → Func) : (s.modFunc h i f).gated = s.gated := rfl
@[simp] theorem modFunc_clockUs (h i : Nat) (f : Func → Func) : (s.modFunc h i f).clockUs = s.clockUs := rfl
@[simp] theorem modFunc_outbox (h i : Nat) (f : Func → Func) : (s.modFunc h i f).outbox = s.outbox := rfl
@[simp] theorem modFunc_power (h i : Nat) (f : Func → Func) : (s.modFunc h i f).power = s.power := rfl
@[simp] theorem modFunc_queues (h i : Nat) (f : Func → Func) : (s.modFunc h i f).queues = s.queues := rfl
@[simp] theorem modFunc_mes (h i : Nat) (f : Func → Func) : (s.modFunc h i f).mes = s.mes := rfl
@[simp] theorem modFunc_ses (h i : Nat) (f : Func → Func) : (s.modFunc h i f).ses = s.ses := rfl
@[simp] theorem modFunc_des (h i : Nat) (f : Func → Func) : (s.modFunc h i f).des = s.des := rfl
@[simp] theorem modFunc_tandem (h i : Nat) (f : Func → Func) : (s.modFunc h i f).tandem = s.tandem := rfl
@[simp] theorem modFunc_bankFlight (h i : Nat) (f : Func → Func) : (s.modFunc h i f).bankFlight = s.bankFlight := rfl
@[simp] theorem modFunc_sync (h i : Nat) (f : Func → Func) : (s.modFunc h i f).sync = s.sync := rfl
@[simp] theorem modFunc_mem (h i : Nat) (f : Func → Func) : (s.modFunc h i f).mem = s.mem := rfl
@[simp] theorem modFunc_fab (h i : Nat) (f : Func → Func) : (s.modFunc h i f).fab = s.fab := rfl
@[simp] theorem modFunc_pci (h i : Nat) (f : Func → Func) : (s.modFunc h i f).pci = s.pci := rfl
@[simp] theorem modFunc_msixMinUs (h i : Nat) (f : Func → Func) : (s.modFunc h i f).msixMinUs = s.msixMinUs := rfl
@[simp] theorem modFunc_badRequests (h i : Nat) (f : Func → Func) : (s.modFunc h i f).badRequests = s.badRequests := rfl
@[simp] theorem modFunc_cmds (h i : Nat) (f : Func → Func) : (s.modFunc h i f).cmds = s.cmds := rfl
@[simp] theorem modFunc_nextCmd (h i : Nat) (f : Func → Func) : (s.modFunc h i f).nextCmd = s.nextCmd := rfl
@[simp] theorem modFunc_ctxs (h i : Nat) (f : Func → Func) : (s.modFunc h i f).ctxs = s.ctxs := rfl
@[simp] theorem modFunc_parts (h i : Nat) (f : Func → Func) : (s.modFunc h i f).parts = s.parts := rfl
@[simp] theorem modFunc_mgmt (h i : Nat) (f : Func → Func) : (s.modFunc h i f).mgmt = s.mgmt := rfl
@[simp] theorem modFunc_sec (h i : Nat) (f : Func → Func) : (s.modFunc h i f).sec = s.sec := rfl
@[simp] theorem modFunc_rel (h i : Nat) (f : Func → Func) : (s.modFunc h i f).rel = s.rel := rfl
@[simp] theorem modFunc_bist (h i : Nat) (f : Func → Func) : (s.modFunc h i f).bist = s.bist := rfl
@[simp] theorem modFunc_meter (h i : Nat) (f : Func → Func) : (s.modFunc h i f).meter = s.meter := rfl
@[simp] theorem modFunc_mirror (h i : Nat) (f : Func → Func) : (s.modFunc h i f).mirror = s.mirror := rfl
@[simp] theorem modFunc_watchAlarms (h i : Nat) (f : Func → Func) : (s.modFunc h i f).watchAlarms = s.watchAlarms := rfl
@[simp] theorem modFunc_watchRate (h i : Nat) (f : Func → Func) : (s.modFunc h i f).watchRate = s.watchRate := rfl
@[simp] theorem modFunc_watchLate (h i : Nat) (f : Func → Func) : (s.modFunc h i f).watchLate = s.watchLate := rfl
@[simp] theorem modFunc_shown (h i : Nat) (f : Func → Func) : (s.modFunc h i f).shown = s.shown := rfl

/-! ### modPci -/

@[simp] theorem modPci_pending (h : Nat) (f : PciPort → PciPort) : (s.modPci h f).pending = s.pending := rfl
@[simp] theorem modPci_free (h : Nat) (f : PciPort → PciPort) : (s.modPci h f).free = s.free := rfl
@[simp] theorem modPci_gated (h : Nat) (f : PciPort → PciPort) : (s.modPci h f).gated = s.gated := rfl
@[simp] theorem modPci_clockUs (h : Nat) (f : PciPort → PciPort) : (s.modPci h f).clockUs = s.clockUs := rfl
@[simp] theorem modPci_outbox (h : Nat) (f : PciPort → PciPort) : (s.modPci h f).outbox = s.outbox := rfl
@[simp] theorem modPci_power (h : Nat) (f : PciPort → PciPort) : (s.modPci h f).power = s.power := rfl
@[simp] theorem modPci_queues (h : Nat) (f : PciPort → PciPort) : (s.modPci h f).queues = s.queues := rfl
@[simp] theorem modPci_mes (h : Nat) (f : PciPort → PciPort) : (s.modPci h f).mes = s.mes := rfl
@[simp] theorem modPci_ses (h : Nat) (f : PciPort → PciPort) : (s.modPci h f).ses = s.ses := rfl
@[simp] theorem modPci_des (h : Nat) (f : PciPort → PciPort) : (s.modPci h f).des = s.des := rfl
@[simp] theorem modPci_tandem (h : Nat) (f : PciPort → PciPort) : (s.modPci h f).tandem = s.tandem := rfl
@[simp] theorem modPci_bankFlight (h : Nat) (f : PciPort → PciPort) : (s.modPci h f).bankFlight = s.bankFlight := rfl
@[simp] theorem modPci_sync (h : Nat) (f : PciPort → PciPort) : (s.modPci h f).sync = s.sync := rfl
@[simp] theorem modPci_mem (h : Nat) (f : PciPort → PciPort) : (s.modPci h f).mem = s.mem := rfl
@[simp] theorem modPci_fab (h : Nat) (f : PciPort → PciPort) : (s.modPci h f).fab = s.fab := rfl
@[simp] theorem modPci_funcs (h : Nat) (f : PciPort → PciPort) : (s.modPci h f).funcs = s.funcs := rfl
@[simp] theorem modPci_msixMinUs (h : Nat) (f : PciPort → PciPort) : (s.modPci h f).msixMinUs = s.msixMinUs := rfl
@[simp] theorem modPci_badRequests (h : Nat) (f : PciPort → PciPort) : (s.modPci h f).badRequests = s.badRequests := rfl
@[simp] theorem modPci_cmds (h : Nat) (f : PciPort → PciPort) : (s.modPci h f).cmds = s.cmds := rfl
@[simp] theorem modPci_nextCmd (h : Nat) (f : PciPort → PciPort) : (s.modPci h f).nextCmd = s.nextCmd := rfl
@[simp] theorem modPci_ctxs (h : Nat) (f : PciPort → PciPort) : (s.modPci h f).ctxs = s.ctxs := rfl
@[simp] theorem modPci_parts (h : Nat) (f : PciPort → PciPort) : (s.modPci h f).parts = s.parts := rfl
@[simp] theorem modPci_mgmt (h : Nat) (f : PciPort → PciPort) : (s.modPci h f).mgmt = s.mgmt := rfl
@[simp] theorem modPci_sec (h : Nat) (f : PciPort → PciPort) : (s.modPci h f).sec = s.sec := rfl
@[simp] theorem modPci_rel (h : Nat) (f : PciPort → PciPort) : (s.modPci h f).rel = s.rel := rfl
@[simp] theorem modPci_bist (h : Nat) (f : PciPort → PciPort) : (s.modPci h f).bist = s.bist := rfl
@[simp] theorem modPci_meter (h : Nat) (f : PciPort → PciPort) : (s.modPci h f).meter = s.meter := rfl
@[simp] theorem modPci_mirror (h : Nat) (f : PciPort → PciPort) : (s.modPci h f).mirror = s.mirror := rfl
@[simp] theorem modPci_watchAlarms (h : Nat) (f : PciPort → PciPort) : (s.modPci h f).watchAlarms = s.watchAlarms := rfl
@[simp] theorem modPci_watchRate (h : Nat) (f : PciPort → PciPort) : (s.modPci h f).watchRate = s.watchRate := rfl
@[simp] theorem modPci_watchLate (h : Nat) (f : PciPort → PciPort) : (s.modPci h f).watchLate = s.watchLate := rfl
@[simp] theorem modPci_shown (h : Nat) (f : PciPort → PciPort) : (s.modPci h f).shown = s.shown := rfl

/-! ### modCluster -/

@[simp] theorem modCluster_pending (k : Nat) (f : ClusterSt → ClusterSt) : (s.modCluster k f).pending = s.pending := rfl
@[simp] theorem modCluster_free (k : Nat) (f : ClusterSt → ClusterSt) : (s.modCluster k f).free = s.free := rfl
@[simp] theorem modCluster_gated (k : Nat) (f : ClusterSt → ClusterSt) : (s.modCluster k f).gated = s.gated := rfl
@[simp] theorem modCluster_clockUs (k : Nat) (f : ClusterSt → ClusterSt) : (s.modCluster k f).clockUs = s.clockUs := rfl
@[simp] theorem modCluster_outbox (k : Nat) (f : ClusterSt → ClusterSt) : (s.modCluster k f).outbox = s.outbox := rfl
@[simp] theorem modCluster_queues (k : Nat) (f : ClusterSt → ClusterSt) : (s.modCluster k f).queues = s.queues := rfl
@[simp] theorem modCluster_mes (k : Nat) (f : ClusterSt → ClusterSt) : (s.modCluster k f).mes = s.mes := rfl
@[simp] theorem modCluster_ses (k : Nat) (f : ClusterSt → ClusterSt) : (s.modCluster k f).ses = s.ses := rfl
@[simp] theorem modCluster_des (k : Nat) (f : ClusterSt → ClusterSt) : (s.modCluster k f).des = s.des := rfl
@[simp] theorem modCluster_tandem (k : Nat) (f : ClusterSt → ClusterSt) : (s.modCluster k f).tandem = s.tandem := rfl
@[simp] theorem modCluster_bankFlight (k : Nat) (f : ClusterSt → ClusterSt) : (s.modCluster k f).bankFlight = s.bankFlight := rfl
@[simp] theorem modCluster_sync (k : Nat) (f : ClusterSt → ClusterSt) : (s.modCluster k f).sync = s.sync := rfl
@[simp] theorem modCluster_mem (k : Nat) (f : ClusterSt → ClusterSt) : (s.modCluster k f).mem = s.mem := rfl
@[simp] theorem modCluster_fab (k : Nat) (f : ClusterSt → ClusterSt) : (s.modCluster k f).fab = s.fab := rfl
@[simp] theorem modCluster_pci (k : Nat) (f : ClusterSt → ClusterSt) : (s.modCluster k f).pci = s.pci := rfl
@[simp] theorem modCluster_funcs (k : Nat) (f : ClusterSt → ClusterSt) : (s.modCluster k f).funcs = s.funcs := rfl
@[simp] theorem modCluster_msixMinUs (k : Nat) (f : ClusterSt → ClusterSt) : (s.modCluster k f).msixMinUs = s.msixMinUs := rfl
@[simp] theorem modCluster_badRequests (k : Nat) (f : ClusterSt → ClusterSt) : (s.modCluster k f).badRequests = s.badRequests := rfl
@[simp] theorem modCluster_cmds (k : Nat) (f : ClusterSt → ClusterSt) : (s.modCluster k f).cmds = s.cmds := rfl
@[simp] theorem modCluster_nextCmd (k : Nat) (f : ClusterSt → ClusterSt) : (s.modCluster k f).nextCmd = s.nextCmd := rfl
@[simp] theorem modCluster_ctxs (k : Nat) (f : ClusterSt → ClusterSt) : (s.modCluster k f).ctxs = s.ctxs := rfl
@[simp] theorem modCluster_parts (k : Nat) (f : ClusterSt → ClusterSt) : (s.modCluster k f).parts = s.parts := rfl
@[simp] theorem modCluster_mgmt (k : Nat) (f : ClusterSt → ClusterSt) : (s.modCluster k f).mgmt = s.mgmt := rfl
@[simp] theorem modCluster_sec (k : Nat) (f : ClusterSt → ClusterSt) : (s.modCluster k f).sec = s.sec := rfl
@[simp] theorem modCluster_rel (k : Nat) (f : ClusterSt → ClusterSt) : (s.modCluster k f).rel = s.rel := rfl
@[simp] theorem modCluster_bist (k : Nat) (f : ClusterSt → ClusterSt) : (s.modCluster k f).bist = s.bist := rfl
@[simp] theorem modCluster_meter (k : Nat) (f : ClusterSt → ClusterSt) : (s.modCluster k f).meter = s.meter := rfl
@[simp] theorem modCluster_mirror (k : Nat) (f : ClusterSt → ClusterSt) : (s.modCluster k f).mirror = s.mirror := rfl
@[simp] theorem modCluster_watchAlarms (k : Nat) (f : ClusterSt → ClusterSt) : (s.modCluster k f).watchAlarms = s.watchAlarms := rfl
@[simp] theorem modCluster_watchRate (k : Nat) (f : ClusterSt → ClusterSt) : (s.modCluster k f).watchRate = s.watchRate := rfl
@[simp] theorem modCluster_watchLate (k : Nat) (f : ClusterSt → ClusterSt) : (s.modCluster k f).watchLate = s.watchLate := rfl
@[simp] theorem modCluster_shown (k : Nat) (f : ClusterSt → ClusterSt) : (s.modCluster k f).shown = s.shown := rfl

/-! ### out -/

@[simp] theorem out_pending (o : Out) : (s.out o).pending = s.pending := rfl
@[simp] theorem out_free (o : Out) : (s.out o).free = s.free := rfl
@[simp] theorem out_gated (o : Out) : (s.out o).gated = s.gated := rfl
@[simp] theorem out_clockUs (o : Out) : (s.out o).clockUs = s.clockUs := rfl
@[simp] theorem out_power (o : Out) : (s.out o).power = s.power := rfl
@[simp] theorem out_queues (o : Out) : (s.out o).queues = s.queues := rfl
@[simp] theorem out_mes (o : Out) : (s.out o).mes = s.mes := rfl
@[simp] theorem out_ses (o : Out) : (s.out o).ses = s.ses := rfl
@[simp] theorem out_des (o : Out) : (s.out o).des = s.des := rfl
@[simp] theorem out_tandem (o : Out) : (s.out o).tandem = s.tandem := rfl
@[simp] theorem out_bankFlight (o : Out) : (s.out o).bankFlight = s.bankFlight := rfl
@[simp] theorem out_sync (o : Out) : (s.out o).sync = s.sync := rfl
@[simp] theorem out_mem (o : Out) : (s.out o).mem = s.mem := rfl
@[simp] theorem out_fab (o : Out) : (s.out o).fab = s.fab := rfl
@[simp] theorem out_pci (o : Out) : (s.out o).pci = s.pci := rfl
@[simp] theorem out_funcs (o : Out) : (s.out o).funcs = s.funcs := rfl
@[simp] theorem out_msixMinUs (o : Out) : (s.out o).msixMinUs = s.msixMinUs := rfl
@[simp] theorem out_badRequests (o : Out) : (s.out o).badRequests = s.badRequests := rfl
@[simp] theorem out_cmds (o : Out) : (s.out o).cmds = s.cmds := rfl
@[simp] theorem out_nextCmd (o : Out) : (s.out o).nextCmd = s.nextCmd := rfl
@[simp] theorem out_ctxs (o : Out) : (s.out o).ctxs = s.ctxs := rfl
@[simp] theorem out_parts (o : Out) : (s.out o).parts = s.parts := rfl
@[simp] theorem out_mgmt (o : Out) : (s.out o).mgmt = s.mgmt := rfl
@[simp] theorem out_sec (o : Out) : (s.out o).sec = s.sec := rfl
@[simp] theorem out_rel (o : Out) : (s.out o).rel = s.rel := rfl
@[simp] theorem out_bist (o : Out) : (s.out o).bist = s.bist := rfl
@[simp] theorem out_meter (o : Out) : (s.out o).meter = s.meter := rfl
@[simp] theorem out_mirror (o : Out) : (s.out o).mirror = s.mirror := rfl
@[simp] theorem out_watchAlarms (o : Out) : (s.out o).watchAlarms = s.watchAlarms := rfl
@[simp] theorem out_watchRate (o : Out) : (s.out o).watchRate = s.watchRate := rfl
@[simp] theorem out_watchLate (o : Out) : (s.out o).watchLate = s.watchLate := rfl
@[simp] theorem out_shown (o : Out) : (s.out o).shown = s.shown := rfl

/-! ### clearRange -/

@[simp] theorem clearRange_pending (a n : Nat) : (s.clearRange a n).pending = s.pending := rfl
@[simp] theorem clearRange_free (a n : Nat) : (s.clearRange a n).free = s.free := rfl
@[simp] theorem clearRange_gated (a n : Nat) : (s.clearRange a n).gated = s.gated := rfl
@[simp] theorem clearRange_clockUs (a n : Nat) : (s.clearRange a n).clockUs = s.clockUs := rfl
@[simp] theorem clearRange_outbox (a n : Nat) : (s.clearRange a n).outbox = s.outbox := rfl
@[simp] theorem clearRange_power (a n : Nat) : (s.clearRange a n).power = s.power := rfl
@[simp] theorem clearRange_queues (a n : Nat) : (s.clearRange a n).queues = s.queues := rfl
@[simp] theorem clearRange_mes (a n : Nat) : (s.clearRange a n).mes = s.mes := rfl
@[simp] theorem clearRange_ses (a n : Nat) : (s.clearRange a n).ses = s.ses := rfl
@[simp] theorem clearRange_des (a n : Nat) : (s.clearRange a n).des = s.des := rfl
@[simp] theorem clearRange_tandem (a n : Nat) : (s.clearRange a n).tandem = s.tandem := rfl
@[simp] theorem clearRange_bankFlight (a n : Nat) : (s.clearRange a n).bankFlight = s.bankFlight := rfl
@[simp] theorem clearRange_sync (a n : Nat) : (s.clearRange a n).sync = s.sync := rfl
@[simp] theorem clearRange_fab (a n : Nat) : (s.clearRange a n).fab = s.fab := rfl
@[simp] theorem clearRange_pci (a n : Nat) : (s.clearRange a n).pci = s.pci := rfl
@[simp] theorem clearRange_funcs (a n : Nat) : (s.clearRange a n).funcs = s.funcs := rfl
@[simp] theorem clearRange_msixMinUs (a n : Nat) : (s.clearRange a n).msixMinUs = s.msixMinUs := rfl
@[simp] theorem clearRange_badRequests (a n : Nat) : (s.clearRange a n).badRequests = s.badRequests := rfl
@[simp] theorem clearRange_cmds (a n : Nat) : (s.clearRange a n).cmds = s.cmds := rfl
@[simp] theorem clearRange_nextCmd (a n : Nat) : (s.clearRange a n).nextCmd = s.nextCmd := rfl
@[simp] theorem clearRange_ctxs (a n : Nat) : (s.clearRange a n).ctxs = s.ctxs := rfl
@[simp] theorem clearRange_parts (a n : Nat) : (s.clearRange a n).parts = s.parts := rfl
@[simp] theorem clearRange_mgmt (a n : Nat) : (s.clearRange a n).mgmt = s.mgmt := rfl
@[simp] theorem clearRange_sec (a n : Nat) : (s.clearRange a n).sec = s.sec := rfl
@[simp] theorem clearRange_rel (a n : Nat) : (s.clearRange a n).rel = s.rel := rfl
@[simp] theorem clearRange_bist (a n : Nat) : (s.clearRange a n).bist = s.bist := rfl
@[simp] theorem clearRange_meter (a n : Nat) : (s.clearRange a n).meter = s.meter := rfl
@[simp] theorem clearRange_mirror (a n : Nat) : (s.clearRange a n).mirror = s.mirror := rfl
@[simp] theorem clearRange_watchAlarms (a n : Nat) : (s.clearRange a n).watchAlarms = s.watchAlarms := rfl
@[simp] theorem clearRange_watchRate (a n : Nat) : (s.clearRange a n).watchRate = s.watchRate := rfl
@[simp] theorem clearRange_watchLate (a n : Nat) : (s.clearRange a n).watchLate = s.watchLate := rfl
@[simp] theorem clearRange_shown (a n : Nat) : (s.clearRange a n).shown = s.shown := rfl

/-! ### heal -/

@[simp] theorem heal_pending (l : List Nat) : (s.heal l).pending = s.pending := rfl
@[simp] theorem heal_free (l : List Nat) : (s.heal l).free = s.free := rfl
@[simp] theorem heal_gated (l : List Nat) : (s.heal l).gated = s.gated := rfl
@[simp] theorem heal_clockUs (l : List Nat) : (s.heal l).clockUs = s.clockUs := rfl
@[simp] theorem heal_outbox (l : List Nat) : (s.heal l).outbox = s.outbox := rfl
@[simp] theorem heal_power (l : List Nat) : (s.heal l).power = s.power := rfl
@[simp] theorem heal_queues (l : List Nat) : (s.heal l).queues = s.queues := rfl
@[simp] theorem heal_mes (l : List Nat) : (s.heal l).mes = s.mes := rfl
@[simp] theorem heal_ses (l : List Nat) : (s.heal l).ses = s.ses := rfl
@[simp] theorem heal_des (l : List Nat) : (s.heal l).des = s.des := rfl
@[simp] theorem heal_tandem (l : List Nat) : (s.heal l).tandem = s.tandem := rfl
@[simp] theorem heal_bankFlight (l : List Nat) : (s.heal l).bankFlight = s.bankFlight := rfl
@[simp] theorem heal_sync (l : List Nat) : (s.heal l).sync = s.sync := rfl
@[simp] theorem heal_fab (l : List Nat) : (s.heal l).fab = s.fab := rfl
@[simp] theorem heal_pci (l : List Nat) : (s.heal l).pci = s.pci := rfl
@[simp] theorem heal_funcs (l : List Nat) : (s.heal l).funcs = s.funcs := rfl
@[simp] theorem heal_msixMinUs (l : List Nat) : (s.heal l).msixMinUs = s.msixMinUs := rfl
@[simp] theorem heal_badRequests (l : List Nat) : (s.heal l).badRequests = s.badRequests := rfl
@[simp] theorem heal_cmds (l : List Nat) : (s.heal l).cmds = s.cmds := rfl
@[simp] theorem heal_nextCmd (l : List Nat) : (s.heal l).nextCmd = s.nextCmd := rfl
@[simp] theorem heal_ctxs (l : List Nat) : (s.heal l).ctxs = s.ctxs := rfl
@[simp] theorem heal_parts (l : List Nat) : (s.heal l).parts = s.parts := rfl
@[simp] theorem heal_mgmt (l : List Nat) : (s.heal l).mgmt = s.mgmt := rfl
@[simp] theorem heal_sec (l : List Nat) : (s.heal l).sec = s.sec := rfl
@[simp] theorem heal_rel (l : List Nat) : (s.heal l).rel = s.rel := rfl
@[simp] theorem heal_bist (l : List Nat) : (s.heal l).bist = s.bist := rfl
@[simp] theorem heal_meter (l : List Nat) : (s.heal l).meter = s.meter := rfl
@[simp] theorem heal_mirror (l : List Nat) : (s.heal l).mirror = s.mirror := rfl
@[simp] theorem heal_watchAlarms (l : List Nat) : (s.heal l).watchAlarms = s.watchAlarms := rfl
@[simp] theorem heal_watchRate (l : List Nat) : (s.heal l).watchRate = s.watchRate := rfl
@[simp] theorem heal_watchLate (l : List Nat) : (s.heal l).watchLate = s.watchLate := rfl
@[simp] theorem heal_shown (l : List Nat) : (s.heal l).shown = s.shown := rfl

/-! ### settle -/

@[simp] theorem settle_pending : (s.settle).pending = s.pending := rfl
@[simp] theorem settle_free : (s.settle).free = s.free := rfl
@[simp] theorem settle_clockUs : (s.settle).clockUs = s.clockUs := rfl
@[simp] theorem settle_power : (s.settle).power = s.power := rfl
@[simp] theorem settle_queues : (s.settle).queues = s.queues := rfl
@[simp] theorem settle_mes : (s.settle).mes = s.mes := rfl
@[simp] theorem settle_ses : (s.settle).ses = s.ses := rfl
@[simp] theorem settle_des : (s.settle).des = s.des := rfl
@[simp] theorem settle_tandem : (s.settle).tandem = s.tandem := rfl
@[simp] theorem settle_bankFlight : (s.settle).bankFlight = s.bankFlight := rfl
@[simp] theorem settle_sync : (s.settle).sync = s.sync := rfl
@[simp] theorem settle_mem : (s.settle).mem = s.mem := rfl
@[simp] theorem settle_fab : (s.settle).fab = s.fab := rfl
@[simp] theorem settle_pci : (s.settle).pci = s.pci := rfl
@[simp] theorem settle_funcs : (s.settle).funcs = s.funcs := rfl
@[simp] theorem settle_msixMinUs : (s.settle).msixMinUs = s.msixMinUs := rfl
@[simp] theorem settle_badRequests : (s.settle).badRequests = s.badRequests := rfl
@[simp] theorem settle_nextCmd : (s.settle).nextCmd = s.nextCmd := rfl
@[simp] theorem settle_ctxs : (s.settle).ctxs = s.ctxs := rfl
@[simp] theorem settle_sec : (s.settle).sec = s.sec := rfl
@[simp] theorem settle_rel : (s.settle).rel = s.rel := rfl
@[simp] theorem settle_bist : (s.settle).bist = s.bist := rfl
@[simp] theorem settle_meter : (s.settle).meter = s.meter := rfl
@[simp] theorem settle_mirror : (s.settle).mirror = s.mirror := rfl
@[simp] theorem settle_watchAlarms : (s.settle).watchAlarms = s.watchAlarms := rfl
@[simp] theorem settle_watchRate : (s.settle).watchRate = s.watchRate := rfl
@[simp] theorem settle_watchLate : (s.settle).watchLate = s.watchLate := rfl
@[simp] theorem settle_shown : (s.settle).shown = s.shown := rfl

/-! ### keepSeq -/

@[simp] theorem keepSeq_pending : (s.keepSeq t).pending = t.pending := rfl
@[simp] theorem keepSeq_free : (s.keepSeq t).free = t.free := rfl
@[simp] theorem keepSeq_gated : (s.keepSeq t).gated = t.gated := rfl
@[simp] theorem keepSeq_clockUs : (s.keepSeq t).clockUs = t.clockUs := rfl
@[simp] theorem keepSeq_outbox : (s.keepSeq t).outbox = t.outbox := rfl
@[simp] theorem keepSeq_power : (s.keepSeq t).power = s.power := rfl
@[simp] theorem keepSeq_queues : (s.keepSeq t).queues = t.queues := rfl
@[simp] theorem keepSeq_mes : (s.keepSeq t).mes = t.mes := rfl
@[simp] theorem keepSeq_ses : (s.keepSeq t).ses = t.ses := rfl
@[simp] theorem keepSeq_des : (s.keepSeq t).des = t.des := rfl
@[simp] theorem keepSeq_tandem : (s.keepSeq t).tandem = t.tandem := rfl
@[simp] theorem keepSeq_bankFlight : (s.keepSeq t).bankFlight = t.bankFlight := rfl
@[simp] theorem keepSeq_sync : (s.keepSeq t).sync = t.sync := rfl
@[simp] theorem keepSeq_mem : (s.keepSeq t).mem = t.mem := rfl
@[simp] theorem keepSeq_fab : (s.keepSeq t).fab = t.fab := rfl
@[simp] theorem keepSeq_pci : (s.keepSeq t).pci = t.pci := rfl
@[simp] theorem keepSeq_funcs : (s.keepSeq t).funcs = t.funcs := rfl
@[simp] theorem keepSeq_msixMinUs : (s.keepSeq t).msixMinUs = t.msixMinUs := rfl
@[simp] theorem keepSeq_badRequests : (s.keepSeq t).badRequests = t.badRequests := rfl
@[simp] theorem keepSeq_cmds : (s.keepSeq t).cmds = t.cmds := rfl
@[simp] theorem keepSeq_nextCmd : (s.keepSeq t).nextCmd = t.nextCmd := rfl
@[simp] theorem keepSeq_ctxs : (s.keepSeq t).ctxs = t.ctxs := rfl
@[simp] theorem keepSeq_parts : (s.keepSeq t).parts = t.parts := rfl
@[simp] theorem keepSeq_mgmt : (s.keepSeq t).mgmt = t.mgmt := rfl
@[simp] theorem keepSeq_sec : (s.keepSeq t).sec = s.sec := rfl
@[simp] theorem keepSeq_rel : (s.keepSeq t).rel = t.rel := rfl
@[simp] theorem keepSeq_bist : (s.keepSeq t).bist = s.bist := rfl
@[simp] theorem keepSeq_meter : (s.keepSeq t).meter = s.meter := rfl
@[simp] theorem keepSeq_mirror : (s.keepSeq t).mirror = s.mirror := rfl
@[simp] theorem keepSeq_watchAlarms : (s.keepSeq t).watchAlarms = t.watchAlarms := rfl
@[simp] theorem keepSeq_watchRate : (s.keepSeq t).watchRate = t.watchRate := rfl
@[simp] theorem keepSeq_watchLate : (s.keepSeq t).watchLate = t.watchLate := rfl
@[simp] theorem keepSeq_shown : (s.keepSeq t).shown = t.shown := rfl

/-! ### keepCore -/

@[simp] theorem keepCore_pending : (s.keepCore t).pending = s.pending := rfl
@[simp] theorem keepCore_free : (s.keepCore t).free = t.free := rfl
@[simp] theorem keepCore_gated : (s.keepCore t).gated = t.gated := rfl
@[simp] theorem keepCore_clockUs : (s.keepCore t).clockUs = s.clockUs := rfl
@[simp] theorem keepCore_outbox : (s.keepCore t).outbox = t.outbox := rfl
@[simp] theorem keepCore_power : (s.keepCore t).power = s.power := rfl
@[simp] theorem keepCore_queues : (s.keepCore t).queues = t.queues := rfl
@[simp] theorem keepCore_mes : (s.keepCore t).mes = t.mes := rfl
@[simp] theorem keepCore_ses : (s.keepCore t).ses = t.ses := rfl
@[simp] theorem keepCore_des : (s.keepCore t).des = t.des := rfl
@[simp] theorem keepCore_tandem : (s.keepCore t).tandem = t.tandem := rfl
@[simp] theorem keepCore_bankFlight : (s.keepCore t).bankFlight = t.bankFlight := rfl
@[simp] theorem keepCore_sync : (s.keepCore t).sync = t.sync := rfl
@[simp] theorem keepCore_mem : (s.keepCore t).mem = t.mem := rfl
@[simp] theorem keepCore_fab : (s.keepCore t).fab = t.fab := rfl
@[simp] theorem keepCore_pci : (s.keepCore t).pci = t.pci := rfl
@[simp] theorem keepCore_funcs : (s.keepCore t).funcs = t.funcs := rfl
@[simp] theorem keepCore_msixMinUs : (s.keepCore t).msixMinUs = t.msixMinUs := rfl
@[simp] theorem keepCore_badRequests : (s.keepCore t).badRequests = t.badRequests := rfl
@[simp] theorem keepCore_cmds : (s.keepCore t).cmds = t.cmds := rfl
@[simp] theorem keepCore_nextCmd : (s.keepCore t).nextCmd = t.nextCmd := rfl
@[simp] theorem keepCore_ctxs : (s.keepCore t).ctxs = t.ctxs := rfl
@[simp] theorem keepCore_parts : (s.keepCore t).parts = t.parts := rfl
@[simp] theorem keepCore_mgmt : (s.keepCore t).mgmt = s.mgmt := rfl
@[simp] theorem keepCore_sec : (s.keepCore t).sec = s.sec := rfl
@[simp] theorem keepCore_rel : (s.keepCore t).rel = t.rel := rfl
@[simp] theorem keepCore_bist : (s.keepCore t).bist = s.bist := rfl
@[simp] theorem keepCore_meter : (s.keepCore t).meter = s.meter := rfl
@[simp] theorem keepCore_mirror : (s.keepCore t).mirror = s.mirror := rfl
@[simp] theorem keepCore_watchAlarms : (s.keepCore t).watchAlarms = t.watchAlarms := rfl
@[simp] theorem keepCore_watchRate : (s.keepCore t).watchRate = t.watchRate := rfl
@[simp] theorem keepCore_watchLate : (s.keepCore t).watchLate = t.watchLate := rfl
@[simp] theorem keepCore_shown : (s.keepCore t).shown = t.shown := rfl

/-! ### The entry that an update names, and every other -/

@[simp] theorem queue_setQueue (q : Nat) (x : Queue) : (s.setQueue q x).queue q = x := Tbl.get_set_same _ _ _ _
theorem queue_setQueue_other (q j : Nat) (x : Queue) (h : j ≠ q) : (s.setQueue q x).queue j = s.queue j :=
  Tbl.get_set_other _ _ _ _ _ h
@[simp] theorem me_setMe (q : Nat) (x : MeEng) : (s.setMe q x).me q = x := Tbl.get_set_same _ _ _ _
theorem me_setMe_other (q j : Nat) (x : MeEng) (h : j ≠ q) : (s.setMe q x).me j = s.me j :=
  Tbl.get_set_other _ _ _ _ _ h
@[simp] theorem se_setSe (q : Nat) (x : SeEng) : (s.setSe q x).se q = x := Tbl.get_set_same _ _ _ _
theorem se_setSe_other (q j : Nat) (x : SeEng) (h : j ≠ q) : (s.setSe q x).se j = s.se j :=
  Tbl.get_set_other _ _ _ _ _ h
@[simp] theorem de_setDe (q : Nat) (x : DeEng) : (s.setDe q x).de q = x := Tbl.get_set_same _ _ _ _
theorem de_setDe_other (q j : Nat) (x : DeEng) (h : j ≠ q) : (s.setDe q x).de j = s.de j :=
  Tbl.get_set_other _ _ _ _ _ h
@[simp] theorem obj_setObj (q : Nat) (x : SyncObj) : (s.setObj q x).obj q = x := Tbl.get_set_same _ _ _ _
theorem obj_setObj_other (q j : Nat) (x : SyncObj) (h : j ≠ q) : (s.setObj q x).obj j = s.obj j :=
  Tbl.get_set_other _ _ _ _ _ h
@[simp] theorem part_setPart (q : Nat) (x : Partition) : (s.setPart q x).part q = x := Tbl.get_set_same _ _ _ _
theorem part_setPart_other (q j : Nat) (x : Partition) (h : j ≠ q) : (s.setPart q x).part j = s.part j :=
  Tbl.get_set_other _ _ _ _ _ h
@[simp] theorem ctx_setCtx (q : Nat) (x : Ctx) : (s.setCtx q x).ctx q = x := Tbl.get_set_same _ _ _ _
theorem ctx_setCtx_other (q j : Nat) (x : Ctx) (h : j ≠ q) : (s.setCtx q x).ctx j = s.ctx j :=
  Tbl.get_set_other _ _ _ _ _ h
@[simp] theorem port_modPort (k : Nat) (f : Port → Port) : (s.modPort k f).port k = f (s.port k) := Tbl.get_upd_same _ _ _ _
theorem port_modPort_other (k j : Nat) (f : Port → Port) (h : j ≠ k) : (s.modPort k f).port j = s.port j :=
  Tbl.get_upd_other _ _ _ _ _ h
@[simp] theorem session_modSession (k : Nat) (f : Session → Session) : (s.modSession k f).session k = f (s.session k) := Tbl.get_upd_same _ _ _ _
theorem session_modSession_other (k j : Nat) (f : Session → Session) (h : j ≠ k) : (s.modSession k f).session j = s.session j :=
  Tbl.get_upd_other _ _ _ _ _ h
@[simp] theorem die_modDie (k : Nat) (f : DieMem → DieMem) : (s.modDie k f).die k = f (s.die k) := Tbl.get_upd_same _ _ _ _
theorem die_modDie_other (k j : Nat) (f : DieMem → DieMem) (h : j ≠ k) : (s.modDie k f).die j = s.die j :=
  Tbl.get_upd_other _ _ _ _ _ h
@[simp] theorem memUnit_modUnit (k : Nat) (f : MemUnit → MemUnit) : (s.modUnit k f).memUnit k = f (s.memUnit k) := Tbl.get_upd_same _ _ _ _
theorem memUnit_modUnit_other (k j : Nat) (f : MemUnit → MemUnit) (h : j ≠ k) : (s.modUnit k f).memUnit j = s.memUnit j :=
  Tbl.get_upd_other _ _ _ _ _ h
@[simp] theorem pciPort_modPci (k : Nat) (f : PciPort → PciPort) : (s.modPci k f).pciPort k = f (s.pciPort k) := Tbl.get_upd_same _ _ _ _
theorem pciPort_modPci_other (k j : Nat) (f : PciPort → PciPort) (h : j ≠ k) : (s.modPci k f).pciPort j = s.pciPort j :=
  Tbl.get_upd_other _ _ _ _ _ h
@[simp] theorem cluster_modCluster (k : Nat) (f : ClusterSt → ClusterSt) : (s.modCluster k f).cluster k = f (s.cluster k) := Tbl.get_upd_same _ _ _ _
theorem cluster_modCluster_other (k j : Nat) (f : ClusterSt → ClusterSt) (h : j ≠ k) : (s.modCluster k f).cluster j = s.cluster j :=
  Tbl.get_upd_other _ _ _ _ _ h
@[simp] theorem modQueue_eq (q : Nat) (f : Queue → Queue) : s.modQueue q f = s.setQueue q (f (s.queue q)) := rfl
@[simp] theorem modMe_eq (q : Nat) (f : MeEng → MeEng) : s.modMe q f = s.setMe q (f (s.me q)) := rfl
@[simp] theorem modSe_eq (q : Nat) (f : SeEng → SeEng) : s.modSe q f = s.setSe q (f (s.se q)) := rfl
@[simp] theorem modDe_eq (q : Nat) (f : DeEng → DeEng) : s.modDe q f = s.setDe q (f (s.de q)) := rfl
@[simp] theorem modObj_eq (q : Nat) (f : SyncObj → SyncObj) : s.modObj q f = s.setObj q (f (s.obj q)) := rfl
@[simp] theorem modPart_eq (q : Nat) (f : Partition → Partition) : s.modPart q f = s.setPart q (f (s.part q)) := rfl
@[simp] theorem modCtx_eq (q : Nat) (f : Ctx → Ctx) : s.modCtx q f = s.setCtx q (f (s.ctx q)) := rfl

end Sys2Proof.Machine.State
end

