-- ==== Sys2Proof/Laws/Answer.lean ====
section
/-! SUPPORT. Laws/Answer.lean: what the forms of answer of Machine/Answer.lean do, once for every command that uses them. -/

namespace Sys2Proof.Machine

/-! ### Settling -/

theorem markPrepared_get (ps : Table Partition) (old new : Cmd) (p : Nat) :
    ∃ a b, Tbl.get {} (markPrepared ps old new) p = { Tbl.get {} ps p with prepared := a, prepSuspend := b } := by
  unfold markPrepared
  split
  · by_cases h : p = srcPart old.src
    · subst h; rw [Tbl.get_upd_same]; exact ⟨_, _, rfl⟩
    · rw [Tbl.get_upd_other _ _ _ _ _ h]; exact ⟨_, _, rfl⟩
  · exact ⟨_, _, rfl⟩

theorem foldl_markPrepared_get (l : List (Cmd × Cmd)) (p : Nat) : ∀ ps : Table Partition,
    ∃ a b, Tbl.get {} (l.foldl (fun t c => markPrepared t c.1 c.2) ps) p = { Tbl.get {} ps p with prepared := a, prepSuspend := b } := by
  induction l with
  | nil => intro ps; exact ⟨_, _, rfl⟩
  | cons c l ih =>
    intro ps
    obtain ⟨a, b, h⟩ := ih (markPrepared ps c.1 c.2)
    obtain ⟨a', b', h'⟩ := markPrepared_get ps c.1 c.2 p
    exact ⟨a, b, by rw [List.foldl_cons, h, h']⟩

/-- Settling changes nothing in a partition but whether it is prepared for a shutdown (R474). -/
theorem State.settle_part (s : State) (p : Nat) : ∃ a b, s.settle.part p = { s.part p with prepared := a, prepSuspend := b } :=
  foldl_markPrepared_get _ p s.parts

theorem sessReply_mgmt (m : MgmtSt) (o : List Out) (now k rid op status : Nat) (data : Bytes) :
    (∃ l, (sessReply m o now k rid op status data).1 = { m with sessions := l }) ∧ ∃ l, (sessReply m o now k rid op status data).2 = o ++ l := by
  unfold sessReply
  split
  · exact ⟨⟨_, rfl⟩, _, rfl⟩
  · exact ⟨⟨m.sessions, rfl⟩, [], by simp⟩

theorem answerMgmt_mgmt (m : MgmtSt) (o : List Out) (now : Nat) (c : Cmd) :
    (∃ l, (answerMgmt m o now c).1 = { m with sessions := l }) ∧ ∃ l, (answerMgmt m o now c).2 = o ++ l := by
  unfold answerMgmt
  split
  · exact ⟨⟨m.sessions, rfl⟩, _, rfl⟩
  · exact sessReply_mgmt _ _ _ _ _ _ _ _

theorem foldl_answerMgmt (now : Nat) (l : List Cmd) : ∀ a : MgmtSt × List Out,
    (∃ x, (l.foldl (fun a c => answerMgmt a.1 a.2 now c) a).1 = { a.1 with sessions := x }) ∧
    ∃ x, (l.foldl (fun a c => answerMgmt a.1 a.2 now c) a).2 = a.2 ++ x := by
  induction l with
  | nil => intro a; exact ⟨⟨a.1.sessions, rfl⟩, [], by simp⟩
  | cons c l ih =>
    intro a
    obtain ⟨⟨x, hx⟩, y, hy⟩ := ih (answerMgmt a.1 a.2 now c)
    obtain ⟨⟨x', hx'⟩, y', hy'⟩ := answerMgmt_mgmt a.1 a.2 now c
    refine ⟨⟨x, ?_⟩, y' ++ y, ?_⟩
    · rw [List.foldl_cons, hx, hx']
    · rw [List.foldl_cons, hy, hy', List.append_assoc]

/-- Settling changes nothing of the dictionary's own state but sessions, which keep the replies. -/
theorem State.settle_mgmt (s : State) : ∃ l, s.settle.mgmt = { s.mgmt with sessions := l } :=
  (foldl_answerMgmt _ _ (s.mgmt, s.outbox)).1

/-- Settling only adds to what the module has sent. -/
theorem State.settle_outbox (s : State) : ∃ l, s.settle.outbox = s.outbox ++ l :=
  (foldl_answerMgmt _ _ (s.mgmt, s.outbox)).2

/-- A command that does not wait is left as it is. -/
theorem State.settleCmd_of_not_waiting (s : State) (c : Cmd) (h : c.phase ≠ .waiting) : s.settleCmd c = c := by
  simp [State.settleCmd, h]

/-- Without commands, settling changes no command, partition, session or output. -/
theorem State.settle_of_no_cmds (s : State) (h : s.cmds = []) : s.settle = { s with gated := s.stillGated } := by
  simp [State.settle, h]

/-! ### Forms of answer -/

theorem engines_powered (f : State → State) (s : State) (h : s.powered = true) :
    engines f s = .next (s.keepCore (f s)).settle := by simp [engines, h]

theorem engines_off (f : State → State) (s : State) (h : s.powered = false) : engines f s = .next s := by simp [engines, h]

theorem fabric_on (f : State → State) (s : State) (h : s.linksOn = true) :
    fabric f s = .next (s.keepCore (f s)).settle := by simp [fabric, h]

theorem fabric_off (f : State → State) (s : State) (h : s.linksOn = false) : fabric f s = .next s := by simp [fabric, h]

theorem services_on (f : State → State) (s : State) (h : s.hubOn = true) :
    services f s = .next (s.keepCore (f s)).settle := by simp [services, h]

theorem hub_on (f : State → State) (s : State) (h : s.hubOn = true) :
    hub f s = .next { (f s).settle with pending := s.pending, clockUs := s.clockUs, meter := s.meter } := by simp [hub, h]

theorem hub_off (f : State → State) (s : State) (h : s.hubOn = false) : hub f s = .next s := by simp [hub, h]

/-- A powered module's hub is on. -/
theorem State.hubOn_of_powered (s : State) (h : s.powered = true) : s.hubOn = true := by
  simp only [State.powered, decide_eq_true_eq] at h
  simp only [State.hubOn, Bool.or_eq_true, decide_eq_true_eq]
  omega

/-- Every form answers a next state, and says what it cannot have changed. -/
theorem engines_next (f : State → State) (s t : State) (h : engines f s = .next t) :
    t.pending = s.pending ∧ t.clockUs = s.clockUs ∧ t.power = s.power ∧ t.sec = s.sec ∧ t.bist = s.bist ∧ t.meter = s.meter ∧ t.mirror = s.mirror := by
  unfold engines at h
  split at h <;> · injection h with h; subst h; simp

theorem fabric_next (f : State → State) (s t : State) (h : fabric f s = .next t) :
    t.pending = s.pending ∧ t.clockUs = s.clockUs ∧ t.power = s.power ∧ t.sec = s.sec ∧ t.bist = s.bist ∧ t.meter = s.meter ∧ t.mirror = s.mirror := by
  unfold fabric at h
  split at h <;> · injection h with h; subst h; simp

theorem services_next (f : State → State) (s t : State) (h : services f s = .next t) :
    t.pending = s.pending ∧ t.clockUs = s.clockUs ∧ t.power = s.power ∧ t.sec = s.sec ∧ t.bist = s.bist ∧ t.meter = s.meter ∧ t.mirror = s.mirror := by
  unfold services at h
  split at h <;> · injection h with h; subst h; simp

theorem hub_next (f : State → State) (s t : State) (h : hub f s = .next t) :
    t.pending = s.pending ∧ t.clockUs = s.clockUs ∧ t.meter = s.meter := by
  unfold hub at h
  split at h <;> · injection h with h; subst h; simp

theorem anyTime_next (f : State → State) (s t : State) (h : anyTime f s = .next t) :
    t.pending = s.pending ∧ t.clockUs = s.clockUs ∧ t.meter = s.meter := by
  injection h with h; subst h; simp

end Sys2Proof.Machine
end

