-- ==== Sys2Proof/Laws/Bytes.lean ====
section
/-! SUPPORT. Laws/Bytes.lean: numbers, their little-endian bytes and their fields. -/

namespace Sys2Proof.Machine

@[simp] theorem leBytes_length (n v : Nat) : (leBytes n v).length = n := by
  induction n generalizing v with
  | zero => rfl
  | succ n ih => simp [leBytes, ih]

theorem leNat_lt (bs : Bytes) : leNat bs < 2 ^ (8 * bs.length) := by
  induction bs with
  | nil => simp [leNat]
  | cons b bs ih =>
    have hb := b.isLt
    have h : 2 ^ (8 * (b :: bs).length) = 256 * 2 ^ (8 * bs.length) := by
      rw [List.length_cons, Nat.mul_add, Nat.pow_add, Nat.mul_comm]
    simp only [leNat]; omega

theorem leNat_leBytes (n v : Nat) : leNat (leBytes n v) = v % 2 ^ (8 * n) := by
  induction n generalizing v with
  | zero => simp [leBytes, leNat, Nat.mod_one]
  | succ n ih =>
    have h : 2 ^ (8 * (n + 1)) = 256 * 2 ^ (8 * n) := by rw [Nat.mul_add, Nat.pow_add, Nat.mul_comm]
    simp only [leBytes, leNat, ih, BitVec.toNat_ofNat, h]
    rw [Nat.mod_mul (a := 256)]

/-- The bytes written are those read where they fit. -/
theorem leNat_leBytes_of_lt {n v : Nat} (h : v < 2 ^ (8 * n)) : leNat (leBytes n v) = v := by
  rw [leNat_leBytes, Nat.mod_eq_of_lt h]

theorem slice_append_left (as bs : Bytes) : slice (as ++ bs) 0 as.length = as := by simp [slice]

@[simp] theorem slice_length (bs : Bytes) (off n : Nat) : (slice bs off n).length = n := by
  simp [slice] <;> omega

/-- A field of a shifted word is the field of the word. -/
theorem bits_shift (x hi lo k : Nat) (h : lo ≤ hi) : bits (x * 2 ^ k) (hi + k) (lo + k) = bits x hi lo := by
  have e : hi + k + 1 - (lo + k) = hi + 1 - lo := by omega
  have d : x * 2 ^ k / 2 ^ (lo + k) = x / 2 ^ lo := by
    rw [Nat.add_comm, Nat.pow_add, ← Nat.div_div_eq_div_mul, Nat.mul_div_cancel _ (Nat.two_pow_pos k)]
  simp only [bits, e, d]

/-- Below the shift a shifted word is zero. -/
theorem bits_below (x hi lo k : Nat) (h : hi < k) (h' : lo ≤ hi) : bits (x * 2 ^ k) hi lo = 0 := by
  obtain ⟨j, rfl⟩ : ∃ j, k = lo + (hi + 1 - lo) + j := ⟨k - (hi + 1), by omega⟩
  simp only [bits, Nat.pow_add]
  rw [show x * (2 ^ lo * 2 ^ (hi + 1 - lo) * 2 ^ j) = x * 2 ^ j * 2 ^ (hi + 1 - lo) * 2 ^ lo by
    simp only [Nat.mul_assoc, Nat.mul_comm, Nat.mul_left_comm], Nat.mul_div_cancel _ (Nat.two_pow_pos lo), Nat.mul_mod_left]

end Sys2Proof.Machine
end

