-- ==== Sys2Proof/Laws/Issue.lean ====
section
/-! SUPPORT. Laws/Issue.lean: what issuing an instruction (Machine/Queues.lean) does, and when it is a command's turn
(Machine/Kentis.lean): the lemmas that every instruction's frame goes through. -/

namespace Sys2Proof.Machine

/-! ### Issue -/

/-- A word that issues is fetched, has its opcode, and is legal; the module is powered. -/
theorem issues_iff (op : Nat) (c : Core) (q : QIx) (s : State) (w : Nat) :
    Safety.issues op c q s w = true ↔
      s.powered = true ∧ s.fetched (qid c q) = some w ∧ Ins.op w = op ∧ insLegal w (s.isTandem c.val) = true := by
  simp [Safety.issues, and_assoc]

/-- Where a word issues, its instruction does `f`. -/
theorem issueOp_issues (op : Nat) (c : Core) (q : QIx) (f : State → Nat → Nat → State) (s : State) (w : Nat)
    (h : Safety.issues op c q s w = true) : issueOp op c q f s = f s (qid c q) w := by
  obtain ⟨_, hf, ho, hl⟩ := (issues_iff op c q s w).mp h
  simp [issueOp, State.issueAt, hf, ho, hl]

/-- Where a word issues, the command answers the next state that `f` gives, settled. -/
theorem engines_issueOp (op : Nat) (c : Core) (q : QIx) (f : State → Nat → Nat → State) (s : State) (w : Nat)
    (h : Safety.issues op c q s w = true) :
    engines (issueOp op c q f) s = .next (s.keepCore (f s (qid c q) w)).settle := by
  rw [engines_powered _ s ((issues_iff op c q s w).mp h).1, issueOp_issues op c q f s w h]

/-! ### What settling leaves -/

/-- Settling touches commands, sessions, outputs, gating and preparations alone. -/
theorem State.settle_frame (s : State) :
    { s.settle with cmds := s.cmds, parts := s.parts, mgmt := s.mgmt, outbox := s.outbox, gated := s.gated } = s := rfl

@[simp] theorem State.settle_queue (s : State) (k : Nat) : s.settle.queue k = s.queue k := rfl

/-- A step that changes neither partitions nor outputs leaves them settled. -/
theorem settled_of_keepCore (s u : State) (hp : u.parts = s.parts) (ho : u.outbox = s.outbox) :
    Safety.settled s (s.keepCore u).settle := by
  refine ⟨fun p => ?_, ?_, ?_⟩
  · have ⟨a, b, h⟩ := (s.keepCore u).settle_part p
    have e : (s.keepCore u).part p = s.part p := by
      show Tbl.get {} u.parts p = Tbl.get {} s.parts p
      rw [hp]
    rw [h, e]
  · obtain ⟨l, h⟩ := (s.keepCore u).settle_mgmt
    rw [h]; rfl
  · obtain ⟨l, h⟩ := (s.keepCore u).settle_outbox
    exact ⟨l, by rw [h, show (s.keepCore u).outbox = s.outbox from ho]⟩

/-- A command that only puts a queue leaves everything else: the frame of control and scalar instructions. -/
theorem engines_setQueue (s : State) (k : Nat) (Q : Queue) (f : State → State) (h : s.powered = true) (hf : f s = s.setQueue k Q) :
    ∃ t, engines f s = .next t ∧ t.queue k = Q ∧ Safety.queueOnly s t k := by
  refine ⟨_, engines_powered f s h, ?_, ?_, ?_, ?_⟩
  · rw [hf]; exact s.queue_setQueue k Q
  · rw [hf]; rfl
  · intro j hj; rw [hf]; exact s.queue_setQueue_other k j Q hj
  · rw [hf]; exact settled_of_keepCore s _ rfl rfl

/-! ### Commands of Kentis -/

/-- What it takes for a command to have its turn. -/
theorem hasTurn_iff (op : Nat) (src : CmdSrc) (s : State) (c : Cmd) :
    Safety.hasTurn op src s c = true ↔
      s.powered = true ∧ s.memHeld = false ∧ s.turn src = some c ∧ Slot.op c.slot = op ∧ s.underRecovery c = false ∧ s.cmdReached c = true := by
  simp [Safety.hasTurn, Safety.serves, and_assoc]

/-- A service of the hub that writes module memory runs while no change of mode holds it. -/
theorem hubWork_serves (f : State → State) (s : State) (h : Safety.serves s = true) : hubWork f s = engines f s := by
  simp only [Safety.serves, Bool.and_eq_true, Bool.not_eq_true'] at h
  simp [hubWork, engines, h.1, h.2]

end Sys2Proof.Machine
end

