-- ==== Sys2Proof/Laws/Memory.lean ====
section
/-! SUPPORT. Laws/Memory.lean: what the operations over memory do: reads after writes, the bytes that they leave alone, and
the canonical form of module and host memory, which each of them keeps. -/

namespace Sys2Proof.Machine

/-! ### Plain memories -/

theorem Mem.wf_filter (m : Memory) (p : Nat × Byte → Bool) (h : Memory.wf m = true) : Memory.wf (m.filter p) = true :=
  Tbl.wfFrom_filter 0 m p none h

theorem Mem.wf_implant (m : Memory) (a n : Nat) (x : Memory) (h : Memory.wf m = true) : Memory.wf (Mem.implant m a n x) = true :=
  Mem.wf_writeAt _ _ (Mem.wf_erase m a n h)

/-- Bytes written at distinct addresses are read back. -/
theorem Mem.read_writeAt (keys : List Nat) : ∀ (bs : Bytes) (m : Memory), keys.Nodup → bs.length = keys.length →
    keys.map (Mem.byte (Mem.writeAt m (keys.zip bs))) = bs := by
  induction keys with
  | nil => intro bs m _ h; simpa using (List.length_eq_zero_iff.mp h).symm
  | cons k ks ih =>
    intro bs m hk h
    cases bs with
    | nil => simp at h
    | cons b bs =>
      obtain ⟨hn, hk⟩ := List.nodup_cons.mp hk
      have hz : k ∉ (ks.zip bs).map (·.1) := fun hm => hn (by
        obtain ⟨x, hx, rfl⟩ := List.mem_map.mp hm
        exact (List.of_mem_zip hx).1)
      simp only [List.zip_cons_cons, Mem.writeAt, List.map_cons]
      rw [Mem.byte_writeAt_other _ _ _ hz, Mem.byte_setByte_same, ih bs _ hk (by simpa using h)]

theorem Mem.byte_filter (m : Memory) (p : Nat → Bool) (k : Nat) :
    Mem.byte (m.filter fun c => p c.1) k = if p k then Mem.byte m k else 0 := by
  induction m with
  | nil => simp [Mem.byte]
  | cons e m ih =>
    obtain ⟨i, b⟩ := e
    rw [List.filter_cons]
    by_cases h : k = i
    · subst h
      split <;> rename_i hp
      · simp [Mem.byte, Tbl.get]
      · simpa [hp] using ih
    · split <;> simp_all [Mem.byte, Tbl.get]

/-- Erased bytes read as zero, the others as before. -/
theorem Mem.byte_erase (m : Memory) (a n k : Nat) :
    Mem.byte (Mem.erase m a n) k = if a ≤ k ∧ k < a + n then 0 else Mem.byte m k := by
  rw [Mem.erase, Mem.byte_filter m (fun i => decide (i < a) || decide (a + n ≤ i)) k]
  by_cases h : a ≤ k ∧ k < a + n
  · rw [if_pos h, if_neg (by simp; omega)]
  · rw [if_neg h, if_pos (by simp; omega)]

/-! ### The module's operations -/

/-- A write changes the bytes at its addresses, and which granules read as uncorrectable; nothing else. -/
theorem State.writeKeys_eq (s : State) (kv : List (Nat × Byte)) :
    ∃ bad dies, s.writeKeys kv = { s with mem := { s.mem with cells := Mem.writeAt s.mem.cells kv, bad := bad, dies := dies } } := by
  unfold State.writeKeys
  split
  · exact ⟨s.mem.bad, s.mem.dies, rfl⟩
  · exact ⟨_, _, rfl⟩

theorem State.writeKeys_cells (s : State) (kv : List (Nat × Byte)) : (s.writeKeys kv).mem.cells = Mem.writeAt s.mem.cells kv := by
  obtain ⟨bad, dies, h⟩ := s.writeKeys_eq kv; rw [h]

/-- Bytes written at distinct addresses are read back. -/
theorem State.readKeys_writeAt (s : State) (keys : List Nat) (bs : Bytes) (hk : keys.Nodup) (h : bs.length = keys.length) :
    (s.writeAt keys bs).readKeys keys = bs := by
  unfold State.readKeys State.writeAt
  rw [State.writeKeys_cells]
  exact Mem.read_writeAt keys bs s.mem.cells hk h

/-- A byte at no address written is as before. -/
theorem State.byte_writeAt_other (s : State) (keys : List Nat) (bs : Bytes) (k : Nat) (h : k ∉ keys) :
    Mem.byte (s.writeAt keys bs).mem.cells k = Mem.byte s.mem.cells k := by
  unfold State.writeAt
  rw [State.writeKeys_cells]
  refine Mem.byte_writeAt_other _ _ _ fun hm => h ?_
  obtain ⟨x, hx, rfl⟩ := List.mem_map.mp hm
  exact (List.of_mem_zip hx).1

/-! ### The canonical form -/

theorem State.reset_memoryWf : Safety.memoryWf State.reset := ⟨rfl, rfl⟩

theorem State.writeKeys_memoryWf (s : State) (kv : List (Nat × Byte)) (h : Safety.memoryWf s) : Safety.memoryWf (s.writeKeys kv) := by
  obtain ⟨bad, dies, e⟩ := s.writeKeys_eq kv
  rw [e]
  exact ⟨Mem.wf_writeAt kv _ h.1, h.2⟩

theorem State.writeAt_memoryWf (s : State) (keys : List Nat) (bs : Bytes) (h : Safety.memoryWf s) : Safety.memoryWf (s.writeAt keys bs) :=
  s.writeKeys_memoryWf _ h

theorem State.modWrite_memoryWf (s : State) (a : Nat) (bs : Bytes) (h : Safety.memoryWf s) : Safety.memoryWf (s.modWrite a bs) :=
  s.writeAt_memoryWf _ _ h

theorem State.havocKeys_memoryWf (s : State) (keys : List Nat) (h : Safety.memoryWf s) : Safety.memoryWf (s.havocKeys keys) :=
  s.writeAt_memoryWf keys (freeBytes s.free keys.length) h

theorem State.clearRange_memoryWf (s : State) (a n : Nat) (h : Safety.memoryWf s) : Safety.memoryWf (s.clearRange a n) :=
  ⟨Mem.wf_erase s.mem.cells a n h.1, h.2⟩

theorem State.hostWrite_memoryWf (s : State) (port a : Nat) (bs : Bytes) (h : Safety.memoryWf s) : Safety.memoryWf (s.hostWrite port a bs) :=
  ⟨h.1, Mem.wf_write bs s.mem.host _ h.2⟩

/-- A context's memories, put back where it resumes, keep the form. -/
theorem State.implant_memoryWf (s : State) (a n : Nat) (x : Memory) (h : Safety.memoryWf s) :
    Safety.memoryWf { s with mem := { s.mem with cells := Mem.implant s.mem.cells a n x } } :=
  ⟨Mem.wf_implant s.mem.cells a n x h.1, h.2⟩

/-- A loss of the dies' power leaves module memory alone, and zeros on the dies. -/
theorem State.diesOff_memoryWf (s : State) (h : Safety.memoryWf s) : Safety.memoryWf s.diesOff :=
  ⟨Mem.wf_filter s.mem.cells _ h.1, h.2⟩

theorem State.mainOff_memoryWf (s : State) (h : Safety.memoryWf s) : Safety.memoryWf s.mainOff := ⟨rfl, h.2⟩

theorem State.cold_memoryWf (s : State) (h : Safety.memoryWf s) : Safety.memoryWf s.cold := ⟨rfl, h.2⟩

end Sys2Proof.Machine
end

