-- ==== Sys2Proof/Machine/Ecc.lean ====
section
/-! DEFINITION. Machine/Ecc.lean: the code of the module memory (R270, R271): RS(36,32) over GF(2^8), its symbols on the pins
of a sub-channel, and what the controller makes of a burst that it reads. -/

namespace Sys2Proof.Machine.Ecc

/-- Twice an element of GF(2^8) under the field polynomial x^8 + x^4 + x^3 + x^2 + 1. -/
def gdouble (a : Nat) : Nat := if a < 128 then 2 * a else (2 * a) ^^^ 0x11D

/-- Product of two field elements, by the low `n` bits of the second. -/
def gmulBits (a b : Nat) : Nat → Nat
  | 0 => 0
  | n + 1 => (if b.testBit 0 then a else 0) ^^^ gmulBits (gdouble a) (b / 2) n

def gmul (a b : Nat) : Nat := gmulBits a b 8

/-- α^n, with α = 2. -/
def gpow : Nat → Nat
  | 0 => 1
  | n + 1 => gdouble (gpow n)

/-- The generator x^4 + g3 x^3 + g2 x^2 + g1 x + g0 with the roots α^0 to α^3, from g3 down to g0. -/
def generator : List Nat := [15, 54, 120, 64]

/-- One step of the division of the data by the generator: the remainder, and the next symbol. -/
def divStep (r : List Nat) (d : Nat) : List Nat :=
  let f := r.headD 0 ^^^ d
  List.zipWith (fun a g => a ^^^ gmul f g) (r.drop 1 ++ [0]) generator

/-- The four check bytes of 32 data bytes; symbol i is the coefficient of x^(35 − i) (log 99). -/
def check (data : List Nat) : List Nat := data.foldl divStep [0, 0, 0, 0]

/-- The 36 symbols of a codeword: the data bytes in address order, and the check bytes. -/
def encode (data : List Nat) : List Nat := data ++ check data

/-- Syndrome j: the received word at α^j. -/
def syndrome (w : List Nat) (j : Nat) : Nat := w.foldl (fun s c => gmul s (gpow j) ^^^ c) 0

/-- What the controller makes of a burst. -/
inductive Verdict where
  | clean (data : List Nat)
  /-- One symbol was in error: the data, written back corrected. -/
  | corrected (data : List Nat)
  | uncorrectable
deriving DecidableEq, Repr

/-- A single error of value `e` at power `k`, by the syndromes. -/
def isSingle (s0 s1 s2 s3 k : Nat) : Bool :=
  decide (s0 ≠ 0) && decide (s1 = gmul s0 (gpow k)) && decide (s2 = gmul s1 (gpow k)) && decide (s3 = gmul s2 (gpow k))

/-- One symbol in error is corrected, two or three are reported (R271). -/
def decode (w : List Nat) : Verdict :=
  let s0 := syndrome w 0
  let s1 := syndrome w 1
  let s2 := syndrome w 2
  let s3 := syndrome w 3
  if s0 = 0 ∧ s1 = 0 ∧ s2 = 0 ∧ s3 = 0 then .clean (w.take 32)
  else
    match (List.range 36).find? (isSingle s0 s1 s2 s3) with
    | some k => .corrected ((w.set (35 - k) (w.getD (35 - k) 0 ^^^ s0)).take 32)
    | none => .uncorrectable

/-- The bit on pin `h` in a beat: symbols 3h, 3h + 1 and 3h + 2 in turn, least significant bit first. -/
def pinBit (w : List Nat) (h beat : Nat) : Bool := (w.getD (3 * h + beat / 8) 0).testBit (beat % 8)

/-- The symbols that 12 pins carry in 24 beats. -/
def ofPins (pin : Nat → Nat → Bool) : List Nat :=
  (List.range 36).map fun i => ((List.range 8).filter fun b => pin (i / 3) (8 * (i % 3) + b)).foldl (fun m b => m + 2 ^ b) 0

/-- A burst as it reads with the given errors, each as (symbol, value). -/
def spoil (w : List Nat) : List (Nat × Nat) → List Nat
  | [] => w
  | e :: es => spoil (w.set e.1 (w.getD e.1 0 ^^^ e.2)) es

end Sys2Proof.Machine.Ecc
end

