-- ==== Sys2Proof/Machine/HostReads.lean ====
section
/-! DEFINITION. Machine/HostReads.lean: what the host ports answer reads with: the configuration space of a function, its
BAR0 and its BAR2 (R411 to R416, R428 to R430, R435, R504 to R506, R629). A read changes no state (R430), and the table has
no row for one: these functions say what it shows. -/

namespace Sys2Proof.Machine

/-- What a port answers a read with. -/
inductive HostReply where
  | data (bs : Bytes)
  /-- A completion marked as poisoned (R272). -/
  | poisoned (bs : Bytes)
  | unsupported
  /-- Request Retry Status (R432). -/
  | retry
  /-- The die is out of reach, and the read waits (log 90). -/
  | waits
deriving DecidableEq, Repr

/-! ### Configuration space (R413, R432) -/

/-- A word of a function's configuration header: its Vendor and Device ID, its class code, or the type of its BAR0 (64-bit,
non-prefetchable, R416) and of a partition function's BAR2 (64-bit, prefetchable; function 0 has none and reads zero, R428) at the base
specification's places; the header's other words and the capabilities that R411 names are those of that specification (log 97). -/
def configWord (f : Nat) : Nat → Nat
  | 0 => pack [(0, 16, Config.identVendor), (16, 16, if f = 0 then 0x6C60 else 0x6C61)]
  | 8 => pack [(8, 24, 0x120000)]
  | 0x10 => 0b0100
  | 0x18 => if f = 0 then 0 else 0b1100
  | _ => 0

def State.configRead (s : State) (h f off : Nat) : HostReply :=
  if !s.fnHere h f then .unsupported else if !s.power.ready then .retry else .data (leBytes 4 (configWord f off))

/-! ### The dictionary window (R504 to R506) -/

/-- The control word of a function's segment block. -/
def Func.segWord (g : Func) : Nat :=
  pack [(112, 16, g.wstatus), (96, 16, g.sstatus), (64, 32, g.slen), (48, 16, g.sindex), (40, 8, g.ssub), (0, 32, g.soffset)]

/-- The kilobyte that the segment block shows, zeros past the entry's end. -/
def State.segShown (s : State) (pr : Principal) (g : Func) : Bytes :=
  if g.sstatus ≠ St.ok then pad 1024 []
  else
    match s.entryFor pr g.sindex g.ssub with
    | none => pad 1024 []
    | some (e, _) => pad 1024 (e.bytes.drop g.soffset)

/-- The 8 bytes at an aligned offset of the window: an entry that the principal reads in cell form (R493, R504). -/
def State.windowCell (s : State) (h : HPort) (f : Fn) (off : Nat) : Bytes :=
  let pr := windowPrincipal h f
  let g := s.func h.val f.val
  if off < segControl ∨ 0x80_0000 ≤ off then
    match s.entryFor pr (0x1000 + off / 0x800) (off % 0x800 / 8) with
    | none => leBytes 8 0
    | some (e, r) => leBytes 8 (if r.testBit 0 && !s.unread (0x1000 + off / 0x800) then e.cell else 0)
  else if off < segControl + 16 then slice (leBytes 16 g.segWord) (off - segControl) 8
  else if segControl + 0x400 ≤ off ∧ off < segControl + 0x800 then slice (s.segShown pr g) (off - segControl - 0x400) 8
  else leBytes 8 0

/-! ### BAR0 (R416) -/

/-- The meter mirror (R629): the newest body, `METER_STATE`, and 60 slots. -/
def State.meterMirror (s : State) : Bytes :=
  let body (r : Option MeterRec) : Bytes := pad 64 (r.elim [] MeterRec.body)
  body s.mirror.latest ++ leBytes 8 s.meterWord ++ leBytes 184 0 ++
    (List.range 60).flatMap fun k => body (Tbl.get none s.mirror.slots k)

/-- The pending bit array of a function. -/
def Func.pba (g : Func) : Nat := ((List.range 32).filter fun v => (Tbl.get {} g.vecs v).pending).foldl (fun m v => m + 2 ^ v) 0

/-- The byte at an offset of BAR0, but for the dictionary window. -/
def State.bar0Byte (s : State) (h f off : Nat) : Byte :=
  let g := s.func h f
  if off < 0x80_0000 then
    if f = 0 then 0 else Mem.byte (s.ring (f - 1) (off / 2 ^ 19)).window (off % 2 ^ 19)
  else if off < 0x80_0400 then
    if f = 0 then 0
    else
      let p := partName (f - 1)
      let r : RingIx := ⟨(off - 0x80_0000) / 64 % 16, Nat.mod_lt _ (by decide)⟩
      (leBytes 64 ((s.ring p.val r.val).entry (s.draining p r))).getD (off % 64) 0
  else if 0x200_0000 ≤ off ∧ off < 0x200_1000 then s.meterMirror.getD (off - 0x200_0000) 0
  else if 0x300_0000 ≤ off ∧ off < 0x300_0200 then
    (leBytes 16 (Tbl.get {} g.vecs ((off - 0x300_0000) / 16)).entry).getD (off % 16) 0
  else if 0x300_1000 ≤ off ∧ off < 0x300_1008 then (leBytes 8 g.pba).getD (off - 0x300_1000) 0
  else 0

/-- A read of BAR0; reserved offsets read as zero. -/
def State.bar0Read (s : State) (h : HPort) (f : Fn) (tee : Bool) (off n : Nat) : HostReply :=
  if !s.windowOpen h f tee ∨ 2 ^ 26 < off + n then .unsupported
  else if 0x100_0000 ≤ off ∧ off < 0x200_0000 then
    .data ((span off n).map fun a => (s.windowCell h f ((a - 0x100_0000) / 8 * 8)).getD (a % 8) 0)
  else .data ((span off n).map (s.bar0Byte h.val f.val))

/-! ### BAR2 (R428, R429) -/

/-- A read of a partition's BAR2; an uncorrectable line makes the completion poisoned (R272). -/
def State.bar2Read (s : State) (p : Nat) (tee : Bool) (ue : List Nat) (off n : Nat) : HostReply :=
  if !s.barOpen p tee ∨ 2 ^ (s.fnOf p).bar2Log2 < off + n then .unsupported
  else
    match s.bar2Addr p off with
    | none => .unsupported
    | some a =>
      if !s.hubReaches a then .waits
      else if (s.meetsBad ue (span a n)).isSome then .poisoned (s.modRead a n)
      else .data (s.modRead a n)

end Sys2Proof.Machine
end

