-- ==== Sys2Proof/Tests/Slice0.lean ====
section
/-! SUPPORT. Tests/Slice0.lean: the model's own tests. First, ill-formed commands that WellFormed refuses. Then, for every
statement of Certificates/Slice0/Obligations.lean that has hypotheses, small concrete states that meet the hypotheses
of each of its clauses, each with what the step does there: the numbers are worked out by hand from the rules that the
statement cites. -/

open Sys2Proof Sys2Proof.Machine

namespace Sys2Proof.Tests

set_option Elab.async false

/-! ### Ill-formed commands -/

def message : FabMsg :=
  { op := 0x10, src := 1, dst := 2, spart := 0, dpart := 0, vc := 0, sseq := 0, tag := 0, status := 0, addr := 0, len := 0, dirs := 0, data := [] }

def flit : Flit :=
  { type := 0, vc := 0, dl := 0, dst := 0, src := 1, spart := 0, dpart := 0, sseq := 0, lseq := 0, lack := 0, crVc := 0, crDl := 0, crN := 0,
    len := 16, first := true, last := true, dirs := 0, keyId := 0, payload := [], intact := true }

def hdr : SirrikHdr := { session := 1, seq := 1, sealOk := true, rid := 0, len := 8 }
def trained : StartReport := { checksPass := true, slow := [], failed := [], image0 := true, image1 := true }
def peer : LinkReport := { peerId := 1, peerValid := true, peerPort := 1, peerExternal := false, lanes := 8 }

theorem test_wellFormed_parts : message.wf && flit.wf && hdr.wf && lineOk 0 && lineOk (2 ^ 56 + 8) && entryOk 0xFFFF 255 = true := by decide +kernel

/-- What reads find in error: too high, between two codewords, between two words of a die. -/
theorem test_illFormed_granules :
    [2 ^ 57 + 2 ^ 44, 2 ^ 57 + 16, 16, 2 ^ 56 + 4].all (fun g => [Instr.freshOut 0 0 [g], .freshHold 0 0 [g], .addHold 0 0 [g], .addOut 0 0 [g], .meOpStart 0 [g],
      .accAgree 0 0 [g], .accApply 0 0 [g], .sop 0 0 [g], .merge 0 0 [g], .weightUpdate 0 0 [g], .tileTokenTake 0 [g], .ld 0 0 [g],
      .instructionFetch 0 0 0 1 [g], .xfer 0 0 [g], .gather 0 0 [g], .scatter 0 0 [g], .scatterAdd 0 0 [g], .shadowStart 0 [g],
      .sparingCopyEnd 0 [g], .progLoad (.mgmt 0) [g], .copy (.mgmt 0) [g]].all fun i => !i.wf) = true := by decide +kernel

/-- Fields of a message, one too wide at a time. -/
theorem test_illFormed_messages :
    [{ message with op := 256 }, { message with src := 2 ^ 11 }, { message with dst := 2 ^ 11 }, { message with spart := 8 }, { message with dpart := 8 },
      { message with vc := 4 }, { message with sseq := 2 ^ 14 }, { message with tag := 2 ^ 16 }, { message with status := 2 ^ 16 },
      { message with addr := 2 ^ 64 }, { message with len := 2 ^ 24 }, { message with dirs := 8 }].all (fun m =>
      [Instr.fabWrite m, .readReq m, .readResp m, .sync m, .ack m, .hold m, .openReq m, .openReply m, .close m, .closeReply m, .linkState 0 m,
        .xchRoll m, .xchAgree m, .xchWx m, .xchBfx m, .xchProbe m, .xchPiece m, .xchCount m, .xchQuota m, .xchToken m, .xchReturn m,
        .xchAbort m].all fun i => !i.wf) = true := by decide +kernel

/-- Fields of a flit, one too wide at a time. -/
theorem test_illFormed_flits :
    [{ flit with type := 16 }, { flit with vc := 4 }, { flit with dl := 2 }, { flit with dst := 2 ^ 11 }, { flit with src := 2 ^ 11 },
      { flit with spart := 8 }, { flit with dpart := 8 }, { flit with sseq := 2 ^ 14 }, { flit with lseq := 2 ^ 12 }, { flit with lack := 2 ^ 12 },
      { flit with crVc := 4 }, { flit with crDl := 2 }, { flit with crN := 32 }, { flit with len := 241 }, { flit with dirs := 8 },
      { flit with keyId := 2 }, { flit with payload := List.replicate 241 0 }].all (fun f =>
      [Instr.msgFlitReceive 0 f, .idleFlitReceive 0 f, .retryFlitReceive 0 f, .linkctlFlitReceive 0 f].all fun i => !i.wf) = true := by decide +kernel

/-- Values that do not fit a cell. -/
theorem test_illFormed_cells :
    [Instr.pwrModeWrite .mgmt (2 ^ 64), .fabModuleIdWrite .mgmt (2 ^ 64), .fabTorusDimsWrite .mgmt (2 ^ 64), .memSpareRequest .mgmt (2 ^ 64),
      .fabPortExternalWrite .mgmt (2 ^ 64), .segmentSelect 0 0 (2 ^ 64) false, .partPeersWrite 0 1 (2 ^ 64), .partDestroy (2 ^ 64),
      .partDebugWrite .mgmt 0 (2 ^ 64), .obsSelect (2 ^ 64), .partObsSelect .mgmt 0 (2 ^ 64), .bistFullNext (2 ^ 64), .bistSkipNext (2 ^ 64),
      .repFuseBurn (2 ^ 64), .repUnretire (2 ^ 64), .pwrShutdownReq .mgmt (2 ^ 64)].all (fun i => !i.wf) = true := by decide +kernel

/-- Unit numbers and indices beyond their ranges. -/
theorem test_illFormed_numbers :
    [Instr.startUpStep { trained with slow := [1024] }, .startUpStep { trained with failed := [1024] }, .patrolScrub 0 256 0 0,
      .patrolScrub 0 0 10401873920 0, .patrolPeriodEnd 0 256, .linkUp 0 { peer with peerId := 2 ^ 11 }, .linkUp 0 { peer with peerPort := 8 },
      .linkUp 0 { peer with lanes := 5 }, .linkSecuring 0 false 256, .lanePairTest 0 16, .openRetry 0 (2 ^ 11),
      .sessionResendTimeout 0 3 0, .sessionResendTimeout 0 0 (2 ^ 11), .roundTrigger 0 64, .roundEnd 0 64, .roundTimeout 0 64, .layoutDrained 0 16,
      .stash 0 64, .stashCopyEnd 0 64 0, .stashCopyEnd 0 0 (2 ^ 11), .backwardStart 0 64, .slotDue 0 64, .slotRestoreEnd 0 64 0 none,
      .slotRestoreEnd 0 0 (2 ^ 11) none, .tensorScanEnd 0 64, .configRequest 0 256, .pciLinkUp 0 0 16 false, .pciLinkUp 0 7 16 false,
      .pciLinkUp 0 6 3 false, .stallDetected 1024, .onBoardLinkLaneFailure 0 17, .sessionReopen 0 (2 ^ 11),
      .getMeasurements 0 0 256, .getCertificate 0 0 8, .challenge 0 0 8, .ideKm 0 0 4, .lockInterface 0 4, .startInterface 0 4,
      .stopInterface 0 4].all (fun i => !i.wf) = true := by decide +kernel

/-- Measured quantities beyond their fields. -/
theorem test_illFormed_quantities :
    [Instr.powerOn (2 ^ 17), .inputOvervoltage (2 ^ 17), .moduleReady (2 ^ 16), .throttleStepDown 0 256, .throttleStepUp 0 256, .thermalTrip 0 256,
      .meterSample (2 ^ 17) 0 0, .meterSample 0 (2 ^ 17) 0, .meterReading (2 ^ 16) false false, .jayCompare 0 (2 ^ 64) 0 0 0,
      .jayCompare 0 0 (2 ^ 64) 0 0, .jayCompare 0 0 0 (2 ^ 64) 0, .jayCompare 0 0 0 0 (2 ^ 64), .selfTestSliceEnd 0 0 0 [],
      .selfTestSliceEnd 4 0 0 [], .selfTestSliceEnd 1 (2 ^ 24) 0 [], .selfTestSliceEnd 1 0 (2 ^ 16) []].all (fun i => !i.wf) = true := by decide +kernel

/-- Writes that leave their window, and payloads too long for their entries. -/
theorem test_illFormed_writes :
    [Instr.instructionFetch 0 0 (2 ^ 64) 1 [], .instructionFetch 0 0 0 0 [], .ringControlWrite 0 0 64 [0] false, .slotWrite 0 0 (2 ^ 19) [0] false,
      .bar2Write 0 4095 [0, 0] false, .bar2Resize 0 64, .windowWrite 0 0 (2 ^ 24) [0] false, .mgmtSiteKeyWrite 0 [], .mgmtSiteKeyWrite 5 [],
      .partPeersWrite 0 0 0, .partPeersWrite 0 129 0, .secSiteCertWrite (2 ^ 32) [], .registerWrite .mgmt (2 ^ 16) 0 [],
      .registerWrite .mgmt 0 256 []].all (fun i => !i.wf) = true := by decide +kernel

/-- Payloads longer than their entries. -/
theorem test_illFormed_lengths (l : Bytes) (h : 16384 < l.length) :
    (Instr.partCmd 0 l).wf = false ∧ (Instr.partCreate l).wf = false ∧ (Instr.dbgToken l true).wf = false := by
  have f : decide (l.length ≤ 16384) = false := decide_eq_false (by omega)
  exact ⟨f, f, f⟩

/-- Headers of Sirrik, one field too wide at a time. -/
theorem test_illFormed_sirrik :
    [{ hdr with session := 2 ^ 32 }, { hdr with seq := 0 }, { hdr with seq := 2 ^ 48 }, { hdr with nfrag := 256 }, { hdr with rid := 2 ^ 32 }].all (fun h =>
      [Instr.sirrikRead h 0 0, .sirrikWrite h 0 0 [] true, .readSeg h 0 0 0 0, .writeSeg h 0 0 0 [] true, .sirrikClose h].all fun i => !i.wf) &&
    [Instr.open3 (2 ^ 32) true true true, .open3Timeout (2 ^ 32), .sessionIdleTimeout (2 ^ 32), .fragmentTimeout (2 ^ 32) 0, .fragmentTimeout 0 (2 ^ 48),
      .sirrikRead hdr (2 ^ 16) 0, .sirrikWrite hdr 0 256 [] true, .readSeg hdr 0 0 (2 ^ 32) 0, .readSeg hdr 0 0 0 (2 ^ 16),
      .writeSeg hdr 0 0 (2 ^ 32) [] true].all (fun i => !i.wf) = true := by decide +kernel

/-! ### States -/

/-- What a state after a step is to show. -/
def after (r : Res) (P : State → Bool) : Bool :=
  match r with
  | .next t => P t
  | _ => false

/-- The state that a command leaves, where it leaves one. -/
def landed (f : State → Res) (s : State) : State :=
  match f s with
  | .next t => t
  | _ => s

/-- A module in P0 with partition 0 (cluster 0, range 0, port H0, unit 0) and its context 0 on core 0. -/
def on : State :=
  { State.reset with
    rel := {}
    power := { State.reset.power with state := 0, ready := true, rails := 63, absent := false, presN := false }
    parts := [(0, { st := .ready, clusters := 1, syncRanges := 1, port := 1 })]
    mem := { State.reset.mem with units := [(0, { st := .owned })] }
    ctxs := [(0, { st := .resident, saveBytes := 2 ^ 30, cmap := [(0, 0x1EFF)] })] }

/-- An instruction word from its fields, each as (lowest bit, width, value) (R167). -/
def ins (op : Nat) (fs : List (Nat × Nat × Nat)) : Nat := pack ((248, 8, op) :: fs)

/-- Queue 0 of core 0 runs at 0x1000, where it has fetched `w`. -/
def running (w : Nat) : Queue := { st := .running, ctx := some 0, pc := 0x1000, buffer := [(0x1000, w)] }

def at_ (w : Nat) (f : Queue → Queue) : State := on.setQueue 0 (f (running w))

/-- The word may issue, and the step leaves what `P` says. -/
def tries (op : Nat) (i : Instr) (w : Nat) (s : State) (P : State → Bool) : Bool := Safety.issues op 0 0 s w && after (exec i s) P

def wentTo (pc : Nat) (t : State) : Bool := (t.queue 0).pc == pc && (t.queue 0).seq == 1 && (t.queue 0).st == .running

/-! ### Instruction queues -/

theorem test_registerZero : ((running 0).set 0 5).reg 0 = 0 ∧ ((running 0).set 31 5).reg 31 = 5 := by decide +kernel

/-- SD = S1, SA = S2 = 6, SB = S3 = −2, IMM = 7 (R168, R170). -/
def regs (Q : Queue) : Queue := (Q.set 2 6).set 3 (-2)
def alu3 (op : Nat) : Nat := ins op [(235, 5, 1), (230, 5, 2), (225, 5, 3)]

theorem test_scalarInstructions :
    [(0x11, Instr.add 0 0, (4 : BitVec 64)), (0x12, .sub 0 0, 8), (0x13, .mul 0 0, -12), (0x14, .and 0 0, 6), (0x15, .or 0 0, -2),
      (0x16, .xor 0 0, -8), (0x17, .shl 0 0, 0x8000000000000000), (0x18, .shr 0 0, 0), (0x19, .sar 0 0, 0), (0x1A, .min 0 0, -2),
      (0x1B, .max 0 0, 6), (0x1C, .slt 0 0, 0), (0x1D, .sltu 0 0, 1), (0x1E, .seq 0 0, 0)].all (fun x =>
      tries x.1 x.2.1 (alu3 x.1) (at_ (alu3 x.1) regs) fun t => (t.queue 0).reg 1 == x.2.2 && wentTo 0x1020 t) = true := by decide +kernel

theorem test_scalarImmediate :
    let w := ins 0x11 [(240, 1, 1), (235, 5, 1), (230, 5, 2), (128, 64, 2 ^ 64 - 1)]
    tries 0x11 (.add 0 0) w (at_ w regs) (fun t => (t.queue 0).reg 1 == 5) = true := by decide +kernel

theorem test_scalarToZero :
    let w := ins 0x10 [(128, 64, 9)]
    tries 0x10 (.movi 0 0) w (at_ w regs) (fun t => (t.queue 0).reg 0 == 0 && (t.queue 0).sregs == (regs (running w)).sregs && wentTo 0x1020 t) = true := by
  decide +kernel

/-- `NOP`, `MOVI`, `LCW` of LC2 (32 bits), `LCR`, `GETID` of each number, `LIDX`. -/
theorem test_queueRegisters :
    (let w := 0; tries 0 (.nop 0 0) w (at_ w regs) (wentTo 0x1020)) &&
    (let w := ins 0x10 [(235, 5, 31), (128, 64, 9)]; tries 0x10 (.movi 0 0) w (at_ w regs) fun t => (t.queue 0).reg 31 == 9) &&
    (let w := ins 0x06 [(216, 2, 2), (230, 5, 3), (128, 64, 1)]; tries 0x06 (.lcw 0 0) w (at_ w regs) fun t => (t.queue 0).lcs == [(2, 0xFFFFFFFF)]) &&
    (let w := ins 0x07 [(216, 2, 2), (235, 5, 1)]; tries 0x07 (.lcr 0 0) w (at_ w fun Q => { Q with lcs := [(2, 7)] }) fun t => (t.queue 0).reg 1 == 7) &&
    ([(0, 0), (1, 0), (2, 0x8003), (3, 0), (4, 0), (5, 0)].all fun x =>
      let w := ins 0x22 [(216, 4, x.1), (235, 5, 1)]
      let s := at_ w regs
      tries 0x22 (.getid 0 0) w { s with fab := { s.fab with moduleId := 0x8003 } } fun t => (t.queue 0).reg 1 == BitVec.ofNat 64 x.2) &&
    (let w := ins 0x05 [(216, 2, 1), (235, 5, 1)]
     tries 0x05 (.lidx 0 0) w (at_ w fun Q => { Q with loops := [⟨0, 0, 1, 4, []⟩, ⟨0, 0x2000, 3, 5, []⟩] }) fun t => (t.queue 0).reg 1 == 5) = true := by
  decide +kernel

/-- A loop of two instructions (R179, R180): entered with LC0 = 3, skipped with LC0 = 0, left by `LBRK`, and left after its last iteration. -/
theorem test_loops :
    (let w := ins 0x02 [(96, 16, 2)]
     tries 0x02 (.loop 0 0) w (at_ w fun Q => { Q with lcs := [(0, 3)] }) (fun t => wentTo 0x1020 t && (t.queue 0).loops == [⟨0x1020, 0x1040, 3, 0, []⟩]) &&
     tries 0x02 (.loop 0 0) w (at_ w id) (fun t => wentTo 0x1060 t && (t.queue 0).loops == []) &&
     tries 0x02 (.loop 0 0) w (at_ w fun Q => { Q with lcs := [(0, 3)], loops := [⟨0, 0x1040, 9, 0, []⟩] }) (fun t => (t.queue 0).loops.length == 2)) &&
    (let w := ins 0x03 []
     tries 0x03 (.lbrk 0 0) w (at_ w fun Q => { Q with loops := [⟨0x1000, 0x1040, 3, 0, []⟩] }) fun t => wentTo 0x1060 t && (t.queue 0).loops == []) &&
    (let l : LoopLevel := ⟨0x1000, 0x1040, 2, 5, [(1, 2 ^ 32 - 1)]⟩
     let Q := { running 0 with loops := [l] }.goOn 0x1040
     Q.pc == 0x1000 && Q.reg 1 == -1 && Q.loops == [{ l with left := 1, index := 6 }] && (Q.goOn 0x1040).pc == 0x1060 && (Q.goOn 0x1040).reg 1 == -2) = true := by
  decide +kernel

/-- `BR` back by one instruction where S2 ≠ S3, not taken where S2 = S3 is asked; then `END` and the end of the program. -/
theorem test_branches :
    (let w := ins 0x04 [(216, 3, 2), (230, 5, 2), (225, 5, 3), (96, 32, 2 ^ 32 - 1)]
     branchTaken 2 6 (-2) && tries 0x04 (.br 0 0) w (at_ w regs) (wentTo 0xFE0) &&
     tries 0x04 (.br 0 0) w (at_ w fun Q => { regs Q with loops := [⟨0xFE0, 0x1040, 3, 0, []⟩] }) (wentTo 0xFE0)) &&
    (let w := ins 0x04 [(216, 3, 1), (230, 5, 2), (225, 5, 3), (96, 32, 2 ^ 32 - 1)]
     !branchTaken 1 6 (-2) && tries 0x04 (.br 0 0) w (at_ w regs) (wentTo 0x1020)) &&
    (let w := ins 0x01 []; tries 0x01 (.endQ 0 0) w (at_ w id) fun t => (t.queue 0).st == .ending && (t.queue 0).pc == 0x1000) &&
    (let s := at_ 0 fun Q => { Q with st := .ending }; s.powered && s.queueDone 0 && after (exec (.queueEnded 0 0) s) fun t => (t.queue 0).st == .ended) = true := by
  decide +kernel

/-- `LD` and `ST` at byte 8 of the scratchpad, and at the last word of the cluster's memory (R262). -/
theorem test_scalarMemory :
    (let w := ins 0x21 [(225, 5, 2), (128, 64, 8)]
     let s := at_ w regs
     s.scalarKeys 0 8 == some (span (spadKey 0 8) 8) && !s.engineBusy 0 &&
       tries 0x21 (.st 0 0) w s fun t => t.readKeys (span (spadKey 0 8) 8) == leBytes 8 6 && wentTo 0x1020 t && t.mem.cells == [(spadKey 0 8, 6)]) &&
    (let w := ins 0x20 [(235, 5, 1), (128, 64, 2 ^ 24 + 0x80_0000 - 8)]
     let s := at_ w regs
     let keys := span (clmKey 0 (0x80_0000 - 8)) 8
     let s := s.writeAt keys (leBytes 8 0x0102)
     s.scalarKeys 0 (2 ^ 24 + 0x80_0000 - 8) == some keys && !s.engineBusy 0 && (s.meetsBad [0] keys).isNone &&
       tries 0x20 (.ld 0 0 [0]) w s fun t => (t.queue 0).reg 1 == 0x0102 && t.mem.cells == s.mem.cells) = true := by
  decide +kernel

/-- A fetch of 64 words from unit 0; a notice for a waiting and for a suspended queue. -/
theorem test_fetchAndNotices :
    (let s := at_ 0 fun Q => { Q with st := .waiting, pc := 0x2000, buffer := [] }
     let s := s.writeAt (span 0x2000 4) (leBytes 4 7)
     s.powered && (List.range 64).all (fun i => s.finds 0 (0x2000 + 32 * i) && s.fetchKeys 0 (0x2000 + 32 * i) == .inr (span (0x2000 + 32 * i) 32) &&
       (s.meetsBad [] (span (0x2000 + 32 * i) 32)).isNone) &&
     after (exec (.instructionFetch 0 0 0x2000 64 []) s) fun t => (t.queue 0).buffer.length == 64 && (t.queue 0).buffer.head? == some (0x2000, 7)) &&
    (let s := at_ 0 fun Q => { Q with st := .waiting, notice := some 4, dirty := [(0, 1)] }
     after (exec (.waitResume 0 0) s) fun t => (t.queue 0).st == .running && (t.queue 0).dirty == [] && (t.queue 0).causal == 5) &&
    (let s := at_ 0 fun Q => { Q with st := .suspended, saved := .waiting, notice := some 4 }
     after (exec (.waitResume 0 0) s) fun t => (t.queue 0).st == .suspended && (t.queue 0).saved == .running) = true := by
  decide +kernel

/-- A loop of two words at 0x2020 has its second word fetched; with both buffered and an iteration to come, nothing is fetched. -/
theorem test_fetchAhead :
    (let l : LoopLevel := { start := 0x2020, stop := 0x2040, left := 40, index := 0, incs := [] }
     let s := (at_ 0 fun Q => { Q with pc := 0x2020, loops := [l], buffer := [(0x2020, 7)] }).writeAt (span 0x2040 4) (leBytes 4 9)
     (s.queue 0).fetchAt == some 0x2040 && s.finds 0 0x2040 && s.fetchKeys 0 0x2040 == .inr (span 0x2040 32) &&
     after (exec (.instructionFetch 0 0 0x2040 1 []) s) fun t => (t.queue 0).buffer == [(0x2020, 7), (0x2040, 9)] && (t.queue 0).fetchAt.isNone) = true := by
  decide +kernel

/-- Illegal words: an unknown opcode, and words with a field that their opcode does not name. -/
theorem test_illegalWords :
    [(ins 0xFF [], Instr.nop 0 0), (ins 0 [(128, 64, 1)], .nop 0 0), (ins 0x01 [(96, 32, 1)], .endQ 0 0), (ins 0x10 [(225, 5, 1)], .movi 0 0),
      (ins 0x11 [(220, 5, 1)], .add 0 0), (ins 0x21 [(235, 5, 1)], .st 0 0), (ins 0x70 [(243, 1, 1)], .sig 0 0)].all (fun x =>
      let s := at_ x.1 regs
      s.powered && s.fetched 0 == some x.1 && (s.queue 0).ctx == some 0 && !insLegal x.1 (s.isTandem 0) &&
        after (exec x.2 s) fun t => (t.queue 0).st == .faulted && (t.queue 0).fault.cause == 1 && (t.queue 0).pc == 0x1000 &&
          (t.queue 0).fault.detail == bits x.1 255 224) = true := by decide +kernel

/-! ### Synchronisation -/

/-- Each instruction on object 5 with count 3, participant index 1; and object 0xFFFF by register S2. -/
theorem test_syncIssue :
    [(0x70, Instr.sig 0 0, false), (0x71, .waitacq 0 0, true), (0x72, .dec 0 0, false), (0x73, .fset 0 0, false), (0x74, .fclr 0 0, false),
      (0x75, .fwait 0 0, true), (0x76, .bar 0 0, true), (0x77, .barnb 0 0, false)].all (fun x =>
      let w := ins x.1 ([(128, 16, 5)] ++ if [0x70, 0x71, 0x72].contains x.1 then [(96, 16, 3)] else [])
      let r := ins x.1 [(241, 1, 1), (230, 5, 2)]
      bit (Ins.flags w) 0 == false &&
      tries x.1 x.2.1 w (at_ w regs) (fun t => t.sync.flight.length == 1 && t.sync.flight.all (fun p => p.obj == 5 && p.opc == x.1) &&
        (t.queue 0).st == (if x.2.2 then .waiting else .running) && (t.queue 0).pc == 0x1020) &&
      tries x.1 x.2.1 r (at_ r fun Q => Q.set 2 0xFFFF) fun t => t.sync.flight.all fun p => p.obj == 0xFFFF) = true := by decide +kernel

/-- The same instructions at module 9: the three that may act remotely go on, the others fault with 0x38 (R202). -/
theorem test_syncIssue_remote :
    [(0x70, Instr.sig 0 0, true), (0x71, .waitacq 0 0, false), (0x72, .dec 0 0, false), (0x73, .fset 0 0, true), (0x74, .fclr 0 0, false),
      (0x75, .fwait 0 0, false), (0x76, .bar 0 0, false), (0x77, .barnb 0 0, true)].all (fun x =>
      let w := ins x.1 [(240, 1, 1), (128, 16, 5), (144, 11, 9)]
      bit (Ins.flags w) 0 && (at_ w regs).sync.flight.isEmpty &&
      tries x.1 x.2.1 w (at_ w regs) fun t => t.sync.flight.isEmpty &&
        (if x.2.2 then wentTo 0x1020 t else (t.queue 0).st == .faulted && (t.queue 0).fault.cause == 0x38 && (t.queue 0).pc == 0x1000)) = true := by
  decide +kernel

def counter : SyncObj := { kind := .counter, count := 65534 }
def anOp (opc n : Nat) : SyncOp := { opc := opc, obj := 5, n := n, qid := 0, ctx := 0, part := 0, pc := 0, seq := 0, causal := 3 }
def withObj (o : SyncObj) : State := on.setObj 5 o |>.setQueue 0 (running 0)

/-- A counter at 65,534 takes 1 more and refuses 2 more (0x31); a waiting queue has its notice. -/
theorem test_arrivals :
    (let s := { withObj counter with sync := { (withObj counter).sync with flight := [anOp 0x70 1] } }
     (s.obj 5).take (anOp 0x70 1) == .inr ({ counter with count := 65535 }, []) &&
     after (exec (.syncOpArrive 0) s) fun t => (t.obj 5).count == 65535 && (t.obj 5).causal == 3 && t.sync.flight.isEmpty) &&
    (let s := { withObj counter with sync := { (withObj counter).sync with flight := [anOp 0x70 2] } }
     (s.obj 5).take (anOp 0x70 2) == .inl (0x31, 65534) && (s.queue 0).ctx == some 0 && decide ((s.queue 0).st ≠ .faulted) &&
     after (exec (.syncOpArrive 0) s) fun t => (t.obj 5).count == 65534 && (t.obj 5).lastErr == 0x31 && (t.queue 0).fault.cause == 0x31) &&
    (let o : SyncObj := { kind := .counter, waiters := [⟨.queue 3, 2, 0⟩] }
     let s := { withObj o with sync := { (withObj o).sync with flight := [anOp 0x70 2] } }
     (match (s.obj 5).take (anOp 0x70 2) with | .inr (_, ws) => ws == [⟨.queue 3, 2, 0⟩] | .inl _ => false) &&
     after (exec (.syncOpArrive 0) s) fun t => (t.queue 3).notice == some 3 && (t.obj 5).count == 0) = true := by decide +kernel

/-- A bound add of 1, a bound flag, and a refusal that a receiver sent. -/
theorem test_boundSignals :
    [(1, counter), (2, { counter with kind := .flag, count := 0 })].all (fun x =>
      let b : BoundSig := { obj := 5, kind := x.1, n := 1, qid := 0, ctx := 0, part := 0, pc := 0, seq := 0, causal := 9, origin := 0 }
      let s := { withObj x.2 with sync := { (withObj x.2).sync with bound := [b] } }
      (accessErr (s.obj 5) 0 0 false).isNone && (declaredErr (s.obj 5) 0 false).isNone && (s.obj 5).kind == (if x.1 = 2 then .flag else .counter) &&
      after (exec (.boundSignal 0) s) fun t => (t.obj 5).count == x.2.count + 1 && (t.obj 5).causal == 9 && t.sync.bound.isEmpty) &&
    (let s := { withObj counter with sync := { (withObj counter).sync with refusals := [⟨0, 0, 0x40, 7, 5, 0x31⟩] } }
     (s.queue 0).ctx == some 0 && after (exec (.remoteRefusal 0) s) fun t => t.sync.refusals.isEmpty && (t.queue 0).fault.cause == 0x3A &&
       (t.queue 0).fault.detail == 0x310005 && (t.obj 5).count == 65534) = true := by decide +kernel

def aFlag : SyncObj := { kind := .flag, waiters := [⟨.queue 3, 0, 0⟩] }

/-- The clauses of the counter and flag rules, at the edges of the count. -/
theorem test_counterRules :
    (counter.take (anOp 0x70 1) == .inr ({ counter with count := 65535 }, []) && counter.take (anOp 0x70 2) == .inl (0x31, 65534) &&
    counter.take (anOp 0x72 65534) == .inr ({ counter with count := 0 }, []) && counter.take (anOp 0x72 65535) == .inl (0x30, 65534) &&
    counter.take (anOp 0x71 65534) == .inr ({ counter with count := 0 }, [⟨.queue 0, 65534, 0⟩]) &&
    counter.take (anOp 0x71 65535) == .inr ({ counter with waiters := [⟨.queue 0, 65535, 0⟩] }, []) &&
    aFlag.take (anOp 0x73 0) == .inr ({ kind := .flag, count := 1 }, [⟨.queue 3, 0, 0⟩]) &&
    (let o := { counter with waiters := [⟨.queue 3, 65535, 0⟩] }
     o.take (anOp 0x71 1) == .inr ({ o with waiters := [⟨.queue 3, 65535, 0⟩, ⟨.queue 0, 1, 0⟩] }, [])) &&
    aFlag.take (anOp 0x75 0) == .inr ({ aFlag with waiters := [⟨.queue 3, 0, 0⟩, ⟨.queue 0, 0, 0⟩] }, []) &&
    { aFlag with count := 1 }.take (anOp 0x75 0) == .inr ({ aFlag with count := 1 }, [⟨.queue 0, 0, 0⟩]) &&
    aFlag.take (anOp 0x74 0) == .inr (aFlag, []) && aFlag.take (anOp 0x70 1) == .inl (0x32, 2)) = true := by decide +kernel

/-- A line of waiters for 2, 3 and 1 at a count of 4: only the first is served, and the third does not overtake. -/
theorem test_countersServeInOrder :
    let l : List Waiter := [⟨.queue 0, 2, 0⟩, ⟨.queue 1, 3, 0⟩, ⟨.queue 2, 1, 0⟩]
    let o : SyncObj := { kind := .counter, count := 1, waiters := l }
    serveCounter 4 l = (2, l.take 1, l.drop 1) ∧ accessErr o 0 0 false = none ∧ declaredErr o 0 false = none ∧
    o.take (anOp 0x70 3) = .inr ({ o with count := 2, waiters := l.drop 1 }, l.take 1) := by decide +kernel

/-- A barrier of two: the second arrival releases it; a second arrival of the same participant is refused (0x35). -/
theorem test_barrierStaysInRange :
    let o : SyncObj := { kind := .barrier, partic := 2, bmCur := 1, bmNext := 1 }
    let p (i : Nat) : SyncOp := { anOp 0x77 0 with idx := i }
    o.count ≤ 65535 ∧ o.bmCur < 2 ^ o.partic ∧ o.bmNext < 2 ^ o.partic ∧
    o.take (p 1) = .inr ({ o with gen := 1, bmCur := 1, bmNext := 0 }, []) ∧ o.take (p 0) = .inl (0x35, 0) ∧ o.take (p 2) = .inl (0x37, 2) := by
  decide +kernel

/-! ### Matrix engine -/

/-- INT8 rows with K = 1, sixteen of A at 0x1000 and of B at 0x1100, T = 62: window 0, headroom 2; a bfloat16 tile at 0x2000. -/
def mma (mode : Nat) : Nat :=
  pack [(94, 4, 2), (90, 4, 2), (73, 2, mode), (176, 24, 1), (200, 24, 0x1000), (224, 24, 1), (248, 24, 0x1100), (272, 24, 1), (102, 10, 62),
    (296, 24, 0x2000), (320, 24, 32), (160, 16, 7), (67, 1, 1)]

def mmaWord : Nat := ins 0x40 [(192, 24, 0x800)]

/-- The scratchpad of core 0 with the record at 0x800, A all 2 and B all 3. -/
def withMma (mode : Nat) : State :=
  let s := at_ mmaWord id
  (s.writeAt ((span 0x800 64).map (spadKey 0)) (leBytes 64 (mma mode))).writeAt ((span 0x1000 16 ++ span 0x1100 16).map (spadKey 0))
    (List.replicate 16 2 ++ List.replicate 16 3)

def openBank : Bank := { st := .opened, accs := List.replicate 256 { sum := 10 }, terms := 5, h := 2, win := 0 }

theorem test_matrixStarts :
    [(0, Instr.freshOut 0 0 [], ({} : Bank), (6 : Int), 1), (1, .freshHold 0 0 [], {}, 6, 1), (2, .addHold 0 0 [], openBank, 16, 6),
      (3, .addOut 0 0 [], openBank, 16, 6)].all (fun x =>
      let s := (withMma x.1).setBank 0 0 x.2.2.1
      let keys := (span 0x800 64).map (spadKey 0)
      let r := mmaRecord (s.queue 0) mmaWord (leNat (s.readKeys keys))
      let o : MeOp := { qid := 0, ctx := 0, pc := 0x1000, seq := 0, ins := mmaWord, regs := [], rcd := r, t := 62, phase := .held }
      s.meFree 0 0 && (s.me 0).ops.isEmpty && Ins.addr mmaWord % 64 == 0 && s.spadKeys 0 [(0x800, 64)] == some keys && (s.meetsBad [] keys).isNone &&
      MRec.mode r == x.1 && MRec.formatOk r && mmaTop (s.queue 0) mmaWord r == 62 && s.mmaRangesOk 0 r && (startCause o [s.bank 0 0]).isNone &&
      (s.meetsBad [] (s.meKeys 0 (s.mmaReads 0 r))).isNone &&
      tries 0x40 x.2.1 mmaWord s fun t => wentTo 0x1020 t && (t.bank 0 0).st == .busy && (t.bank 0 0).win == 0 && (t.bank 0 0).terms == x.2.2.2.2 &&
        (t.bank 0 0).accs.length == 256 && (t.bank 0 0).accs.all (·.sum == x.2.2.2.1) && (t.me 0).ops.all (·.phase == .running)) = true := by
  decide +kernel

def bankOp (op : Nat) (fs : List (Nat × Nat × Nat)) : Nat := ins op ([(192, 24, 0x1000)] ++ fs)

/-- Whether a bank instruction is accepted on an idle engine. -/
def bankOk (w : Nat) (s : State) : Bool :=
  Safety.untraced s 0 && s.meFree 0 0 && (s.me 0).ops.isEmpty && s.bankOpOk 0 w &&
  (s.meetsBad [] (s.meKeys 0 (s.meReads 0 { qid := 0, ctx := 0, pc := 0, seq := 0, ins := w, regs := [], rcd := 0, t := 0, phase := .held }))).isNone

/-- A summary of window 0 with 5 as the largest exponent of element 0, merged or not. -/
def summary (merged : Bool) : Bytes := summaryBytes [{ maxexp := some 5 }] 1 0 9 merged

theorem test_bankSummary :
    (let w := bankOp 0x41 [(216, 2, 3)]
     let s := (at_ w id).setBank 0 3 { openBank with accs := [{ maxexp := some 5 }] }
     bankOk w s && tries 0x41 (.accSummary 0 0) w s fun t => wentTo 0x1020 t && (t.me 0).ops.isEmpty &&
       t.spadRead 0 (0x1000 + 128) 2 == leBytes 2 5 && t.spadRead 0 (0x1000 + 8) 4 == leBytes 4 1) = true := by decide +kernel

theorem test_bankAgree :
    (let w := bankOp 0x42 [(96, 7, 1), (112, 16, 9), (128, 24, 0x3000)]
     let s := (at_ w id).spadWrite 0 0x1000 (summary false)
     bankOk w s &&
     tries 0x42 (.accAgree 0 0 []) w s (wentTo 0x1020)) = true := by decide +kernel

theorem test_bankApply :
    (let w := bankOp 0x43 [(216, 2, 3)]
     let s := ((at_ w id).setBank 0 3 { openBank with accs := [{ sum := 10 }] }).spadWrite 0 0x1000 (summary true)
     let m := leNat (s.spadRead 0 0x1000 640)
     bankOk w s && bit m 0 && summaryWin m == 0 && (s.bank 0 3).st == .opened &&
     tries 0x43 (.accApply 0 0 []) w s fun t => wentTo 0x1020 t && (t.bank 0 3).st == .agreed && (t.bank 0 3).agree == some 9 &&
       (t.bank 0 3).accs.all (fun a => a.maxexp == some 5 && a.sum == 10)) = true := by decide +kernel

/-- `ACC_FREE` of bank 3, and `ACC_READ` of a FREE and of an OPEN bank under `PART_DEBUG`. -/
theorem test_bankFreeAndRead :
    (let w := ins 0x44 [(216, 2, 3)]
     let s := (at_ w id).setBank 0 3 openBank
     bankOk w s && tries 0x44 (.accFree 0 0) w s fun t => wentTo 0x1020 t && (t.bank 0 3).st == .free && (t.bank 0 3).accs.isEmpty) &&
    [({} : Bank), openBank].all (fun B =>
     let w := bankOp 0x45 [(216, 2, 3)]
     let s := (((at_ w id).modPart 0 fun P => { P with debug := true }).setBank 0 3 B)
     Safety.issues 0x45 0 0 s w && bankOk w s && s.debugOpen 0 && (B.st == .free || B.accs.length == 256)) = true := by decide +kernel

/-- An operation of queue 0 on bank 0. -/
def meOp (mode : Nat) (phase : MePhase) : MeOp :=
  { qid := 0, ctx := 0, pc := 0, seq := 0, ins := mmaWord, regs := [], rcd := mma mode, t := 62, phase := phase, token := 7 * 2 ^ 48,
    tile := if phase = .output then List.replicate 256 { sum := 6 } else [] }

def withOp (mode : Nat) (phase : MePhase) (B : Bank) : State :=
  ((withMma mode).setBank 0 0 B).modMe 0 fun e => { e with ops := [meOp mode phase] }

theorem test_matrixEvents :
    (let s := withOp 0 .held {}
     !s.meBlocked 0 (meOp 0 .held) && (startCause (meOp 0 .held) [s.bank 0 0]).isNone && (s.meetsBad [] (s.meKeys 0 (s.mmaReads 0 (mma 0)))).isNone &&
     after (exec (.meOpStart 0 []) s) fun t => (t.bank 0 0).st == .busy && (t.me 0).ops.all (·.phase == .running)) &&
    (let s := withOp 1 .running { openBank with st := .busy }
     !MRec.isOut (mma 1) && after (exec (.arrayPassEnd 0) s) fun t => (t.bank 0 0).st == .opened && (t.me 0).ops.isEmpty) &&
    (let s := withOp 0 .running { openBank with st := .busy }
     MRec.isOut (mma 0) && after (exec (.arrayPassEnd 0) s) fun t => (t.bank 0 0).st == .free && (t.me 0).ops.all fun o => o.phase == .output && o.tile == openBank.accs) =
      true := by decide +kernel

/-- A tile of sums 6 leaves the output stage: bfloat16 6 (0x40C0) at 0x2000; its token is posted, or held where eight stand. -/
theorem test_matrixCompletes :
    (let s := withOp 0 .output {}
     MRec.post (mma 0) && !MRec.strict (mma 0) &&
     after (exec (.meOpComplete 0) s) fun t => (t.me 0).ops.isEmpty && (t.me 0).tokens.length == 1 && t.spadRead 0 0x2000 2 == leBytes 2 0x40C0 &&
       (t.me 0).tokens.all (fun x => bits x.token 63 48 == 7 && bits x.token 47 24 == 0x2000)) &&
    (let s := (withOp 0 .output {}).modMe 0 fun e => { e with tokens := List.replicate 8 ⟨0, 0, false⟩ }
     after (exec (.meOpComplete 0) s) fun t => (t.me 0).ops.all (·.phase == .tokenHeld) && (t.me 0).tokens.length == 8) &&
    (let s := (withOp 0 .output {}).modMe 0 fun e => { e with ops := e.ops.map fun o => { o with rcd := putField o.rcd 67 1 0 } }
     after (exec (.meOpComplete 0) s) fun t => (t.me 0).ops.isEmpty && (t.me 0).tokens.isEmpty) = true := by decide +kernel

/-- A transfer to bank 2 waits while the bank is OPEN, and is added once it is AGREED under agreement 9, up to the term limit. -/
theorem test_bankTransfers :
    (let x : BankXfer := { srcCore := 1, qid := 4, ctx := 0, pc := 0, seq := 0, dstCore := 0, dstBank := 2, dstHalf := 0, isExport := false,
                           accs := List.replicate 256 { sum := 3 }, terms := 2 ^ 29 - 5, agree := 9 }
     let s := { at_ 0 id with bankFlight := [x] }.setBank 0 2 openBank
     (xferVerdict (s.bank 0 2) x).isNone &&
     after (exec (.bankTransferArrive 0) s) fun t => t.bankFlight.isEmpty && (t.me 0).xfers == [x] &&
       (let u := t.setBank 0 2 { openBank with st := .agreed, agree := some 9 }
        xferVerdict (u.bank 0 2) x == some none &&
        after (exec (.bankTransferAdd 0) u) fun v => (v.me 0).xfers.isEmpty && (v.bank 0 2).terms == 2 ^ 29 && (v.bank 0 2).accs.all (·.sum == 13))) = true := by
  decide +kernel

/-- Terms 2^−1, which is tied and rounds to even, and 2^63, which is too large for window 0. -/
theorem test_elementTerms :
    let a : Acc := {}
    (a.term none).nonfinite = true ∧ a.term (some ⟨true, 0, 5⟩) = a ∧ (a.term (some ⟨false, 1, -1⟩)).sum = 0 ∧ (a.term (some ⟨false, 3, -1⟩)).sum = 2 ∧
    (a.term (some ⟨true, 2 ^ 63 - 1, 0⟩)).sum = -(2 ^ 63 - 1) ∧ (a.term (some ⟨false, 2 ^ 63, 0⟩)).ovf = true ∧
    (a.term (some ⟨false, 2 ^ 63, 0⟩)).sum = 0 ∧ ((a.term (some ⟨false, 2 ^ 63, 0⟩)).startReplay 2 0).win = 3 := by decide +kernel

theorem test_elementOrder :
    let l : List Val := [some ⟨false, 3, -1⟩, some ⟨true, 5, 2⟩, some ⟨false, 2 ^ 63, 0⟩]
    l.foldl Acc.term {} = l.reverse.foldl Acc.term {} := by decide +kernel

/-! ### Stream engine -/

/-- One element at 0x1000 to 0x2000 in bfloat16: a chain without stages, a `MERGE` of one entry to 0x3000, an `SGD` with LR = 1. -/
def seRec (kind : Nat) : Nat :=
  pack ([(412, 25, 0x1000), (292, 24, 1), (276, 16, 1)] ++
    match kind with
    | 0 => [(487, 25, 0x2000)]
    | 1 => [(260, 4, 6), (272, 4, 15), (139, 25, 0x3000), (50, 3, 6)]
    | _ => [(487, 25, 0x2000), (437, 25, 0x1010), (91, 24, 0x900), (36, 1, 1)])

def seWord : Nat := ins 0x50 [(192, 24, 0x800)]

def withSe (kind : Nat) : State :=
  let put (a : Nat) (bs : Bytes) (s : State) : State := s.spadWrite 0 a bs
  let s := put 0x800 (leBytes 64 (seRec kind)) (at_ seWord id)
  if kind = 1 then put 0x1000 (RedEntry.bytes { acc := { sum := 4 }, terms := 2 }) s
  else put 0x900 (leBytes 64 (pack [(256, 16, 0x3F80)])) (put 0x1010 (leBytes 2 0x3F00) (put 0x1000 (leBytes 2 0x3F80) s))

/-- The chain copies 1.0; the merged entry keeps its sum; the weight becomes 1 − 0.5. -/
theorem test_streamOperations :
    [(0, Instr.sop 0 0 [], 0x2000, leBytes 2 0x3F80), (1, .merge 0 0 [], 0x3000 + 16, leBytes 2 4), (2, .weightUpdate 0 0 [], 0x2000, leBytes 2 0x3F00)].all
      (fun x =>
      let s := withSe x.1
      let keys := (s.auxKeys 0 0x800 64 64).getD []
      let r := seRecord (s.queue 0) seWord (leNat (s.readKeys keys))
      let p := s.seParams 0 r
      Safety.untraced s 0 && s.seFree 0 0 0 && keys.length == 64 && (s.meetsBad [] keys).isNone && seKind r == x.1 && !SRec.tq r && (s.se 0).ops.isEmpty &&
      (s.seCause 0 r p true).isNone && (s.meetsBad [] (s.seReadKeys 0 r p)).isNone && (match s.doStream 0 r p with | .inr _ => true | .inl _ => false) &&
      tries 0x50 x.2.1 seWord s fun t => wentTo 0x1020 t && (t.se 0).ops.all (·.phase == .ran) && (t.se 0).ops.length == 1 &&
        t.spadRead 0 x.2.2.1 2 == x.2.2.2) = true := by decide +kernel

/-- A chain that waits for a token takes it, with IN0 at the token's 0x1000 in its format 0, and completes. -/
theorem test_streamTokens :
    (let o : SeOp := { qid := 0, ctx := 0, pc := 0, seq := 0, ins := seWord, regs := [], rcd := putField (seRec 0 + 2 ^ 39) 412 25 0, phase := .token }
     let v := tileToken 7 0x1000 0 0 {}
     let s := ((withSe 0).modSe 0 fun e => { e with ops := [o] }).modMe 0 fun e => { e with tokens := [⟨0, 0, true⟩, ⟨v, 0, false⟩] }
     let r := putField (putField o.rcd 412 25 (bits v 47 24)) 260 4 (bits v 23 20)
     (s.seCause 0 r 0 true).isNone && (s.meetsBad [] (s.seReadKeys 0 r 0)).isNone && (match s.doStream 0 r 0 with | .inr _ => true | .inl _ => false) &&
     after (exec (.tileTokenTake 0 []) s) fun t => (t.me 0).tokens == [⟨0, 0, true⟩, ⟨v, 0, true⟩] &&
       (t.se 0).ops.all (fun y => y.phase == .ran && y.token == some v) && t.spadRead 0 0x2000 2 == leBytes 2 0x3F80 &&
       after (exec (.seOpComplete 0) t) fun u => (u.se 0).ops.isEmpty && (u.me 0).tokens == [⟨0, 0, true⟩]) = true := by decide +kernel

/-! ### DMA engine -/

/-- Two bytes from 0x1000 of the scratchpad of core 0 to module memory at 0x4000, with completion flag 7; lists at 0xA00; a bank transfer to bank 2. -/
def dmaDesc (op : Nat) : Nat :=
  pack ([(270, 4, op)] ++ if op = 4 then [(222, 2, 2)] else
    [(448, 64, spadKey 0 0x1000), (384, 64, 0x4000), (360, 24, 0x880), (336, 24, 0xA00), (320, 16, if op = 0 then 0 else 1), (304, 16, 7),
      (274, 2, if op = 3 then 0 else 2), (266, 4, 0)])

/-- All extents and counts 1. -/
def dmaShape : Nat := pack ((List.range 8).map fun i => (384 + 32 * i, 32, 1))

def dmaWord : Nat := ins 0x60 [(192, 24, 0x800)]

def withDma (op : Nat) : State :=
  let s := (at_ dmaWord id).spadWrite 0 0x800 (leBytes 64 (dmaDesc op))
  let s := (s.spadWrite 0 0x880 (leBytes 128 dmaShape)).spadWrite 0 0x1000 [5, 6]
  if op = 4 then s.setBank 0 0 { openBank with st := .agreed, agree := some 9 } else s

theorem test_dmaAccepted :
    [(0, Instr.xfer 0 0 []), (1, .gather 0 0 []), (2, .scatter 0 0 []), (3, .scatterAdd 0 0 []), (4, .bank 0 0)].all (fun x =>
      let s := withDma x.1
      let raw := dmaDesc x.1
      let d := dmaDescriptor (s.queue 0) dmaWord raw
      let h := if x.1 = 4 then 0 else dmaShape
      s.deFree 0 0 0 && s.dmaRecord 0 [] 0x800 64 == .inr raw && DRec.op d == x.1 && descriptorOk d &&
      (x.1 == 4 || s.dmaRecord 0 [] 0x880 128 == .inr h) && (s.dmaCause 0 0 0x800 d h).isNone &&
      tries 0x60 x.2 dmaWord s fun t => wentTo 0x1020 t && (t.de 0).active.any fun y => y.desc == d && y.shape == h && y.descAddr == 0x800) = true := by
  decide +kernel

/-- A transfer of queue 0 of the kind that `dmaDesc 0` describes. -/
def xferOf (started : Bool) : DeXfer :=
  { qid := 0, ctx := 0, pc := 0x40, seq := 3, ins := dmaWord, regs := [], causal := 0, descAddr := 0x800, desc := dmaDesc 0, shape := dmaShape,
    started := started, written := if started then 1 else 0 }

/-- The life of a transfer: it moves up and moves 05 06 to 0x4000, writes its status word, and raises flag 7; or it faults with 0x45. -/
theorem test_dmaLife :
    (let s := (withDma 0).modDe 0 fun e => { e with shadow := some (xferOf false) }
     (s.de 0).active.isNone && (s.de 0).waiting.isEmpty &&
     after (exec (.shadowStart 0 []) s) fun t => (t.de 0).shadow.isNone && (t.de 0).active.any (fun y => y.started && y.written == 1 && y.desc == dmaDesc 0) &&
       t.modRead 0x4000 2 == [5, 6]) &&
    (let s := (withDma 0).modDe 0 fun e => { e with active := some (xferOf true) }
     Safety.untraced s 0 && after (exec (.statusWordWrite 0) s) fun t => (t.de 0).active.isNone && (t.de 0).waiting == [xferOf true] &&
       t.spadRead 0 0x800 8 == leBytes 8 ((xferOf true).status (leNat (s.spadRead 0 0x800 8)) 0 false)) &&
    (let s := (withDma 0).modDe 0 fun e => { e with waiting := [xferOf true] }
     DRec.sigKind (dmaDesc 0) == 2 && !DRec.sigRemote (dmaDesc 0) &&
     after (exec (.boundCompletion 0 0) s) fun t => (t.de 0).waiting.isEmpty && t.sync.bound.length == 1 && t.sync.bound.all fun b => b.obj == 7 && b.kind == 2) &&
    (let s := (withDma 0).modDe 0 fun e => { e with waiting := [{ xferOf true with desc := dmaDesc 3 }] }
     DRec.sigKind (dmaDesc 3) == 0 && after (exec (.boundCompletion 0 0) s) fun t => (t.de 0).waiting.isEmpty && t.sync.bound.isEmpty) &&
    (let s := (withDma 0).modDe 0 fun e => { e with active := some { xferOf true with cause := 0x45 } }
     (s.queue 0).ctx == some 0 && after (exec (.dmaTransferFault 0) s) fun t => (t.de 0).active.isNone && (t.queue 0).st == .faulted &&
       (t.queue 0).fault.cause == 0x45 && (t.queue 0).fault.pc == 0x40 && (t.queue 0).fault.detail == 0x800) = true := by decide +kernel

theorem test_dmaElement :
    (let s := withDma 0
     let d := dmaDesc 0
     let sa := spadKey 0 0x1000
     let x : XRun := { s := s }
     let y := x.step 0 [] d dmaShape [] { src := some sa, dst := some 0x4000, kind := .plain }
     DRec.op d == 0 && DRec.fmt d == 0 && sa / 2 ^ 56 == 1 && (s.place sa).isSome && (s.place 0x4000).isSome &&
     (s.meetsBad [] (s.addrKeys sa (srcSize d))).isNone && y.cause == 0 && y.written == 1 && y.s.modRead 0x4000 3 == [5, 6, 0]) = true := by decide +kernel

/-! ### Module memory -/

theorem test_patrol :
    (let ch := (on.lineAt 0).1
     decide ((on.memUnit (unitOf 0)).st ≠ .free) &&
     after (exec (.patrolScrub 0 ch 0 0) on) (fun t => t.mem == on.mem) &&
     after (exec (.patrolScrub 0 ch 0 1) on) (fun t => (t.subch 0 ch).ce == 1) &&
     after (exec (.patrolScrub 0 ch 0 2) on) (fun t => t.mem.bad.length == 1 && t.rel.cper.length == 1) &&
     (let s := on.modSubch 0 255 fun x => { x with st := 1, ce := 127 }
      after (exec (.patrolPeriodEnd 0 255) s) fun t => (t.subch 0 255).ce == 0 && (t.subch 0 255).st == 0) &&
     (let s := on.modSubch 0 255 fun x => { x with st := 1, ce := 128 }
      after (exec (.patrolPeriodEnd 0 255) s) fun t => (t.subch 0 255).ce == 0 && (t.subch 0 255).st == 1)) = true := by decide +kernel

/-- Sub-channel 9 of die 0 is pending: its copy starts; a copy ends, and it is SPARED. -/
theorem test_sparingStarts :
    (let s := on.modSubch 0 9 fun x => { x with st := 2 }
     (s.die 0).pending == [9] && !(s.die 0).copying && s.power.startStep.isNone &&
     after (exec (.sparingCopyStart 0) s) fun t => (t.die 0).events.all (fun e => e.f == 9 && !e.complete) && (t.subch 0 9).st == 3) = true := by
  decide +kernel

theorem test_sparingEnds :
    (let e : Sparing := { f := 9, survivors := [0], base := [0], live := 0, complete := false, ptr := 0 }
     let s := (on.modSubch 0 9 fun x => { x with st := 3 }).modDie 0 fun D => { D with events := [e] }
     (s.die 0).events.find? (s.die 0).runs == some e && decide ((s.copyBad 0 9 []).length ≤ 4096 - (s.die 0).poison.length) &&
     after (exec (.sparingCopyEnd 0 []) s) fun u => (u.die 0).events.all (·.complete) && (u.subch 0 9).st == 4) = true := by decide +kernel

/-- Unit 1 is cleared; the byte below it and the byte above it stay. -/
theorem test_unitClear :
    (let s := on.modUnit 1 fun u => { u with st := .clearing, toOwned := true }
     let s := (s.modWrite (unitBase 1 - 1) [1, 2]).modWrite (unitBase 1 + unitBytes - 1) [3, 4]
     let s := s.modDie 0 fun x => { x with clearQ := [1] }
     after (exec (.unitClearStart 0) s) fun t => (t.die 0).clearQ.isEmpty && (t.die 0).clearing == some (1, false) && !(t.memUnit 1).revoking &&
       after (exec (.unitClearEnd 0) t) fun u => (u.die 0).clearing.isNone && (u.memUnit 1).st == .owned &&
         u.mem.cells == [(unitBase 1 - 1, 1), (unitBase 1 + unitBytes, 4)]) = true := by decide +kernel

/-! ### Walien links -/

/-- Module 0 of a torus of two modules in x; its port W0 faces port W1 of module 128. -/
def net : State := { on with fab := { on.fab with moduleId := 0x8000, dims := 0x1000 } }
def netPort (p : Port) : State := net.modPort 0 fun _ => p
def right : LinkReport := { peerId := 128, peerValid := true, peerPort := 1, peerExternal := false, lanes := 6 }
def upPort : Port := { st := .up, lanes := 8, credits := fullCredits, peerId := 128, peerPort := 1, peerValid := true }

theorem test_portsComeUp :
    net.fab.moduleId.testBit 15 && torusSize net.fab.dims 0 == 2 && net.expectedPeer 0 == (128, 1) &&
    after (exec (.linkUp 0 right) (netPort { st := .training })) (fun t => (t.port 0).st == .up && (t.port 0).lanes == 6 && (t.port 0).credits == fullCredits) &&
    after (exec (.linkUp 0 { right with peerExternal := true }) (netPort { st := .training })) (fun t => (t.port 0).st == .securing && !(t.port 0).encrypted &&
      (t.port 0).ctl == [.chain, .encapsKey, .signature]) &&
    after (exec (.linkUp 0 right) (netPort { st := .waitId })) (fun t => (t.port 0).st == .up) &&
    after (exec (.linkSecuring 0 true 0) (netPort { upPort with st := .securing, slots := 3, peerExt := true })) (fun t => (t.port 0).st == .up && (t.port 0).encrypted && (t.port 0).slots == 0) &&
    after (exec (.linkSecuring 0 false 255) (netPort { upPort with st := .securing })) (fun t => (t.port 0).secWait && t.rel.cper.length == 1) &&
    after (exec (.securingRetry 0) (netPort { upPort with st := .securing, secWait := true })) (fun t => !(t.port 0).secWait && (t.port 0).ctl.length == 3) = true := by decide +kernel

theorem test_lanes :
    after (exec (.rekey 0) (netPort { upPort with encrypted := true, slots := 2 ^ 36 })) (fun t => (t.port 0).keyId == 1 && (t.port 0).slots == 0) &&
    after (exec (.rekey 0) (netPort { upPort with encrypted := true, slots := 2 ^ 36 - 1 })) (fun t => (t.port 0).keyId == 0) &&
    after (exec (.laneBad 0 7) (netPort { upPort with lanes := 6, pairsOff := 1 })) (fun t => (t.port 0).lanes == 6 && (t.port 0).st == .up &&
      (t.port 0).ctl == [.width 9 0] && after (exec (.flitSend 0) t) fun u => (u.port 0).lanes == 4 && (u.port 0).pairsOff == 9 && (u.port 0).nextLseq == 1) &&
    after (exec (.laneBad 0 7) (netPort { upPort with lanes := 4, pairsOff := 3 })) (fun t => (t.port 0).st == .failed) &&
    after (exec (.laneBad 0 7) (netPort { upPort with st := .miswired, lanes := 4, pairsOff := 3 })) (fun t => (t.port 0).st == .failed) &&
    after (exec (.lanePairTest 0 8) (netPort { upPort with lanes := 6, pairsOff := 8 })) (fun t => (t.port 0).ctl == [.width 0 0]) &&
    after (exec (.vc0TokenRefill 0) (netPort { upPort with vc0Tokens := 63 })) (fun t => (t.port 0).vc0Tokens == 64) = true := by decide +kernel

def aFlit : Flit := { flit with type := 1, dst := 128, len := 16, payload := List.replicate 16 9 }

/-- What a port sends in its next slot. -/
def sends (p : Port) (P : State → Flit → Bool) : Bool :=
  after (exec (.flitSend 0) (netPort p)) fun t => match t.outbox with | [.flit 0 f, .frame 0 _] => P t f && f.lack == (p.expLseq + 4095) % 4096 | _ => false

theorem test_flitSlots :
    sends { upPort with retryDue := true } (fun t f => f.type == 2 && !(t.port 0).retryDue) &&
    sends { upPort with replay := [{ aFlit with lseq := 5 }], expLseq := 1 } (fun t f => f.lseq == 5 && f.lack == 0 && (t.port 0).replay.isEmpty) &&
    ({ upPort with txq := [(0, aFlit)], nextLseq := 4095 } : Port).pick 0x0301 ==
      (some (0, aFlit), { upPort with txq := [(0, aFlit)], nextLseq := 4095, vc0Tokens := 63 }) &&
    sends { upPort with txq := [(0, aFlit)], nextLseq := 4095 } (fun t f => f.lseq == 4095 && (t.port 0).nextLseq == 0 && (t.port 0).retry.length == 1 &&
      (t.port 0).txq.isEmpty && Tbl.get 0 (t.port 0).credits 0 == 15) &&
    sends { upPort with st := .training, ctl := [.chain], nextLseq := 7 } (fun t f => f.type == 3 && f.lseq == 7 && (t.port 0).ctl.isEmpty &&
      (t.port 0).nextLseq == 8) &&
    sends { upPort with encrypted := true, txq := [(0, { aFlit with len := 240, first := true, last := true, payload := List.replicate 240 9 })] } (fun t f =>
      f.len == 224 && f.first && !f.last && (t.port 0).txq.map (fun x => (x.2.len, x.2.first, x.2.last)) == [(16, false, true)]) &&
    sends upPort (fun t f => f.type == 0 && (t.port 0).nextLseq == 0) = true := by decide +kernel

/-- A header field by field (R302): `TYPE` 1, `VC` 2, `DST` 0x405, `LSEQ` 0xABC, `LEN` 240, `FIRST`. -/
theorem test_header :
    headerWord { plainFlit 1 with vc := 2, dst := 0x405, lseq := 0xABC, len := 240, first := true } =
      1 * 2 ^ 92 + 2 * 2 ^ 90 + 0x405 * 2 ^ 78 + 0xABC * 2 ^ 35 + 240 * 2 ^ 7 + 2 ^ 6 := by decide +kernel

/-- CRC-32C of the nine digits is 0xE3069283, and a frame is 256 bytes that read back. -/
theorem test_frame :
    (let f : Flit := { flit with type := 1, src := 128, sseq := 9000, dirs := 5, len := 2, last := true, payload := slice [7, 8] 0 240, intact := true }
     crc32c [0x31, 0x32, 0x33, 0x34, 0x35, 0x36, 0x37, 0x38, 0x39] == 0xE3069283 &&
     (plainFrame f).length == 256 && readFrame (plainFrame f) == f &&
     !(readFrame ((plainFrame f).set 40 1)).intact) = true := by decide +kernel

/-- Flits that arrive at W0: in order, out of order, spoiled, IDLE, LINKCTL and RETRY. -/
theorem test_flitsArrive :
    (let f := { aFlit with dst := 0, src := 128, lseq := 4095, lack := 4 }
     let p := { upPort with expLseq := 4095, retry := [{ aFlit with lseq := 4 }, { aFlit with lseq := 5 }] }
     let s := netPort p
     after (exec (.msgFlitReceive 0 f) s) (fun t => (t.port 0).expLseq == 0 && (t.port 0).retry.length == 1) &&
     after (exec (.msgFlitReceive 0 { f with lseq := 1 }) s) (fun t => (t.port 0).expLseq == 4095 && (t.port 0).retry.length == 1 && t.fab.rx.isEmpty) &&
     after (exec (.msgFlitReceive 0 { f with intact := false, tagBad := true }) (netPort { p with tagFails := 14, encrypted := true })) (fun t =>
       (t.port 0).retryDue && (t.port 0).tagFails == 15 && (t.port 0).retry.length == 2) &&
     after (exec (.msgFlitReceive 0 { f with intact := false, tagBad := true }) (netPort { p with tagFails := 15, encrypted := true })) (fun t => (t.port 0).st == .failed) &&
     after (exec (.msgFlitReceive 0 { f with type := 9 }) s) (fun t => (t.port 0).retryDue && (t.port 0).expLseq == 4095) &&
     after (exec (.idleFlitReceive 0 { f with type := 0 }) s) (fun t => (t.port 0).expLseq == 4095 && (t.port 0).retry.length == 1) &&
     after (exec (.linkctlFlitReceive 0 { f with type := 3 }) s) (fun t => (t.port 0).expLseq == 0) &&
     (let p := { p with tries := [(4, 15)] }
      let g := { f with type := 2, lack := 3 }
      (p.heed g).tries == [(4, 15)] && (p.heed g).retry.length == 2 &&
      after (exec (.retryFlitReceive 0 g) (netPort p)) fun t => (t.port 0).replay == p.retry)) = true := by decide +kernel

theorem test_replays :
    (let p := { upPort with retry := [aFlit] }
     after (exec (.replayTimeout 0) (netPort { p with tries := [(0, 15)] })) (fun t => (t.port 0).replay == [aFlit]) &&
     after (exec (.replayTimeout 0) (netPort { p with tries := [(0, 16)] })) (fun t => (t.port 0).st == .training && (t.port 0).retraining) &&
     after (exec (.portRetrainEnd 0 true) (netPort { p with st := .training, retraining := true })) (fun t => (t.port 0).st == .up && (t.port 0).replay == [aFlit]) &&
     after (exec (.portRetrainEnd 0 false) (netPort { p with st := .training, retraining := true })) (fun t => (t.port 0).st == .failed && (t.port 0).lanes == 0) &&
     after (exec (.failedPortRetry 0) (netPort { upPort with st := .failed })) (fun t => (t.port 0).retraining)) = true := by decide +kernel

/-! ### Sessions of the fabric -/

/-- Partition 0's sessions with partition 0 of module 128 are open. -/
def withPeer (S : Session) : State :=
  (pairKeys 0 128).foldl (fun s k => s.modSession k fun _ => S) (net.modPart 0 fun P => { P with peers := [(128, 8)] })

def linked : State := withPeer { st := .opened, rxSeq := 5 }

def fromPeer (op vc addr : Nat) (data : Bytes) : FabMsg := { message with op := op, src := 128, dst := 0, vc := vc, addr := addr, data := data, sseq := 5 }

/-- The replies that a step sends. -/
def messages (t : State) : List FabMsg := t.outbox.filterMap fun o => match o with | .message m => some m | _ => none

def routes : Bool := (route net.fab.dims net.fab.linkMap net.myId 128).isSome

/-- Two bytes at the end of unit 0, and a read of them. -/
theorem test_remoteAccess :
    (let a := unitBytes - 2
     let m := fromPeer 0x01 1 a [7, 8]
     routes && (linked.session (sessAt m)).mayAck linked.clockUs && linked.arrival m == .next && linked.linksOn && (linked.part 0).traceBytes == 0 && linked.remoteKeys m 2 == some [a, a + 1] &&
     after (exec (.fabWrite m) linked) fun t => t.mem.cells == [(a, 7), (a + 1, 8)] && (t.session (sessAt m)).rxSeq == 6 &&
       (messages t).all (fun x => x.op == 5 && x.status == 0 && x.dst == 128 && x.sseq == 5) && (messages t).length == 1 &&
       (let r := { fromPeer 0x02 2 a [] with len := 2, tag := 9 }
        t.arrival r == .next && t.remoteKeys r 2 == some [a, a + 1] && (t.meetsBad [] [a, a + 1]).isNone &&
        after (exec (.readReq r) { t with outbox := [] }) fun u => (messages u).all (fun x => x.op == 3 && x.tag == 9 && x.data == [7, 8]) && (messages u).length == 1)) =
      true := by decide +kernel

/-- The last answer to a read of a transfer, and one before the last. -/
theorem test_readResponses :
    [[(9, 0x100)], [(9, 0x100), (10, 0x200)]].all (fun reads =>
      let m := { fromPeer 0x03 2 0 [7, 8] with tag := 9 }
      let o : Outstanding := { msg := { message with op := 2, tag := 9 }, de := some (0, 0, 0x40, 3) }
      let x := { xferOf true with reads := reads, remote := 2 }
      let s := (withPeer { st := .opened, out := [o] }).modDe 0 fun e => { e with active := some x }
      let k := State.sessKey 0 2 128
      (s.session k).out.find? (fun o => decide (o.msg.op = 0x02) && decide (o.msg.tag = m.tag)) == some o && (s.session k).waitq.isEmpty &&
      after (exec (.readResp m) s) fun t => (t.de 0).active.any fun y => y.reads == reads.drop 1 && y.qid == 0 && y.seq == 3 &&
        (reads.length == 1 || (y.remote == 1 && y.got.map (·.2) == [[7, 8]]))) = true := by decide +kernel

/-- A remote `SIG` of 1 to a counter at 65,534. -/
theorem test_remoteSignal :
    (let m := fromPeer 0x04 0 (pack [(0, 16, 5), (16, 8, 0x70), (24, 16, 1)]) []
     let s := linked.setObj 5 counter
     let p := syncOpOf (((s.takeRx m).expectNext m).delivered m) m
     s.arrival m == .next && (s.session (sessAt m)).held.isEmpty && !s.syncFrozen m && p.opc == 0x70 && p.obj == 5 &&
     (s.obj 5).take p == .inr ({ counter with count := 65535 }, []) &&
     after (exec (.sync m) s) fun t => (t.obj 5).count == 65535 && (messages t).map (·.op) == [5]) = true := by decide +kernel

theorem test_acknowledgements :
    (let o : Outstanding := { msg := { message with op := 1, sseq := 2 ^ 14 - 1, dst := 128 } }
     let s := withPeer { st := .opened, out := [o], resends := 3 }
     let k := State.sessKey 0 1 128
     let ack : FabMsg := { fromPeer 0x05 3 1 [] with sseq := 0 }
     after (exec (.ack ack) s) (fun t => (t.session k).out.isEmpty && (t.session k).resends == 0) &&
     after (exec (.hold { fromPeer 0x06 3 1 [] with sseq := 2 ^ 14 - 1 }) s) (fun t => (t.session k).holding) &&
     after (exec (.sessionResendTimeout 0 1 128) (withPeer { st := .opened, out := [o], resends := 15 })) (fun t =>
       (t.session k).resends == 16 && messages t == [o.msg]) &&
     after (exec (.sessionResendTimeout 0 1 128) (withPeer { st := .opened, out := [o], resends := 16 })) (fun t =>
       (t.session k).st == .failed && (t.session k).out.isEmpty)) = true := by decide +kernel

theorem test_sessionsOpen :
    (let req := fromPeer 0x10 3 0 []
     let reply := fromPeer 0x11 3 0 []
     let k := State.sessKey 0 0 128
     let opening := withPeer { st := .opening }
     routes && !linked.openBusy && after (exec (.openReq req) linked) (fun t => t.fab.openQ == [req]) &&
     (let s := { linked with power := { linked.power with ready := false } }
      s.openBusy && after (exec (.openReq req) s) fun t => t.fab.openQ.isEmpty && (messages t).map (·.op) == [0x11]) &&
     (let s := { withPeer {} with fab := { (withPeer {}).fab with openQ := [req] } }
      (s.part 0).peer 128 == some 0 && after (exec .openQueueServe s) fun t => t.fab.openQ.isEmpty && (t.session k).st == .opened && (messages t).map (·.status) == [0]) &&
     after (exec (.openReply reply) opening) (fun t => (pairKeys 0 128).all fun k => (t.session k).st == .opened) &&
     after (exec (.openReply { reply with status := St.notReady }) opening) (fun t => Tbl.get 0 t.fab.openRetry 128 == 1) &&
     after (exec (.openReply { reply with status := St.noPeer }) opening) (fun t => (t.session k).st == .closed) &&
     (let s := { opening with fab := { opening.fab with openRetry := [(128, 1)] } }
      after (exec (.openRetry 0 128) s) fun t => (messages t).map (·.op) == [0x10]) &&
     [SessSt.failed, .closed].all (fun st =>
      let s := withPeer { st := st }
      s.myId == 0 && s.mayOpen 0 128 && after (exec (.sessionReopen 0 128) s) fun t => (t.session k).st == .opening && (messages t).map (·.op) == [0x10])) = true := by decide +kernel

/-- Of two writes in a microsecond the second is acknowledged in the next one; a refused one has its own acknowledgement. -/
theorem test_ackPace :
    (let m := fromPeer 0x01 1 (unitBytes - 2) [7]
     after (exec (.fabWrite m) linked) (fun t =>
       let m := { m with sseq := 6 }
       after (exec (.fabWrite m) { t with outbox := [] }) (fun u => (messages u).isEmpty && (u.session (sessAt m)).ackDue == [(m, 0)] &&
         (messages u.idle).map (fun x => (x.op, x.sseq)) == [(5, 6)] && (u.idle.session (sessAt m)).ackDue.isEmpty) &&
       after (exec (.fabWrite { m with addr := 0 - 1 }) { t with outbox := [] }) (fun u => (messages u).length == 0) &&
       after (exec (.readReq { fromPeer 0x02 2 (2 ^ 45) [] with len := 4 }) { t with outbox := [] }) (fun u =>
         (messages u).map (fun x => (x.op, x.status)) == [(5, 0x141)]))) = true := by decide +kernel

/-- A class that FAILED alone reopens the pair; an unreachable peer closes what was OPENING and fails what was OPEN (R315, R319). -/
theorem test_sessionStates :
    (let k := State.sessKey 0 1 128
     let s := linked.modSession k fun S => { S with st := .failed }
     s.mayOpen 0 128 && !linked.mayOpen 0 128 &&
     after (exec (.sessionReopen 0 128) s) (fun t => (pairKeys 0 128).all fun k => (t.session k).st == .opening) &&
     (let lost := (List.range 2).map fun j => 8 * 0 + j
      (((withPeer { st := .opening }).setMap lost).session k).st == .closed && ((linked.setMap lost).session k).st == .failed)) = true := by decide +kernel

theorem test_sessionsClose :
    (let k := State.sessKey 0 0 128
     after (exec (.close (fromPeer 0x12 3 0 [])) linked) (fun t => (t.session k).st == .closed && (messages t).map (·.op) == [0x13]) &&
     after (exec (.closeReply (fromPeer 0x13 3 0 [])) (withPeer { st := .closing })) (fun t => (t.session k).st == .closed) &&
     (let m := fromPeer 0x20 3 0x20 []
      decide (m.src ≠ net.myId) && after (exec (.linkState 0 m) net) fun t => t.fab.linkMap == [8 * 128 + 5])) = true := by decide +kernel

/-! ### Collectives -/

/-- An instance of operation `op` in group 3 of modules 0 and 128, with trigger object 5, done object 6, round block at 0x900 and status record at
0xA00 of module memory, two rounds, and one tile. -/
def instOf (op : Nat) (phase : InstPhase) : Inst :=
  { h := 4, ctx := 0, part := 0, layout := { epoch := 1, origin := 0, px := 2, py := 1, pz := 1 }, phase := phase, sig := 77,
    blk := pack [(159, 4, op), (155, 4, 3), (280, 16, 5), (232, 16, 6), (1664, 64, 0x900), (1600, 64, 0xA00), (480, 32, 2), (387, 29, 512)] }

/-- A message of operation `op` for it, with a signature and an epoch. -/
def xch (op sig epoch : Nat) (body : Bytes) : FabMsg :=
  fromPeer op 1 0 (leBytes 16 (pack [(96, 32, sig), (80, 16, epoch), (76, 4, 3)]) ++ body)

def withInst (x : Inst) : State := linked.modPart 0 fun P => { P with insts := [x] }

def xchRows : List (Nat × (FabMsg → Instr)) :=
  [(0x30, .xchRoll), (0x31, .xchAgree), (0x32, .xchWx), (0x33, .xchBfx), (0x34, .xchProbe), (0x35, .xchPiece), (0x36, .xchCount), (0x37, .xchQuota),
    (0x38, .xchToken), (0x39, .xchReturn), (0x3A, .xchAbort)]

/-- No instance is there: each message is held. -/
theorem test_exchangeHeld :
    xchRows.all (fun r =>
      let m := xch r.1 77 1 []
      linked.powered && linked.arrival m == .next && (linked.part 0).xheld.isEmpty && (linked.takerOf m).isNone &&
      after (exec (r.2 m) linked) fun t => (t.part 0).xheld == [m] && (t.session (sessAt m)).rxSeq == 6) = true := by decide +kernel

/-- An instance in the phase of each message takes it. -/
theorem test_exchangeTaken :
    (xchRows.zip [instOf 1 .roll, instOf 1 .agree, instOf 1 .data, { instOf 1 .data with blk := (instOf 1 .data).blk + 2 ^ 154 }, instOf 5 .data, instOf 4 .data,
      instOf 6 .count, instOf 6 .quota, instOf 6 .data, instOf 7 .data, instOf 1 .data]).all (fun r =>
      let m := xch r.1.1 77 1 []
      let s := withInst r.2
      s.arrival m == .next && s.takerOf m == some r.2 && (r.2.h == 4)) &&
    (let m := xch 0x36 77 1 []
     after (exec (.xchCount m) (withInst (instOf 6 .count))) fun t => (t.part 0).xheld.isEmpty && (t.session (sessAt m)).rxSeq == 6) &&
    (let m := xch 0x3A 77 1 (leBytes 2 0x26 ++ leBytes 2 128)
     after (exec (.xchAbort m) (withInst (instOf 1 .data))) fun t => (t.part 0).xheld.isEmpty &&
       (t.part 0).insts.all fun y => y.phase == .ending && y.status == 0x26 && y.causeModule == 128) = true := by decide +kernel

/-- A signature that differs, an epoch that differs, and counts of one of three members. -/
theorem test_exchangeOutcomes :
    (let x := instOf 1 .roll
     ((withInst x).takeX x (xch 0x30 78 1 [])).parts.all fun P => P.2.insts.all fun y => y.phase == .ending && y.status == St.paramMismatch && y.causeModule == 0) &&
    (let x := instOf 1 .roll
     ((withInst x).takeX x (xch 0x30 77 2 [])).parts.all fun P => P.2.insts.all fun y => y.phase == .ending && y.status == St.epochMismatch) &&
    (let x := { instOf 6 .count with layout := { epoch := 1, origin := 0, px := 3, py := 1, pz := 1 } }
     ((withInst x).takeX x (xch 0x36 77 1 [])).parts.all fun P => P.2.insts.all fun y => y.phase == .count && y.arrived.length == 1) = true := by decide +kernel

/-- A trigger starts round 0 of a probe; its end raises object 6 and leads to round 1, or removes the instance after its last round or when it is cancelled. -/
theorem test_rounds :
    (let x := instOf 5 .trigger
     let s := { withInst x with sync := { (withInst x).sync with granted := [.coll 0 4] } }
     s.inst 0 4 == some x && (s.ctx 0).st == .resident &&
     after (exec (.roundTrigger 0 4) s) fun t => (t.part 0).insts.all (fun y => decide (y.phase ≠ .trigger) && y.round == 0) && (t.part 0).insts.length == 1) &&
    (let x := instOf 5 .ending
     after (exec (.roundEnd 0 4) (withInst x)) fun t => t.sync.bound.length == 1 && t.sync.bound.all (fun b => b.obj == 6 && b.origin == 2) &&
       (t.part 0).insts.all fun y => y.phase == .trigger && y.round == 1 && y.status == 0) &&
    [{ instOf 5 .ending with cancel := true }, { instOf 5 .ending with round := 1 }].all (fun x =>
     after (exec (.roundEnd 0 4) (withInst x)) fun t => t.sync.bound.length == 1 && (t.part 0).insts.isEmpty) &&
    after (exec (.roundTimeout 0 4) (withInst (instOf 5 .data))) (fun t => (t.part 0).insts.all fun y => y.phase == .ending && y.status == St.timeout) = true := by
  decide +kernel

/-- An exported bank of tile 1 of two tiles is staged. -/
theorem test_exports :
    (let x := { instOf 1 .data with blk := (instOf 1 .data).blk + 2 ^ 152 + 1000 * 2 ^ 328 }
     let e : BankXfer := { srcCore := 0, qid := 0, ctx := 0, pc := 0, seq := 0, dstCore := 0, dstBank := 0, dstHalf := 0, isExport := true,
                           accs := [{ sum := 4, win := -62 }], terms := 1, agree := 1001 }
     let s := { withInst x with bankFlight := [e] }
     s.exportTo e == some (x, 1) && x.window 256 == -62 && IBlk.tiles x.blk == 2 && !x.exported.contains 1 &&
     after (exec (.exportBank 0) s) fun t => t.bankFlight.isEmpty && (t.part 0).insts.all fun y => y.exported == [1] && y.phase == .data) = true := by
  decide +kernel

theorem test_heldAndLayouts :
    (let m := xch 0x30 77 1 []
     let s := linked.modPart 0 fun P => { P with xheld := [m] }
     (s.takerOf m).isNone && m.dpart == 0 && after (exec (.xchHoldTimeout 0 0) s) fun t => (t.part 0).xheld.isEmpty) &&
    (let l : Layout := { epoch := 1, origin := 0, px := 2, py := 1, pz := 1 }
     let G (w : Option Layout) : State := linked.modPart 0 fun P => { P with groups := [(15, some { cur := { l with epoch := 65535 }, old := [l], waiting := w })] }
     after (exec (.layoutDrained 0 15) (G none)) (fun t => t.group 0 15 == some { cur := { l with epoch := 65535 } }) &&
     after (exec (.layoutDrained 0 15) (G (some l))) (fun t => t.group 0 15 == some { cur := { l with epoch := 0 }, old := [{ l with epoch := 65535 }] })) =
      true := by decide +kernel

/-! ### Kentis -/

/-- A command of ring 0 of partition 0. -/
def cmd (op : Nat) (fs : List (Nat × Nat × Nat)) : Cmd := { id := 0, src := .ring 0 0, slot := pack ((32, 16, op) :: fs) }

def ask (c : Cmd) (s : State) : State := { s with cmds := [c] }

def here : CmdSrc := .ring 0 0

/-- It is the command's turn, what it needs holds, and the step leaves what `P` says. -/
def acts (op : Nat) (i : Instr) (c : Cmd) (s : State) (ok : Bool) (P : State → Bool) : Bool :=
  Safety.hasTurn op here (ask c s) c && ok && after (exec i (ask c s)) P

def completed (c : Cmd) (status result : Nat) (t : State) : Bool := t.cmds == [c.complete status result]

theorem test_identify_allowed : Safety.hasTurn 0x02 here (ask (cmd 0x02 []) on) (cmd 0x02 []) = true := by decide +kernel

/-- A core map with queue 0 of core 1 at 0x5000 of module memory, for a save area at 64 KiB that just suffices. -/
theorem test_ctxCreate :
    (let s := on.modWrite 0x5002 [1, 0]
     let bs := s.addrRead 0x5000 512
     let y : Ctx := { st := .resident, saveAddr := 65536, saveBytes := 8192 + 1024, cmap := [(1, 1)] }
     let c := cmd 0x10 [(128, 64, 65536), (192, 64, 8192 + 1024), (256, 64, 0x5000)]
     Safety.hasTurn 0x10 here (ask c s) c &&
       (s.kRead 0 0x5000 512 [0] == .inr bs && coreMap bs == [(1, 1)] && (s.setCtx 1024 y).saveNeed 1024 == 8192 + 1024 &&
         s.okRange 0 65536 (8192 + 1024) true [0] && (s.mapRefusal 0 1024 [(1, 1)] 0 0).isNone && !(s.part 0).refusing &&
         ((List.range 1024).find? fun i => decide ((s.ctx i).st = .none)) == some 1)) = true := by decide +kernel

theorem test_ctxDestroyAndSuspend :
    (let s := on.setQueue 0 (running 0)
     acts 0x11 (.ctxDestroy here) (cmd 0x11 []) s ((s.ctx 0).part == 0 && (s.ctx 0).st == .resident) (fun t => (t.ctx 0).st == .destroying && (t.queue 0).st == .stopped) &&
     acts 0x12 (.ctxSuspend here) (cmd 0x12 []) s (s.hasCtx 0 0 && (s.ctx 0).st == .resident && decide (s.ctx 0).queues.Nodup) fun t =>
       (t.ctx 0).st == .suspending && (t.queue 0).st == .suspended && (t.queue 0).saved == .running) = true := by decide +kernel

/-- A destroyed context that has drained; a suspending one that has drained: what each completion needs. -/
theorem test_ctxEnds :
    (let c := { cmd 0x11 [] with phase := .waiting }
     let s := ask c (on.modCtx 0 fun x => { x with st := .destroying })
     s.drained 0 && (s.part (s.ctx 0).part).insts.all (fun i => decide (i.ctx ≠ 0)) &&
     s.waitingCmd here (fun c => decide (Slot.op c.slot = 0x11) && decide ((s.ctx (Slot.ctx c.slot)).st = .destroying) && s.drained (Slot.ctx c.slot)) == some c &&
     after (exec (.ctxReleaseComplete here) s) fun t => (t.ctx 0).st == .none && completed c 0 0 t) &&
    (let c := { cmd 0x12 [] with phase := .waiting }
     let s := ask c (on.modCtx 0 fun x => { x with st := .suspending })
     s.powered && s.waitingCmd here (fun c => decide (Slot.op c.slot = 0x12) && (decide ((s.ctx (Slot.ctx c.slot)).st = .suspending) && s.drained (Slot.ctx c.slot) &&
       s.roundsEnded (Slot.ctx c.slot))) == some c) = true := by decide +kernel

/-- A saved context with queue 0 of core 0 resumes there. -/
theorem test_ctxResume :
    (let s := on.modCtx 0 fun x => { x with st := .suspended, saved := some {}, cmap := [(0, 1)] }
     let y := s.ctx 0
     let c := cmd 0x13 []
     acts 0x13 (.ctxResume here) c s
       (s.hasCtx 0 0 && y.saved.isSome && !(s.part 0).refusing && bits c.slot 255 192 == 0 && resumeCore [] y.cmap 0 == 0 &&
         (s.mapRefusal 0 0 y.cmap y.clmBase y.clmLen).isNone && decide (s.saveNeed 0 ≤ y.saveBytes))
       fun t => (t.ctx 0).st == .resident && (t.ctx 0).saved.isNone && completed c 0 0 t) = true := by decide +kernel

/-- `QUEUE_START` at 0x1000 with S8 = 9, a resumption, a resumption of a wait, and each form of a stop. -/
theorem test_queueCommands :
    (let s := on.setQueue 0 { ctx := some 0 }
     let c := cmd 0x31 [(192, 64, 0x1000), (64 * 7 + 256, 64, 9)]
     acts 0x31 (.queueStart here) c s ((s.startRefusal c).isNone && !bit c.slot 148 && (match s.fetchKeys 0 0x1000 with | .inr _ => true | .inl _ => false))
       fun t => (t.queue 0).st == .running && (t.queue 0).pc == 0x1000 && (t.queue 0).reg 8 == 9 && completed c 0 (queueResult (t.queue 0)) t) &&
    (let s := on.setQueue 0 { running 0 with st := .stopped }
     let c := cmd 0x31 [(148, 1, 1)]
     acts 0x31 (.queueResume here) c s ((s.startRefusal c).isNone && bit c.slot 148) fun t => (t.queue 0) == running 0) &&
    (let s := on.setQueue 0 { running 0 with st := .stopped, wait := some { op := anOp 0x71 1 } }
     let c := cmd 0x31 [(148, 1, 1)]
     acts 0x31 (.queueResume here) c s ((s.startRefusal c).isNone) fun t => (t.queue 0).st == .waiting && t.sync.flight == [anOp 0x71 1]) &&
    [(QSt.running, QSt.stopped, false), (.ending, .ending, false), (.idle, .idle, true), (.ended, .ended, true), (.stopped, .stopped, true),
      (.suspended, .suspended, true)].all (fun x =>
     let s := on.setQueue 0 { running 0 with st := x.1 }
     let c := cmd 0x32 []
     acts 0x32 (.queueStop here) c s (s.hasCtx 0 0 && s.ownsQueue 0 0 && (s.ctx 0).st == .resident) fun t => (t.queue 0).st == x.2.1 &&
       (if x.2.2 then completed c 0 (stopResult (s.queue 0)) t else t.cmds.all (·.phase == .waiting))) &&
    (let c := { cmd 0x32 [] with phase := .waiting, result := 0x1000 + 5 * 2 ^ 64 }
     let s := ask c (on.setQueue 0 { running 0 with st := .stopped })
     s.stopDrained c && after (exec (.queueStopDrained here) s) (completed c 0 c.result)) = true := by decide +kernel

theorem test_hostMaps :
    (let c := cmd 0x20 [(256, 48, 2 ^ 21), (192, 64, 4096), (128, 64, 4096), (304, 1, 1)]
     acts 0x20 (.hostmapAdd here) c on ((on.part 0).maps.isEmpty && (on.part 0).port != 0) fun t => (t.part 0).maps == [⟨2 ^ 21, 4096, 4096, true, false⟩] && completed c 0 0 t) &&
    (let s := on.modPart 0 fun P => { P with maps := [⟨2 ^ 21, 4096, 4096, true, false⟩] }
     let c := cmd 0x21 [(256, 48, 2 ^ 21)]
     acts 0x21 (.hostmapRemove here) c s (bits c.slot 303 256 == 2 ^ 21) fun t => (t.part 0).maps.isEmpty && completed c 0 0 t) = true := by decide +kernel

/-- A copy and a load of two bytes from 0x1000 to 0x2000, and a fill; then their ends, without and with a signal. -/
theorem test_copies :
    (let s := on.modWrite 0x1000 [5, 6]
     [(0x40, Instr.copy here []), (0x30, .progLoad here [])].all fun x =>
       let n := if x.1 = 0x30 then 32 else 2
       let c := cmd x.1 ([(128, 64, 0x1000), (192, 64, 0x2000), (256, 64, n)] ++ if x.1 = 0x30 then [(320, 32, crc32c (s.addrRead 0x1000 32))] else [])
       acts x.1 x.2 c s ((s.copyRefusal c).isNone && !s.codeInUse 0 0x2000 n && (s.meetsBad [] (s.addrKeys 0x1000 n)).isNone &&
         s.anyRead 0 0x1000 n == some (s.addrRead 0x1000 n)) fun t =>
         t.modRead 0x2000 3 == [5, 6, 0] && t.cmds.all (·.phase == .waiting)) &&
    (let c := cmd 0x41 [(128, 64, 0x0201), (192, 64, 0x2000), (256, 64, 3)]
     acts 0x41 (.fill here) c on (on.copyRefusal c).isNone fun t => t.modRead 0x2000 3 == fillBytes 0x0201 0x2000 3 && t.cmds.all (·.phase == .waiting)) &&
    (let c := { cmd 0x40 [] with phase := .waiting }
     Copy.sigKind c.slot == 0 && !Copy.isLoad c.slot && after (exec (.copyComplete here) (ask c on)) (completed c 0 0)) &&
    (let c := { cmd 0x30 [] with phase := .waiting }
     Copy.isLoad c.slot && after (exec (.copyComplete here) (ask c on)) (completed c 0 0)) &&
    (let c := { cmd 0x40 [(352, 2, 1), (320, 16, 5), (336, 16, 3)] with phase := .waiting }
     Copy.sigKind c.slot == 1 && after (exec (.copyComplete here) (ask c on)) fun t => t.sync.bound.length == 1 && t.sync.bound.all fun b => b.obj == 5 && b.origin == 1) =
      true := by decide +kernel

/-- Object 255, the last of the partition's range: allocated as a counter, named or found; freed, set, and read. -/
theorem test_objectCommands :
    (let c := cmd 0x50 [(154, 2, 1), (138, 16, 255), (165, 16, 9)]
     acts 0x50 (.syncAlloc here) c on (SCmd.kind c.slot == 1 && on.hasCtx 0 0 && allocFieldsOk c.slot && on.objIn 0 255 && (on.obj 255).kind == .free &&
       !SCmd.any c.slot && !SCmd.decl c.slot && decide ((on.setObj 255 (newObject c.slot 0 [] false)).saveNeed 0 ≤ (on.ctx 0).saveBytes))
       fun t => (t.obj 255).kind == .counter && (t.obj 255).count == 9 && completed c 0 255 t) &&
    (let s := on.setObj 255 { kind := .flag, count := 1 }
     let c := cmd 0x50 [(138, 16, 255)]
     acts 0x50 (.syncFree here) c s (SCmd.kind c.slot == 0) fun t => (t.obj 255).kind == .free && completed c 0 255 t) &&
    (let s := on.setObj 255 { kind := .flag, count := 1 }
     let c := cmd 0x51 [(138, 16, 255), (165, 16, 0)]
     acts 0x51 (.syncSet here) c s (decide (SCmd.value c.slot < 2)) fun t => (t.obj 255).count == 0 && completed c 0 0 t) &&
    (let s := on.setObj 255 { kind := .barrier, partic := 2, bmCur := 1 }
     let c := cmd 0x51 [(138, 16, 255), (320, 32, 7)]
     acts 0x51 (.syncSet here) c s true fun t => (t.obj 255).gen == 7 && (t.obj 255).bmCur == 0) &&
    (let s := on.setObj 255 { kind := .flag, count := 1 }
     let c := cmd 0x52 [(138, 16, 255)]
     acts 0x52 (.syncRead here) c s (SCmd.addr c.slot == 0) (completed c 0 (leNat ((s.obj 255).bytes.take 16)))) &&
    (let s := on.setObj 255 { kind := .flag, count := 1 }
     let c := cmd 0x52 [(138, 16, 255), (256, 64, 0x3000)]
     acts 0x52 (.syncRead here) c s (s.okRange 0 0x3000 128 true [0, 1, 3]) fun t => t.modRead 0x3000 128 == (s.obj 255).bytes) = true := by decide +kernel

/-- A command that has any free object of die 0 chosen: whatever the free value, one of 256 is. -/
theorem test_anyObject :
    (on.freeObjs 0 0).length = 256 ∧ ∃ o, (on.freeObjs 0 0)[Config.freeNat on.free % (on.freeObjs 0 0).length]? = some o := by
  have h : (on.freeObjs 0 0).length = 256 := by decide +kernel
  refine ⟨h, _, List.getElem?_eq_getElem ?_⟩
  rw [h]; exact Nat.mod_lt _ (by decide)

/-- The box of modules 0 and 128. -/
def box : List (Nat × Nat × Nat) := [(128, 4, 15), (132, 11, 0), (143, 5, 2), (148, 5, 1), (153, 4, 1)]

def withGroup (old : List Layout) : State :=
  linked.modPart 0 fun P => { P with
    insts := old.map fun l => { instOf 5 .trigger with blk := pack [(159, 4, 5), (155, 4, 15)], layout := l }
    groups := [(15, some { cur := { epoch := 65535, origin := 0, px := 1, py := 1, pz := 1 }, old := old })] }

theorem test_groupCommands :
    (let c := cmd 0x60 box
     acts 0x60 (.collGroupDefine here) c linked (bits c.slot 147 143 != 0 && (linked.boxRefusal 0 (layoutOf c.slot 0)).isNone && (linked.group 0 15).isNone)
       fun t => (t.group 0 15).any fun G => G.cur.px == 2 && G.old.isEmpty) &&
    (let c := cmd 0x60 [(128, 4, 15)]
     acts 0x60 (.collGroupRemove here) c (withGroup []) (bits c.slot 147 143 == 0 && ((withGroup []).group 0 15).isSome) fun t => (t.group 0 15).isNone && completed c 0 0xFFFF t) &&
    (let c := cmd 0x62 box
     let l : Layout := { epoch := 1, origin := 0, px := 1, py := 1, pz := 1 }
     acts 0x62 (.epochAdvance here) c (withGroup [l]) ((linked.boxRefusal 0 (layoutOf c.slot 0)).isNone) (fun t => (t.group 0 15).any fun G => G.cur.epoch == 0 && G.cur.px == 2 && G.old.length == 2) &&
     acts 0x62 (.epochAdvance here) c ((withGroup [l, l]).modPart 0 fun P => { P with insts := [] }) true (fun t => (t.group 0 15).any fun G => G.old.length == 1) &&
     acts 0x62 (.epochAdvance here) c (withGroup [l, l]) ((linked.boxRefusal 0 (layoutOf c.slot 0)).isNone) (fun t => (t.group 0 15).any fun G => G.waiting.isSome && G.old.length == 2)) =
      true := by decide +kernel

/-- A probe of 32 elements, which this module alone reduces. -/
def probeBlock : Nat :=
  pack [(1984, 64, 0x1000), (1920, 64, 0x2000), (1664, 64, 0x900), (1600, 64, 0xA00), (480, 32, 1), (387, 29, 32), (344, 16, 65535), (280, 16, 5), (232, 16, 6), (159, 4, 5), (155, 4, 15)]

theorem test_instanceCommands :
    (let s := (((withGroup []).setObj 5 counter).setObj 6 counter).modWrite 0x4000 (leBytes 256 probeBlock)
     let c := cmd 0x61 [(192, 64, 0x4000)]
     !bit c.slot 128 && Safety.hasTurn 0x61 here (ask c s) c && (match s.kRead 0 0x4000 256 [0] with | .inr bs => leNat bs == probeBlock | .inl _ => false) &&
     (s.blockRefusal 0 probeBlock).isNone && (s.setObj 5 { counter with ctx := 1 }).blockRefusal 0 probeBlock == some St.badField && (s.group 0 (IBlk.group probeBlock)).isSome && (s.part 0).xheld.isEmpty &&
     ((List.range 64).find? fun k => (s.inst 0 k).isNone) == some 0) &&
    (let c := cmd 0x61 [(128, 1, 1), (130, 6, 4)]
     acts 0x61 (.collCancel here) c (withInst (instOf 5 .trigger)) (bit c.slot 128 && ((withInst (instOf 5 .trigger)).inst 0 (Slot.handle c.slot)).isSome)
       (fun t => (t.part 0).insts.isEmpty && completed c 0 0 t) &&
     acts 0x61 (.collCancel here) c (withInst (instOf 5 .data)) true (fun t => (t.part 0).insts.all fun y => y.cancel && y.phase == .data)) = true := by decide +kernel

/-- Shard 255 of the last 64 bytes of unit 0. -/
def shardH : Shard := { num := 255, base := unitBytes - 64, len := 64, tid := 9, ver := 3 }
def withShard : State := on.modPart 0 fun P => { P with shards := [shardH] }

theorem test_shardCommands :
    (let c := cmd 0x63 [(288, 8, 255), (128, 64, unitBytes - 64), (192, 64, 64), (256, 24, 9)]
     acts 0x63 (.shardRegister here) c on (shardAction c.slot == 0 && (on.shard 0 255).isNone && on.okRange 0 (unitBytes - 64) 64 true [0])
       fun t => (t.part 0).shards == [{ shardH with ver := 0 }] && completed c 0 (shardResult { shardH with ver := 0 }) t) &&
    (let c := cmd 0x63 [(288, 8, 255), (296, 2, 1)]
     acts 0x63 (.shardRemove here) c withShard (shardAction c.slot == 1 && withShard.shard 0 255 == some shardH && !(withShard.part 0).readsShard shardH)
       fun t => (t.part 0).shards.isEmpty && completed c 0 (shardResult shardH) t) &&
    (let c := cmd 0x63 [(288, 8, 255), (296, 2, 2)]
     acts 0x63 (.shardRead here) c withShard (shardAction c.slot == 2) fun t => (t.part 0).shards == [shardH] && completed c 0 (shardResult shardH) t) = true := by
  decide +kernel

/-- One slot of 64 bytes at 0x1000, restored to 0x2000, in a host map. -/
def policyBlock : Nat := pack [(448, 64, 3 * 2 ^ 56), (384, 64, 0x4100), (320, 64, 0x4200), (256, 64, 0x4300), (240, 16, 5), (224, 16, 6), (165, 11, 1), (158, 7, 64)]
def slotRow (kind : Nat) : Nat := pack [(192, 64, 0x1000), (128, 64, 0x2000), (88, 40, 64), (0, 2, kind)]

def withBlocks (kind : Nat) : State :=
  let s := on.modPart 0 fun P => { P with maps := [⟨0, 2 ^ 21, 0, true, true⟩] }
  (s.modWrite 0x4000 (leBytes 64 policyBlock)).modWrite 0x4100 (leBytes 32 (slotRow kind))

def withPolicy (kind : Nat) (x : Policy) : State := (withBlocks kind).modPart 0 fun P => { P with policies := [x] }

theorem test_policyCommands :
    (let c := cmd 0x70 [(192, 64, 0x4000)]
     let s := [0, 5, 6].foldl (fun s o => s.setObj o counter) (withBlocks 0)
     acts 0x70 (.offloadArm here false) c s (bits c.slot 129 128 == 0 && (match s.kRead 0 0x4000 64 [0] with | .inr bs => leNat bs == policyBlock | .inl _ => false) &&
       (s.policyRefusal 0 policyBlock false).isNone) fun t => (t.part 0).policies.length == 1 && completed c 0 0 t) &&
    (let c := cmd 0x70 [(128, 2, 1), (130, 6, 0)]
     acts 0x70 (.offloadDisarm here) c (withPolicy 0 { h := 0, ctx := 0, blk := policyBlock }) (bits c.slot 129 128 == 1)
       fun t => (t.part 0).policies.isEmpty && completed c 0 0 t) = true := by decide +kernel

/-- Unit 0 is lent to partition 0 of module 128, and revoked, by the management station's command. -/
theorem test_lendCommands :
    (let s := linked
     let lend : Cmd := { id := 0, src := .mgmt 0, slot := pack [(32, 16, 0x70), (128, 2, 2), (272, 16, 1), (288, 11, 128), (299, 3, 0), (302, 1, 1)] }
     let rev : Cmd := { id := 0, src := .mgmt 0, slot := pack [(32, 16, 0x70), (128, 2, 3), (272, 16, 1)] }
     let u := s.modUnit 0 fun x => { x with lent := some (128, 0, 1) }
     Safety.hasTurn 0x70 (.mgmt 0) (ask lend s) lend && s.slotUnits lend == [0] && bits lend.slot 287 272 == 1 && consecutive [0] &&
     s.bulkTo 0 (borrower lend.slot).1 (borrower lend.slot).2.1 && !s.bulkTo 0 128 7 && (s.memUnit 0).lent.isNone && (s.memUnit 0).st == .owned &&
     after (exec (.lend (.mgmt 0)) (ask lend s)) (fun t => (t.memUnit 0).lent == some (128, 0, 1) && (t.memUnit 0).st == .clearing && (t.die 0).clearQ == [0]) &&
     Safety.hasTurn 0x70 (.mgmt 0) (ask rev u) rev && u.slotUnits rev == [0] && (u.memUnit 0).lent.isSome &&
     after (exec (.revoke (.mgmt 0)) (ask rev u)) (fun t => (t.memUnit 0).revoking && (t.memUnit 0).st == .clearing)) = true := by decide +kernel

/-- A checkpoint of one range of 64 bytes to a target on module 128, and its restore. -/
def ckptBlock : Bytes :=
  splice (splice (leBytes 1248 (pack [(384, 64, 0x4400), (341, 7, 1), (338, 3, 1), (336, 2, 1), (240, 64, 0x4500)])) 128 (leBytes 8 0x1000 ++ leBytes 8 64))
    1152 (leBytes 8 (0x80 * 2 ^ 56 + 128 * 2 ^ 45) ++ leBytes 8 65536)

theorem test_checkpointCommands :
    (let s := linked.modWrite 0x5000 ckptBlock
     let c := cmd 0x71 [(192, 64, 0x5000)]
     let r := cmd 0x72 [(192, 64, 0x5000)]
     Safety.hasTurn 0x71 here (ask c s) c && Safety.hasTurn 0x72 here (ask r s) r &&
     (match s.kRead 0 0x5000 1248 [0] with | .inr bs => bs == ckptBlock | .inl _ => false) && (s.part 0).ckpt.isNone && ckptBlockOk ckptBlock true &&
     s.hasCtx 0 (CBlk.ctx ckptBlock) && s.ckptRanges 0 ckptBlock false && s.ckptRanges 0 ckptBlock true && s.okRange 0 (CBlk.progOut ckptBlock) 64 true [0] &&
     (ckptIndex ckptBlock).all (fun x => s.ckptTargetOk 0 ckptBlock [some []] x) && (CBlk.targets ckptBlock).all (fun x => x.1 / 2 ^ 56 == 0x80)) = true := by
  decide +kernel

/-- A watch block: its header, and one item. -/
def watchBlock (fs : List (Nat × Nat × Nat)) (item : Bytes) : Bytes := leBytes 64 (pack fs) ++ item

/-- Layer watch of one item at 0x5000: ring at 0x6000 of two entries; taps at 0x1000, bounds −1 and 1. -/
def layerBlock : Bytes :=
  watchBlock [(448, 64, 0x6000), (304, 16, 5), (288, 16, 6), (272, 16, 7), (256, 16, 2), (243, 13, 1)]
    (leBytes 8 0x1000 ++ leBytes 8 0x1000 ++ leBytes 8 0x1000 ++ leBytes 2 0xFFFF ++ leBytes 2 1 ++ leBytes 4 0)

/-- A tensor of two BF16 elements, and a scale table of one item of INT8, each triggered by object 5. -/
def tensorBlock : Bytes :=
  watchBlock [(448, 64, 0x6000), (304, 16, 5), (256, 16, 2), (243, 13, 1)]
    (pad 96 (leBytes 8 0x1000 ++ leBytes 8 4 ++ [0, 0] ++ leBytes 2 0 ++ leBytes 2 1))
def scaleBlock : Bytes :=
  watchBlock [(448, 64, 0x6000), (384, 64, 0x6100), (320, 64, 0x6200), (304, 16, 5), (272, 16, 8), (243, 13, 1)] (pad 80 (pad 66 [] ++ [1, 3]))

def watchOf (kind : Nat) (blk : Bytes) : State := on.modPart 0 fun P => { P with watches := [{ kind := kind, blk := blk }] }

theorem test_watchCommands :
    [(0, layerBlock), (1, tensorBlock), (2, scaleBlock)].all (fun x =>
      let s := on.modWrite 0x5000 x.2
      let c := cmd 0x80 [(128, 2, x.1), (192, 64, 0x5000)]
      let r := cmd 0x80 [(128, 3, 4 + x.1)]
      acts 0x80 (.watchDefine here) c s (!bit c.slot 130 && watchKind c.slot == x.1 && (s.watch 0 x.1).isNone && s.kRead 0 0x5000 64 [0] == .inr (x.2.take 64) &&
        s.kRead 0 0x5000 (64 + WBlk.itemSize x.1 * WBlk.items (x.2.take 64)) [0] == .inr x.2 && (s.watchRefusal 0 x.1 x.2).isNone)
        (fun t => (t.part 0).watches == [{ kind := x.1, blk := x.2 }] && completed c 0 0 t) &&
      acts 0x80 (.watchRemove here) r (watchOf x.1 x.2) (bit r.slot 130 && watchKind r.slot == x.1 && ((watchOf x.1 x.2).watch 0 x.1).isSome)
        (fun t => (t.part 0).watches.isEmpty && completed r 0 0 t)) = true := by decide +kernel

/-- Step 0 of the layer watch is in its ring, and is read back. -/
theorem test_watchRead :
    (let x : Watch := { kind := 0, blk := layerBlock, triggers := 1, steps := [(0, 1)] }
     let s := (on.modPart 0 fun P => { P with watches := [x] }).modWrite 0x6000 [1, 2, 3, 4, 5, 6, 7, 8]
     let c := cmd 0x81 [(192, 64, 0x7000), (336, 16, 1)]
     acts 0x81 (.watchRead here) c s (s.watch 0 0 == some x && x.holds 0 0 && s.okRange 0 0x7000 8 true [0, 1, 3] && decide (0 + 1 ≤ WBlk.items x.blk))
       fun t => t.modRead 0x7000 8 == [1, 2, 3, 4, 5, 6, 7, 8] && completed c 0 1 t) = true := by decide +kernel

/-- A FENCE waits for an earlier command of ring 1, and for none of ring 2. -/
theorem test_fence :
    (let early : Cmd := { id := 0, src := .ring 0 1, slot := pack [(32, 16, 0x40)], phase := .waiting }
     let c : Cmd := { cmd 0x90 [] with id := 1 }
     let d : Cmd := { cmd 0x90 [(130, 1, 1)] with id := 1 }
     let s (c : Cmd) : State := { on with cmds := [early, c] }
     Safety.hasTurn 0x90 here (s c) c && Safety.hasTurn 0x90 here (s d) d && (s c).fenceBlocked c && c.phase == .fresh && !(s d).fenceBlocked d &&
     after (exec (.fence here) (s c)) (fun t => t.cmds.contains c) && after (exec (.fence here) (s d)) fun t => t.cmds.contains (d.complete 0 0)) = true := by
  decide +kernel

theorem test_dumpFetch :
    (let s := on.modCtx 0 fun x => { x with st := .faulted, dump := some [1, 2, 3] }
     let c := cmd 0xA0 [(192, 64, 0x7000), (256, 64, 3)]
     acts 0xA0 (.dumpFetch here) c s (s.hasCtx 0 0 && (s.ctx 0).dump == some [1, 2, 3] && s.okRange 0 0x7000 3 true [0, 3])
       fun t => t.modRead 0x7000 4 == [1, 2, 3, 0] && completed c 0 (pack [(0, 64, 3), (64, 8, (s.ctx 0).queues.length)]) t) = true := by decide +kernel

/-- The window's bounds; the result shows the settings that were in force. -/
theorem test_recoveryPolicy :
    [0, 20, 40].all (fun h =>
      let c := cmd 0xA1 [(129, 6, h), (143, 1, 1), (128, 1, 1)]
      acts 0xA1 (.recoveryPolicy here) c on true fun t => (t.part 0).hangLog2 == h && (t.part 0).notify && (t.part 0).noReplay &&
        completed c 0 (pack [(15, 1, 1)]) t) = true := by decide +kernel

theorem test_shutdownCommands :
    (let c := cmd 0xB0 []
     acts 0xB0 (.shutdownPrepare here) c on (!bit c.slot 129) fun t => (t.part 0).refusing) &&
    (let c := cmd 0xB0 [(129, 1, 1)]
     acts 0xB0 (.shutdownCancel here) c (on.modPart 0 fun P => { P with refusing := true }) (bit c.slot 129) fun t => !(t.part 0).refusing && completed c 0 0 t) &&
    (let c := { cmd 0xB0 [] with phase := .waiting }
     (ask c on).waitingCmd here (fun c => decide (Slot.op c.slot = 0xB0)) == some c &&
       after (exec (.shutdownPrepareTimeout here) (ask c on)) (completed c St.timeout 0)) = true := by decide +kernel

/-! ### Training support -/

def granting (c : Client) (s : State) : State := { s with sync := { s.sync with granted := [c] } }

def pol (x : Policy) : Policy := { x with ctx := 0, blk := policyBlock }
def polAfter (P : Policy → Bool) (t : State) : Bool := match (t.part 0).policies with | [y] => P y | _ => false

/-- The only slot of a policy: stashed, of each kind. Its last clause needs a slot that is not the last one to be ready. -/
theorem test_stash :
    (let x := pol { h := 0, ctx := 0, blk := 0 }
     let s (kind : Nat) := granting (.stash 0 0) (withPolicy kind x)
     [0, 1].all fun k => (s k).powered && (s k).policy 0 0 == some x && (s k).sync.granted.contains (.stash 0 0) && ((s k).ctx 0).st == .resident &&
       x.stashed == 0 && PBlk.slots x.blk == 1 && x.slot 0 == .none && slotKind ((s k).slotEntry x.blk 0) == k &&
       after (exec (.stash 0 0) (s k)) (polAfter fun y => y.stashed == 1 && y.slot 0 == if k = 0 then .copying else .free)) = true := by decide +kernel

theorem test_policyEvents :
    (let x := pol { h := 0, ctx := 0, blk := 0, stashed := 1, slots := [(0, .copying)] }
     let s := withPolicy 0 x
     x.slot 0 == .copying && !PBlk.lent x.blk && after (exec (.stashCopyEnd 0 0 0) s) (polAfter fun y => y.slot 0 == .free && y.stashed == 1)) &&
    (let x := pol { h := 0, ctx := 0, blk := 0 }
     let s := granting (.back 0 0) (withPolicy 0 x)
     s.sync.granted.contains (.back 0 0) && after (exec (.backwardStart 0 0) s) (polAfter fun y => y.backward && y.rel == 0)) = true := by decide +kernel

/-- A policy of two slots, so that the first restored one does not end the round. -/
def twoSlots : Nat := policyBlock + 2 ^ 165
def withTwo (kind : Nat) (x : Policy) : State :=
  ((withPolicy kind x).modWrite 0x4100 (leBytes 32 (slotRow kind))).modWrite 0x4120 (leBytes 32 (slotRow kind))

theorem test_slotDue :
    (let x (st : SlotSt) : Policy := { h := 0, ctx := 0, blk := twoSlots, stashed := 2, backward := true, slots := [(1, st)] }
     let s (k : Nat) (st : SlotSt) := withTwo k (x st)
     PBlk.slots twoSlots == 2 && PBlk.depth twoSlots == 64 &&
     (let u := s 1 .free; slotKind (u.slotEntry twoSlots 1) == 1 && u.policy 0 0 == some (x .free) &&
       after (exec (.slotDue 0 0) u) (polAfter fun y => y.due == 1 && y.slot 1 == .done && y.ready == 1)) &&
     (let u := s 0 .free; slotKind (u.slotEntry twoSlots 1) == 0 && after (exec (.slotDue 0 0) u) (polAfter fun y => y.slot 1 == .restoring && y.ready == 0)) &&
     after (exec (.slotDue 0 0) (s 0 .copying)) (polAfter fun y => y.slot 1 == .abandoned && y.ready == 1) &&
     -- the limit of the pipeline's depth
     (let y := { x .free with due := 1 }
      let u := withTwo 0 y
      decide (y.due ≤ y.rel + (u.absorbReleases 0 y).2 + PBlk.depth twoSlots) && after (exec (.slotDue 0 0) u) (polAfter fun y => y.due == 2)) &&
     (let y := { x .restoring with due := 1 }
      after (exec (.slotRestoreEnd 0 0 1 none) (withTwo 0 y)) (polAfter fun y => y.slot 1 == .done && y.ready == 1 && y.due == 1))) = true := by decide +kernel

def withCkpt (c : Ckpt) (s : State) : State := s.modPart 0 fun P => { P with ckpt := some c }
def ckptStatus (t : State) : Nat := leNat (t.modRead 0x4400 32)

/-- The status record of a checkpoint: OK once its last manifest is acknowledged, LOST with its target, TORN where a shard's
version has moved. -/
theorem test_checkpointEnd :
    (let c : Ckpt := { blk := ckptBlock, seq := 9, slot := [0] }
     let u := withCkpt c on
     let s := withCkpt c linked
     let v := withCkpt { c with stage := .table, torn := true } linked
     let w := withCkpt { c with stage := .done } linked
     CBlk.statusAddr ckptBlock == 0x4400 && u.power.modeChange.isNone && (u.part 0).traceBytes == 0 &&
     u.lostTarget 0 c none == some 0 && after (exec (.checkpointEnd 0 none) u) (fun t => (t.part 0).ckpt.isNone && ckptStatus t == pack [(0, 16, St.lost), (32, 32, 9)]) &&
     (s.lostTarget 0 c none).isNone && s.lostTarget 0 c (some 0) == some 0 && s.ckptReady 0 c && (v.lostTarget 0 { c with torn := true } none).isNone &&
     after (exec (.checkpointEnd 0 none) w) (fun t => (t.part 0).ckpt.isNone && ckptStatus t == pack [(0, 16, St.ok), (32, 32, 9)]) &&
     after (exec (.checkpointEnd 0 none) s) (fun t => (t.part 0).ckpt == some c) &&
     after (exec (.checkpointEnd 0 (some 0)) s) (fun t => (t.part 0).ckpt.isNone && ckptStatus t == pack [(0, 16, St.lost), (32, 32, 9)]) &&
     after (exec (.checkpointEnd 0 none) v) (fun t => (t.part 0).ckpt.isNone && ckptStatus t == pack [(0, 16, St.torn), (32, 32, 9)])) = true := by decide +kernel

/-- Its ranges are undefined where no image is given. -/
theorem test_restoreEnd :
    (let c : Ckpt := { blk := ckptBlock, seq := 9 }
     let s := on.modPart 0 fun P => { P with restores := [c] }
     s.powered && (s.part 0).traceBytes == 0 && (s.part 0).restores == [c] && CBlk.nTargets c.blk != 0 && decide (CBlk.statusAddr c.blk < dieBytes)) = true := by
  decide +kernel

theorem test_watchTriggers :
    (let s := granting (.layer 0) (watchOf 0 layerBlock)
     s.watch 0 0 == some { kind := 0, blk := layerBlock } && s.sync.granted.contains (.layer 0) &&
     after (exec (.layerWatch 0) s) (fun t => (t.part 0).watches.all (·.triggers == 1) && t.watchAlarms == 1 &&
       leNat (t.modRead 0x6000 8) == pack [(48, 16, 0x8000), (32, 16, 0x8000), (16, 16, 0x8000), (3, 1, 1), (0, 1, 1)])) &&
    (let s := granting (.tensor 0) (watchOf 1 tensorBlock)
     s.watch 0 1 == some { kind := 1, blk := tensorBlock } && ({ kind := 1, blk := tensorBlock } : Watch).dueTensors == [0] &&
     after (exec (.tensorWatchScan 0) s) (fun t => (t.part 0).watches.all fun y => y.triggers == 1 && y.scanning == [0])) &&
    (let x : Watch := { kind := 1, blk := tensorBlock, triggers := 1, scanning := [0] }
     let s := (on.modPart 0 fun P => { P with watches := [x] }).modWrite 0x1000 [0x80, 0x3F, 0, 0]
     -- one element is 1.0, whose log2 is HBASE: bin 2; the other zero: bin 0
     after (exec (.tensorScanEnd 0 0) s) fun t => (t.part 0).watches.all (fun y => y.scanning.isEmpty && y.steps == [(0, 1)]) &&
       t.modRead 0x6040 24 == [1, 0, 0, 0, 0, 0, 0, 0, 0, 0, 0, 0, 0, 0, 0, 0, 1, 0, 0, 0, 0, 0, 0, 0]) = true := by decide +kernel

theorem test_scalePhases :
    (let s := granting (.scaleLocal 0) (watchOf 2 scaleBlock)
     s.watch 0 2 == some { kind := 2, blk := scaleBlock } && decide (WBlk.probeSrc scaleBlock + 2 * WBlk.items scaleBlock ≤ dieBytes) &&
     after (exec (.scaleLocalPhase 0) s) fun t => (t.part 0).watches == (s.part 0).watches) &&
    (let s := (granting (.scaleApply 0) (watchOf 2 scaleBlock)).modWrite 0x6200 [3, 0x7F]
     decide (WBlk.ringAddr scaleBlock + 16 * WBlk.items scaleBlock ≤ dieBytes) &&
     after (exec (.scaleApplyPhase 0) s) fun t => (t.part 0).watches.all (·.triggers == 1) &&
       -- t = E0 + 3 + H, with H = 2 where its byte is 0; the second byte is at an edge
       t.modRead 0x6000 8 == [5, 0, 0, 0, 0, 0, 0, 0] && bit (leNat (t.modRead 0x6000 16)) 82) = true := by decide +kernel

/-! ### Host ports -/

def ring0 (R : Ring) : State := on.modRing 0 0 fun _ => R
def rung (P : Ring → Bool) (t : State) : Bool := P (t.ring 0 0)

theorem test_ringControl :
    on.barOpen 0 false && on.linksOn && !on.taken 0 0 &&
    after (exec (.ringEnable 0 0 false) (ring0 { expected := 9, consumed := 4, overrun := true, cqBase := 4096 }))
      (rung fun R => R.enable && R.expected == 1 && R.consumed == 0 && !R.overrun && R.cqBase == 4096) &&
    after (exec (.ringDisable 0 0 false) (ring0 { enable := true, expected := 9 })) (rung fun R => !R.enable && R.expected == 9) &&
    -- the last 8 bytes of the entry: CQ_BASE; its first: ENABLE
    after (exec (.ringControlWrite 0 0 56 (leBytes 8 0x3000) false) on) (rung fun R => !R.enable && R.cqBase == 0x3000) &&
    after (exec (.ringControlWrite 0 0 0 [1] false) on) (rung fun R => R.enable && R.expected == 1) = true := by decide +kernel

/-- A slot at the end of the window; a command at `EXPECTED`, IDENTIFY with sequence 1. -/
theorem test_slotWrite :
    (let R : Ring := { enable := true, cqBase := 4096, cqLog2 := 4 }
     let bs := leBytes 128 (pack [(0, 32, 1), (32, 16, 0x02), (48, 1, 0)])
     let R' := { R with window := Mem.write R.window 128 bs }
     after (exec (.slotWrite 0 0 (2 ^ 19 - 1) [7] false) (ring0 R)) (rung fun R => Mem.read R.window (2 ^ 19 - 1) 1 == [7]) &&
     R.enable && !R.overrun && Slot.seq R'.slot == R.expected && R.room &&
     after (exec (.slotWrite 0 0 128 bs false) (ring0 R)) (fun t => t.cmds.any fun y => y.id == 0 && y.src == .ring 0 0 && y.slot == R'.slot)) = true := by
  decide +kernel

theorem test_completionRecord :
    (let c : Cmd := { id := 0, src := .ring 0 1, slot := pack [(32, 16, 0x40)], phase := .done, status := 5 }
     let s := { on.modRing 0 1 (fun _ => { enable := true, cqLog2 := 4 }) with cmds := [c], nextCmd := 1 }
     s.cmds.find? (fun c => decide (c.src = .ring 0 1)) == some c && !c.noRecord && (s.ring 0 1).room && s.cmds.all (fun e => decide (e.id < s.nextCmd)) &&
     after (exec (.completionRecord 0 1) s) fun t => t.cmds.isEmpty && (t.ring 0 1).written == 1) = true := by decide +kernel

def withVec (x : Vec) : State := on.modFunc 0 1 fun g => { g with vecs := Tbl.set {} g.vecs 31 x }

theorem test_msixPeriods :
    [(false, false, ({} : Vec)), (true, true, { pending := true, masked := true }), (true, false, { running := true })].all (fun x =>
      after (exec (.msixPeriodEnd 0 1 31) (withVec { running := true, again := x.1, masked := x.2.1 })) fun t => Tbl.get {} (t.func 0 1).vecs 31 == x.2.2) = true := by
  decide +kernel

/-- The last byte of a BAR2 of 1 GiB. -/
theorem test_bar2 :
    (let off := 2 ^ 30 - 1
     on.barOpen 0 false && on.powered && decide (off < 2 ^ (on.fnOf 0).bar2Log2) && decide (off % 4096 + 1 ≤ 4096) && (on.unitsOf 0)[off / unitBytes]? == some 0 &&
     (on.memUnit 0).st == .owned && (on.memUnit 0).lent.isNone && after (exec (.bar2Write 0 off [7] false) on) (fun t => t.modRead off 2 == [7, 0])) &&
    [30, 44].all (fun n => (on.part 0).port != 0 && on.fnHere (on.part 0).hostPort 1 && (on.part 0).tdi == 0 &&
      after (exec (.bar2Resize 0 n) on) fun t => (t.fnOf 0).bar2Log2 == n) = true := by decide +kernel

theorem test_hostPorts :
    (let s := (on.modPart 0 fun P => { P with maps := [⟨0, 4096, 0, true, true⟩], tdi := 2 }).modPci 0 fun q => { q with width := 8, ide := true }
     let c : Cmd := { cmd 0x31 [] with phase := .waiting }
     [(0, 0), (1, 0), (2, 2)].all (fun x => after (exec (.configRequest 0 x.1) on) fun t => t.outbox == [.config 0 x.1 x.2]) &&
     after (exec (.pciLinkUp 0 6 16 true) (on.modPci 0 fun q => { q with perst := false })) (fun t => t.pciPort 0 == { perst := false, rate := 6, width := 16, flit := true }) &&
     after (exec (.perst 0) on) (fun t => !(t.pciPort 0).perst) &&
     (s.part 0).port != 0 && s.fnHere (s.part 0).hostPort 1 &&
     after (exec (.flr 0) { s with cmds := [c] }) (fun t => (t.part 0).maps.isEmpty && (t.part 0).tdi == 3 && (t.fnOf 0).bar2Log2 == on.bar2Default 0 && t.cmds.all (·.noRecord)) &&
     after (exec (.linkDown 0) s) (fun t => (t.part 0).maps.isEmpty && (t.part 0).tdi == 3 && (t.pciPort 0).width == 0 && !(t.pciPort 0).ide)) = true := by decide +kernel

theorem test_hostTimeouts :
    (let c : Cmd := { cmd 0x40 [(128, 64, 3 * 2 ^ 56), (192, 64, 0x2000), (256, 64, 2)] with phase := .waiting }
     let s := ask c (on.modPart 0 fun P => { P with maps := [⟨0, 4096, 0, true, true⟩] })
     s.waitingCmd here (fun c => c.copiesThrough { winOff := 0, len := 2 ^ 48, host := 0, rd := true, wr := true }) == some c &&
     after (exec (.hostCompletionTimeout (.cmd here)) s) (completed c St.hostError 0)) = true := by decide +kernel

/-! ### Security -/

def withFn (f : Func → Func) (s : State) : State := s.modFunc 0 1 f

theorem test_spdm :
    on.fnHere 0 1 && on.power.ready && after (exec (.keyExchange 0 1 true true) on) (fun t => (t.func 0 1).spdm == [true] && t.outbox == [.spdm 0 1 5 true []]) &&
    after (exec (.negotiateAlgorithms 0 1 false) on) (fun t => (t.func 0 1).noAlgs && after (exec (.keyExchange 0 1 true true) t) (fun t => t.outbox.contains (.spdm 0 1 5 false []))) &&
    (let s := withFn (fun g => { g with spdm := [true, false, true, true] }) on
     after (exec (.keyExchange 0 1 true true) s) (fun t => t.outbox == [.spdm 0 1 5 false []]) && s.trusted 0 1 3 && !s.trusted 0 1 1 &&
     after (exec (.ideKm 0 1 3) s) (fun t => (t.func 0 1).ideKeyed) && after (exec (.ideKm 0 1 1) s) (fun t => t.outbox == [.spdm 0 1 6 false []])) &&
    (let s := on.modFunc 0 0 fun g => { g with spdm := [true] }
     s.fnHere 0 0 && after (exec (.ideKm 0 0 0) s) fun t => (t.pciPort 0).ide) = true := by decide +kernel

/-- Partition 0 may be locked; it is locked, runs and stops. -/
def lockable : State :=
  { withFn (fun g => { g with spdm := [true], ideKeyed := true }) on with sec := { on.sec with state := 2 } }

theorem test_tdisp :
    lockable.trusted 0 1 0 && lockable.mayLock 0 && lockable.fnHere (lockable.part 0).hostPort 1 && lockable.power.ready &&
    after (exec (.lockInterface 0 0) lockable) (fun t => (t.part 0).tdi == 1 && t.outbox.contains (.tdiReport 0 [(0, 2 ^ 26), (2, 2 ^ (on.fnOf 0).bar2Log2)])) &&
    (let s := { lockable with ctxs := [] }.modPart 0 fun P => { P with stopping := 2, tdi := 2 }
     s.allClear 0 && (s.settlePart 0).outbox == [.tdisp 0 2 true] && ((s.resetFn 0).settlePart 0).outbox.isEmpty) &&
    (let s := lockable.modPart 0 fun P => { P with tdi := 1, maps := [⟨0, 4096, 0, true, true⟩] }
     after (exec (.startInterface 0 0) s) (fun t => (t.part 0).tdi == 2) && (s.part 0).st == .ready && (s.part 0).stopping == 0 &&
     after (exec (.stopInterface 0 0) s) (fun t => (t.part 0).maps.isEmpty && (t.ctx 0).st == .destroying) &&
     after (exec (.ideIntegrityFailure 0) s) (fun t => (t.part 0).tdi == 3)) = true := by decide +kernel

theorem test_debugHeader :
    on.auxOn && on.debugLevel != 2 && after (exec (.debugHeaderInstruction 1) on) (· == { on with outbox := [.jtag 1 .none] }) &&
    after (exec (.debugHeaderInstruction 2) on) (· == { on with outbox := [.jtag 0 .none] }) &&
    (let s := { on with sec := { on.sec with unlocked := true } }
     s.debugLevel == 2 && after (exec (.debugHeaderInstruction 2) s) (fun t => t.outbox == [.jtag 2 .full])) = true := by decide +kernel

theorem test_secState :
    (let s (x : Nat) (t : Option Nat) : State := { on with sec := { on.sec with state := x, lockReqUs := t } }
     let keyed := withFn (fun g => { g with spdm := [true], ideKeyed := true }) (s 2 none)
     after (exec .secToOpen keyed) (fun t => t.sec.state == 1 && (t.fnOf 0).spdm.isEmpty && !(t.fnOf 0).ideKeyed) &&
     (s 1 none).debugLevel != 2 && after (exec .secToAttested (s 1 none)) (fun t => t.sec.state == 2) &&
     after (exec .secToLocked (s 2 none)) (fun t => t.sec.state == 2 && t.sec.lockReqUs == some 0) &&
     -- the last microsecond of the 10 s
     (let u := { s 2 (some 0) with clockUs := 10000000 }; after (exec .secToLocked u) fun t => t.sec.state == 3)) = true := by decide +kernel

theorem test_siteEntries :
    (let cert := List.replicate 4 (7 : Byte)
     after (exec (.secSiteCertWrite 8188 cert) on) (fun t => t.sec.siteCert == splice [] 8188 cert)) = true := by decide +kernel

theorem test_siteKeys :
    [1, 4].all (fun sub =>
      let key := 1 :: List.replicate (siteKeyBytes - 1) (0 : Byte)
      after (exec (.mgmtSiteKeyWrite sub key) on) (fun t => Tbl.get [] t.mgmt.siteKeys sub == key && t.sec.state == 1) &&
      (let s := { on with mgmt := { on.mgmt with siteKeys := [(sub, key)] }, sec := { on.sec with state := 1 } }
       s.mgmt.active.isNone && after (exec (.mgmtSiteKeyWrite sub (List.replicate siteKeyBytes 0)) s) fun t => t.mgmt.siteKeys.isEmpty && t.sec.state == 0)) = true := by
  decide +kernel

/-- The upper 24 bytes of a token's first word, and that word: for this module, whatever its serial, and the challenge that it shows. -/
def tokenHead : Nat := 0x44424755 * 2 ^ 160 + 2 * 2 ^ 152 + leNat Config.identSerial
def tokenWord : Nat := tokenHead * 2 ^ 320

theorem serial_lt : leNat Config.identSerial < 2 ^ 128 := by
  have h := leNat_lt Config.identSerial
  simpa [Config.identSerial] using h

theorem token_fields {n x : Nat} (hn : n < 2 ^ 128) (hx : x = 0x44424755 * 2 ^ 160 + 2 * 2 ^ 152 + n) :
    x < 2 ^ 192 ∧ bits x 191 160 = 0x44424755 ∧ bits x 159 152 = 2 ∧ bits x 151 128 = 0 ∧ bits x 127 0 = n := by
  simp only [bits]; omega

theorem tokenOk_of (t : Bytes) (ht : t.length = 4627) : on.tokenOk (leBytes 64 tokenWord ++ t) = true := by
  have h := token_fields serial_lt (x := tokenHead) rfl
  have e1 := bits_shift tokenHead 191 160 320 (by decide)
  have e2 := bits_shift tokenHead 159 152 320 (by decide)
  have e3 := bits_shift tokenHead 151 128 320 (by decide)
  have e4 := bits_shift tokenHead 127 0 320 (by decide)
  have e5 := bits_below tokenHead 63 0 320 (by decide) (by decide)
  have e6 := bits_below tokenHead 319 64 320 (by decide) (by decide)
  have hw : leNat (slice (leBytes 64 tokenWord ++ t) 0 64) = tokenHead * 2 ^ 320 := by
    have e : slice (leBytes 64 tokenWord ++ t) 0 64 = leBytes 64 tokenWord := by
      simpa using slice_append_left (leBytes 64 tokenWord) t
    rw [e]
    refine leNat_leBytes_of_lt ?_
    rw [show 8 * 64 = 192 + 320 from rfl, Nat.pow_add]
    exact Nat.mul_lt_mul_of_pos_right h.1 (Nat.two_pow_pos 320)
  have hc : leNat (pad 32 on.sec.challenge) = 0 := by decide +kernel
  simp only [State.tokenOk, hw, hc, e1, e2, e3, e4, e5, e6, h, List.length_append, leBytes_length, ht, decide_true, Bool.and_self]

theorem test_token : on.sec.state < 2 ∧ on.sec.tokenFails < 4 ∧ ∃ t, on.tokenOk t = true :=
  ⟨by decide +kernel, by decide +kernel, _, tokenOk_of (List.replicate 4627 0) List.length_replicate⟩

theorem test_partDebug :
    (let locked := on.modPart 0 fun P => { P with tdi := 3 }
     ([0, 1].all fun v => [Principal.mgmt, .part 0].all fun pr => on.pathOn pr && (on.part 0).st == .ready &&
       after (exec (.partDebugWrite pr 0 v) on) fun t => (t.part 0).debug == decide (v = 1)) &&
     -- in ERROR the window does not answer
     after (exec (.partDebugWrite (.part 0) 0 1) locked) (fun t => !(t.part 0).debug) &&
     after (exec (.partDebugWrite .mgmt 0 1) locked) (fun t => (t.part 0).debug)) = true := by decide +kernel

/-- Partition 7 with cluster 31, no port, one unit of die 3 and one object range of die 3. -/
def createRec : Bytes := leBytes 64 (pack [(504, 8, 7), (472, 32, 2 ^ 31), (464, 8, 1), (433, 7, 1)])

theorem test_partitions :
    on.createRefusal createRec == none && PRec.units (leNat createRec) 3 == 1 && PRec.ranges (leNat createRec) 3 == 1 &&
    after (exec (.partCreate createRec) on) (fun t => (t.part 7).st == .clearing && (t.part 7).clusters == 2 ^ 31 && (t.part 7).tdi == 4 &&
      (t.memUnit 465).st == .clearing && (t.memUnit 465).part == 7 && (t.memUnit 0) == on.memUnit 0) &&
    after (exec (.partDestroy 0) { on with cmds := [cmd 0x02 []] }) (fun t => (t.part 0).st == .destroying && t.cmds.isEmpty && (t.ctx 0).st == .destroying) = true := by
  decide +kernel

/-! ### Management -/

def withSess (x : SirrikSess) : State := { on with mgmt := { on.mgmt with sessions := [x], imagesChecked := true, anchors := [(1, [7])] } }
def opened : SirrikSess := { id := 1, peer := 5, isOpen := true, high := 0 }

theorem test_discovery :
    on.sirrikUp && after (exec (.discover 5) on) (fun t => t.mgmt.discover == [5]) &&
    (let s := { on with mgmt := { on.mgmt with discover := [5, 6] } }; s.sirrikUp && s.expire.mgmt.discover == 5 :: [6]) = true := by decide +kernel

/-- Where `OPEN1` may begin a session: with three others. -/
theorem test_open1_allowed :
    (let s := { on with mgmt := { on.mgmt with imagesChecked := true, sessions := [opened, { opened with id := 2 }, { opened with id := 3 }] } }
     s.sirrikUp && !s.expire.mgmt.lockout && s.expire.mgmt.imagesChecked && decide (s.expire.mgmt.sessions.length < 4)) = true := by decide +kernel

theorem test_handshake :
    (let x : SirrikSess := { id := 1, peer := 5 }
     let s := withSess x
     s.expire.sirrikSession 1 == some x && !x.isOpen &&
     after (exec (.open3 1 true true true) s) (fun t => t.mgmt.sessions.all (fun y => y.isOpen && y.high == 1 && y.sent == x.sent + 1) && t.outbox.head? == some (.datagram 5 0x13 1 0 []) && t.outbox.length == 2) &&
     after (exec (.open3 1 true false true) s) (fun t => t.mgmt.sessions.isEmpty && t.mgmt.authFails == 1 && !t.mgmt.lockout) &&
     (let u := { s with mgmt := { s.mgmt with rejectTimes := List.replicate 15 0 } }
      decide (16 ≤ (u.expire.mgmt.rejectTimes.filter fun n => decide (u.clockUs < n + 60000000)).length + 1) &&
      after (exec (.open3 1 true false true) u) (fun t => t.mgmt.lockout && t.mgmt.rejectTimes.isEmpty)) &&
     after (exec (.open3Timeout 1) s) (fun t => t.mgmt.sessions.isEmpty)) = true := by decide +kernel

theorem test_sessionsEnd :
    (let s := withSess { opened with frags := [(3, 1), (4, 2)] }
     after (exec (.sessionIdleTimeout 1) s) (fun t => t.mgmt.sessions.isEmpty) && after (exec (.fragmentTimeout 1 3) s) (fun t => t.mgmt.sessions.all fun y => y.frags == [(4, 2)]) &&
     (s.expire.sirrikSession 1).any (fun x => x.accepts hdr.seq) && hdr.sealOk && opened.whole hdr && hdr.session == 1 &&
     after (exec (.sirrikClose { hdr with type := 0x30 }) s) (fun t => t.mgmt.sessions.isEmpty) &&
     after (exec .authLockoutEnd { s with mgmt := { s.mgmt with lockout := true } }) (fun t => !t.mgmt.lockout)) = true := by decide +kernel

/-- A request with RID 0 in the open session; the entry is MGMT_UDP_PORT. -/
theorem test_requests :
    (let s := withSess opened
     let u := s.expire.putSession (opened.accept hdr.seq s.clockUs)
     let w : DictWrite := { pr := .mgmt, index := 0x1104, sub := 0, sigOk := false, origin := some (hdr.session, hdr.rid) }
     let data := leBytes 8 4701
     let stored := { opened with replies := [(0, 0x01, 7, [9])] }
     opened.replies.isEmpty && !opened.inFlight.contains hdr.rid && u.dictRead .mgmt 0x1104 0 == (0, leBytes 8 4700) &&
     after (exec (.sirrikRead hdr 0x1104 0) s) (fun t => t.outbox.head? == some (.reply 1 0 0x01 0 (leBytes 8 4700))) &&
     (match u.dictWrite w data with | (some st, v) => st == 0 && v.mgmt.sessions.any (·.id == 1) | _ => false) &&
     (match u.dictWriteSeg w 0 data with | (some _, v) => v.mgmt.sessions.any (·.id == 1) | _ => false) &&
     after (exec (.sirrikWrite hdr 0x1104 0 data false) s) (fun t => t.mgmt.udpPort == 4701 && t.outbox.head? == some (.reply 1 0 0x02 0 [])) &&
     after (exec (.sirrikRead hdr 0x1104 0) (withSess stored)) (fun t => t.outbox.head? == some (.reply 1 0 0x01 7 [9]))) = true := by decide +kernel

/-- Two fragments make a message; one that the timeout has discarded must come again whole (R480). -/
theorem test_fragments :
    (let h := { hdr with nfrag := 2, frag := 1 }
     let told (t : State) : Bool := t.outbox.any fun o => match o with | .reply _ _ _ _ _ => true | _ => false
     let t := landed (exec (.sirrikRead h 0x1104 0)) (withSess opened)
     t.mgmt.sessions.all (fun y => y.frags == [(1, 2)]) && !told t &&
     after (exec (.sirrikRead { h with frag := 0 } 0x1104 0) t) told &&
     after (exec (.fragmentTimeout 1 1) t) (fun u => after (exec (.sirrikRead { h with frag := 0 } 0x1104 0) u) fun v =>
       !told v && v.mgmt.sessions.all fun y => y.frags == [(1, 1)]) &&
     after (exec (.sirrikRead { hdr with ver := 2 } 0x1104 0) (withSess opened)) (fun t => !told t && t.mgmt.badDatagrams == 1)) = true := by decide +kernel

theorem test_registerWrite :
    on.pathOn .mgmt && (match on.dictWrite { pr := .mgmt, index := 0x1104, sub := 0 } (leBytes 8 4701) with | (some r, x) => r == 0 && x.mgmt.udpPort == 4701 | _ => false) &&
    [20, 40].all (fun v => after (exec (.registerWrite .mgmt 0x1801 0 (leBytes 8 v)) on) fun t => t.rel.hangWindowLog2 == v) = true := by decide +kernel

/-- An aligned write of a cell through partition 0's window, and one that is not a cell. -/
theorem test_window :
    (let off := (0x1801 - 0x1000) * 0x800
     on.windowOpen 0 0 false && on.windowOpen 0 1 false && off != segControl && off % 8 == 0 &&
     after (exec (.windowWrite 0 0 off (leBytes 8 20) false) on) (fun t => (t.func 0 0).wstatus == (on.dictWrite { pr := .hostA, index := 0x1801, sub := 0 } (leBytes 8 20)).1.getD 0) &&
     after (exec (.windowWrite 0 1 (2 ^ 24 - 1) [0] false) on) (fun t => (t.func 0 1).wstatus == St.badField) &&
     after (exec (.windowWrite 0 1 1 (leBytes 8 20) false) on) (fun t => (t.func 0 1).wstatus == St.badField) &&
     after (exec (.segmentSelect 0 0 (pack [(48, 16, 0x1002), (0, 32, 5)]) false) on) (fun t => (t.func 0 0).sindex == 0x1002 && (t.func 0 0).soffset == 5)) = true := by
  decide +kernel

/-- An image without records, of version 1, by Vangok. -/
def imageHdr : Nat :=
  pack [(480, 32, 0x50524B53), (448, 32, 1), (416, 32, 4691), (256, 128, leNat (pad 16 (ascii ['V', 'G', 'K', '-', 'L', '6', 'T', '-', '1', '0', '2', '4', '0'])))]
def image : Bytes := leBytes 64 imageHdr ++ List.replicate 4627 0
def staged (active : Option Nat) : State := { on with mgmt := { on.mgmt with stage := image, active := active } }

theorem test_imageCommit :
    [none, some 0].all (fun a => on.portM && (staged a).imageOk image true && decide (imageVersion (staged a).activeImage < imageVersion image) && (staged a).sec.state != 3) &&
    (let s := { staged none with sec := { on.sec with state := 3 } }
     s.portM && s.imageOk image true && imageSigner image == 0 && after (exec (.imageCommit true) s) fun t => !t.mgmt.committing && !t.mgmt.slot0.present) = true := by
  decide +kernel

theorem test_imageRows :
    [(none, 0), (some 0, 1)].all (fun x =>
      let s := { on with mgmt := { on.mgmt with committing := true, active := x.1 } }
      after (exec .imageCommitEnd s) (fun t => !t.mgmt.committing && (if x.2 = 0 then t.mgmt.slot0 else t.mgmt.slot1).valid)) &&
    after (exec .imageStageClear (staged none)) (fun t => t.mgmt.stage.isEmpty) &&
    after (exec .mgmtConfigApply { on with mgmt := { on.mgmt with toApply := [(0x1104, leBytes 2 4701)] } }) (fun t => t.mgmt.effUdpPort == 4701 && t.mgmt.toApply.isEmpty) =
      true := by decide +kernel

theorem test_partCmd :
    (let data := leBytes 128 (pack [(0, 32, 1), (32, 16, 0x31)])
     data.length == 128 && Slot.seq (leNat data) == (on.part 0).cmdExpected &&
     after (exec (.partCmd 0 data) on) fun t => (t.part 0).cmdExpected == 2 && t.nextCmd == 1) = true := by decide +kernel


/-- The bounds of each entry's range. -/
theorem test_entries :
    (let mode := fun v => after (exec (.pwrModeWrite .mgmt v) on) fun t => t.power.modeReg == v && t.power.modeChange == if v = on.power.mode then none else some (0, v)
     !on.notRunning && on.power.modeChange.isNone && !on.modeHeld && [0, 1, 2].all mode) &&
    (let s := { on with fab := { on.fab with dims := 0x1860 } }
     !s.sessionsOpen && inTorus s.fab.dims 0 && after (exec (.fabModuleIdWrite .mgmt 0x8000) s) (fun t => t.fab.moduleId == 0x8000) &&
     after (exec (.fabModuleIdWrite .mgmt 0x07FF) s) (fun t => t.fab.moduleId == 0x07FF) && after (exec (.fabTorusDimsWrite .mgmt 0xFFE0) s) (fun t => t.fab.dims == 0xFFE0)) &&
    (let s := on.modPort 5 fun p => { p with st := .up }
     after (exec (.fabPortExternalWrite .mgmt 63) s) (fun t => t.fab.external == 63 && (t.port 5).st == .training)) &&
    [false, true].all (fun c =>
      let s := if c then (on.startSparing 3 0) else on
      (s.die 3).copying == c && decide ((s.subch 3 255).st < 2) && decide ((s.die 3).events.length < 7) && s.power.startStep == none &&
      after (exec (.memSpareRequest .mgmt 1023) s) (fun t => (t.subch 3 255).st == if c then 2 else 3)) &&
    [1, 128].all (fun sub => after (exec (.partPeersWrite 0 sub (15 * 2 ^ 60)) on) fun t => Tbl.get 0 (t.part 0).peers (16 * (sub - 1) + 15) == 15) = true := by
  decide +kernel

theorem test_observationEntries :
    (let v := 255 * 2 ^ 56
     bits v 45 0 == 0 && after (exec (.obsSelect v) on) (fun t => t.rel.obsSelect == v) &&
     after (exec (.partObsSelect (.part 0) 0 v) on) (fun t => (t.part 0).obsSelect == v) && after (exec (.partObsSelect .mgmt 0 v) on) (fun t => (t.part 0).obsSelect == v)) &&
    after (exec (.bistFullNext 1) on) (fun t => t.bist.fullNext && !t.bist.skipNext) && after (exec (.bistSkipNext 1) on) (fun t => t.bist.skipNext && !t.bist.fullNext) =
      true := by decide +kernel

/-- Die 4 is the hub, with two banks of fuses. -/
theorem test_repairEntries :
    [(0, 3), (4, 1)].all (fun x =>
      let s := { on with parts := [], mem := { on.mem with units := [] }, bist := { on.bist with soft := [(x.1, 700)], fuseUsed := [(x.1, x.2)] } }
      s.allFree && s.powered && s.bist.burning.isNone && decide (s.fuseUsed x.1 < fuseBanks x.1) && s.softOf x.1 != 0 &&
      after (exec (.repFuseBurn x.1) s) (fun t => t.bist.burning == some (x.1, none)) &&
      after (exec .fuseBurnEnd { s with bist := { s.bist with burning := some (x.1, none) } }) (fun t => t.bist.burning.isNone && t.fuseUsed x.1 == x.2 + 1 && t.softOf x.1 == 188)) &&
    (let m := setSlot slotMapReset 8 0xA
     let s := { on with rel := { on.rel with slotMap := [(31, m)] }, bist := { on.bist with corePass := [(287, 3)], sramPass := [(287, 3)] } }
     slotCode (s.slotMap 31) 8 == 0xA && s.strikesOf 31 8 == 0 && after (exec (.repUnretire (31 * 256 + 8)) s) fun t => slotCode (t.slotMap 31) 8 == 8) = true := by
  decide +kernel

/-! ### Power -/

/-- No input yet: what State.reset leaves. -/
def dark (P : PowerSt) : State := { State.reset with power := P }

def startsUp (t : State) : Bool := t.power.hotSwap && t.power.startStep == some 0 && !t.power.absent

theorem test_input :
    (let P : PowerSt := State.reset.power
     !P.hotSwap && P.absent && [48001, 60999].all (fun mv => turnOn mv && after (exec (.powerOn mv) State.reset) startsUp) &&
     (let s := dark { P with absent := false, presN := false, mv := 54000 }
      s.power.state == 4 && turnOn s.power.mv && after (exec .wakeN s) startsUp) &&
     (let s := dark { P with overVolt := true, presN := false }
      after (exec (.inputOvervoltage 60999) s) startsUp)) = true := by decide +kernel

/-- From P0 with its input: the module is off, without partitions, and its next start tests itself. -/
theorem test_inputLost :
    (let s := { on with power := { on.power with hotSwap := true } }
     let off (t : State) : Bool := t.power.absent && t.power.state == 4 && !t.power.hotSwap && t.bist.stale && t.power.lastStop == 1 && t.parts.isEmpty && t.mem.cells.isEmpty
     after (exec .presNHigh s) (fun t => off t && t.power.presN) && after (exec .inputUndervoltage s) (fun t => off t && !t.power.presN) &&
     after (exec (.inputOvervoltage 62001) s) (fun t => off t && t.power.overVolt)) = true := by decide +kernel

def atStep (k source : Nat) : State := { on with power := { on.power with state := source, ready := false, startStep := some k, startFrom := source, toState := some 0 } }

theorem test_startUp :
    [0, 1, 2, 3, 5, 6, 7, 8, 9, 10, 11].all (fun k => after (exec (.startUpStep trained) (atStep k 4)) fun t => t.power.startStep == some (k + 1) &&
      (decide (3 ≤ k) || t.power.rails.testBit k)) &&
    (let s := atStep 4 4
     s.power.startFrom == 4 && ((s.checkSlots true true).mgmt.choose).isNone &&
     after (exec (.startUpStep trained) s) (fun t => t.power.startStep == none && t.power.state == 3 && t.mgmt.recovery)) &&
    [4, 3, 2].all (fun f => after (exec (.moduleReady 9000) (atStep 12 f)) fun t => t.power.state == 0 && t.power.ready && t.power.readyMs == 9000 && t.power.startStep == none) =
      true := by decide +kernel

/-- A slot with a valid image. -/
theorem test_startUpImage :
    (let m := { on.mgmt with slot1 := { data := image, valid := false, present := true } }
     let s := { atStep 4 4 with mgmt := m }
     (s.checkSlots false true).mgmt.choose == some 1) = true := by decide +kernel

theorem test_startUpImage_step :
    (let m := { on.mgmt with slot1 := { data := image, valid := false, present := true } }
     let s := { atStep 4 4 with mgmt := m }
     after (exec (.startUpStep { trained with image0 := false }) s) fun t => t.power.startStep == some 5 && t.mgmt.active == some 1 && !t.mgmt.recovery) = true := by
  decide +kernel

def empty : State := { on with parts := [], ctxs := [], mem := { on.mem with units := [] } }
def inState (k : Nat) (s : State) : State := { s with power := { s.power with state := k, ready := decide (k ≠ 3) } }
def preparedOne : State := on.modPart 0 fun P => { P with refusing := true, prepared := true, prepSuspend := true }

theorem test_powerStates :
    [(2, 7), (3, 2)].all (fun x => !(inState x.1 empty).moving && after (exec (.wake .mgmt) (inState x.1 empty)) fun t => t.power.startStep == some x.2 && t.power.startFrom == x.1) &&
    (let s := preparedOne
     !s.moving && s.powered && s.prepared 2 && after (exec (.enterRetention .mgmt) s) fun t => t.power.state == 2 && t.mes.isEmpty && t.queues.isEmpty) &&
    (let s := preparedOne.modCluster 31 fun _ => { temp := 77, step := 2 }
     s.dictRead .mgmt 0x1301 32 == (0, leBytes 8 (3080 * 2 ^ 16 + 77 * 2 ^ 8 + 2 * 2 ^ 4)) &&
     after (exec (.enterRetention .mgmt) s) fun t => t.dictRead .mgmt 0x1301 32 == s.dictRead .mgmt 0x1301 32) &&
    [(3, Instr.enterStandby .mgmt), (4, .enterOff .mgmt)].all (fun x =>
      empty.prepared x.1 && !empty.moving && empty.allFree && !empty.bist.skipNext && empty.bist.running.isNone && !empty.bist.testOver &&
      after (exec x.2 empty) (fun t => t.power.toState == some x.1 && t.bist.running == some (0, 0, 0, some 30000)) &&
      (inState 2 empty).prepared x.1 && !(inState 2 empty).mgmt.committing && after (exec x.2 (inState 2 empty)) fun t => t.power.state == x.1 && t.power.lastStop == 0) =
      true := by decide +kernel

theorem test_shutdown :
    [(2, 1), (4, 3600)].all (fun x =>
      !on.prepared x.1 && after (exec (.pwrShutdownReq .mgmt (pack [(16, 3, x.1), (0, 16, x.2)])) on) fun t => t.power.shutTarget == x.1 && t.power.shutSecs == x.2) &&
    (let s (k : Nat) := { on with power := { on.power with shutTarget := k, shutSecs := 1 } }
     after (exec .shutdownNoticeExpiry (s 2)) (fun t => t.power.shutTarget == 0) &&
     [3, 4].all fun k => (s k).powered && !(s k).moving && !(s k).bist.skipNext &&
       after (exec .shutdownNoticeExpiry (s k)) fun t => t.power.toState == some k && t.power.shutTarget == 0 && (t.part 0).st == .destroying) = true := by decide +kernel

def changing (c : Option (Nat × Nat)) (q d : Option Nat) : State := { on with power := { on.power with modeChange := c, modeQueued := q, modeDeferred := d } }

theorem test_modes :
    on.enginesIdle &&
    [(some (0, 1), some (1, 1)), (some (1, 1), some (2, 1)), (some (2, 1), some (3, 1)), (some (3, 1), none)].all (fun x =>
      after (exec .modeChangeStep (changing x.1 none none)) fun t => t.power.modeChange == x.2) &&
    after (exec .modeChangeStep (changing (some (3, 1)) (some 2) none)) (fun t => t.power.modeChange == some (0, 2) && t.power.modeQueued.isNone) &&
    (let s := changing none none (some 2)
     !s.modeHeld && !s.notRunning && 2 != s.power.mode && after (exec .deferredModeChange s) fun t => t.power.modeChange == some (0, 2) && t.power.modeDeferred.isNone) = true := by
  decide +kernel

def warm (c : ClusterSt) : State := on.modCluster 31 fun _ => c

/-- The last degree and the last step of each limit. -/
theorem test_clocks :
    on.powered && !on.clusterBusy 31 && !on.gated.testBit 31 && after (exec (.clusterClockGate 31) on) (fun t => t.gated.testBit 31) &&
    after (exec (.throttleStepDown 31 95) (warm { step := 14 })) (fun t => (t.cluster 31).step == 15 && t.power.throttleEvents == 1) &&
    after (exec (.throttleStepDown 31 95) (warm { step := 15 })) (fun t => (t.cluster 31).step == 15 && t.power.throttleEvents == 0) &&
    after (exec (.throttleStepUp 31 90) (warm { step := 1 })) (fun t => (t.cluster 31).step == 0) &&
    (let s := { on with power := { on.power with capW := 1000 } }
     after (exec (.powerCapStep 1001) s) (fun t => (t.cluster 0).cap == 1 && (t.cluster 31).cap == 1 && t.power.throttleEvents == 32) &&
     after (exec (.powerCapStep 1000) (s.modCluster 31 fun c => { c with cap := 2 })) (fun t => (t.cluster 31).cap == 1)) &&
    after (exec (.peakLimit 2401) on) (fun t => (t.cluster 31).peak == 4 && t.power.peakOn) &&
    (let s := { on with power := { on.power with peakOn := true } }
     after (exec (.peakRelease s.sustained) (s.modCluster 31 fun c => { c with peak := 4 })) (fun t => (t.cluster 31).peak == 0 && !t.power.peakOn)) &&
    after (exec (.thermalTrip 31 110) on) (fun t => t.power.state == 3 && t.power.lastStop == 2 && t.parts.isEmpty) &&
    after (exec (.onBoardLinkLaneFailure 9 8) on) (fun t => Tbl.get 16 t.power.links 9 == linkLanes 8) = true := by decide +kernel

theorem test_cables :
    (let off := { State.reset with fab := State.reset.fab }
     !off.hubOn && !(off.port 5).plugged && after (exec (.cablePlug 5 9) off) (fun t => (t.port 5).plugged && (t.port 5).lowPower) &&
     on.hubOn && !(on.port 5).plugged && after (exec (.cablePlug 5 8) on) (fun t => (t.port 5).st == .training && !(t.port 5).lowPower) &&
     after (exec (.cablePlug 5 9) on) (fun t => (t.port 5).st == .down && (t.port 5).lowPower)) &&
    (let s := on.modPort 5 fun p => { p with plugged := true, st := .up }
     after (exec (.cablePull 5) s) fun t => !(t.port 5).plugged && (t.port 5).st == .failed) = true := by decide +kernel

/-! ### Reliability and self-test -/

/-- Queue 0 waits at object 5, which queue `r` is declared to signal; context 0 owns the four queues of core 0. -/
def waiting (r : Nat) : State :=
  let s := [1, 2, 3].foldl (fun (s : State) q => s.setQueue q { ctx := some 0 }) on
  (s.setQueue 0 { running 0 with st := .waiting, wait := some { op := anOp 0x71 1, arrived := true } }).setObj 5 { kind := .counter, prodDecl := true, prodQ := r }

theorem test_hang :
    (let s := withOp 0 .running {}
     s.power.modeChange.isNone && (s.recovery 0 .me).isNone && s.atWork 0 .me (fun _ => true) &&
     after (exec (.hangDetected 0 .me) s) fun t => (t.me 0).ops.isEmpty && t.rel.hangs == 1 && t.rel.recoveries.all fun r => r.core == 0 && r.unit == .me && r.resetting) = true := by
  decide +kernel

def recovering (r : Recovery) : State := { on with rel := { on.rel with recoveries := [r] } }

/-- The reset ends with a suspect to replay; the last suspect is cleared. -/
theorem test_recovery :
    (let r : Recovery := { core := 0, unit := .me, todo := [0], total := 1 }
     let s := recovering r
     s.recovery 0 .me == some r && after (exec (.engineResetDone 0 .me) s) fun t => t.rel.recoveries.all fun y => !y.resetting) &&
    (let r : Recovery := { core := 0, unit := .me, todo := [], current := some 0, resetting := false, total := 1 }
     let s := recovering r
     s.recovery 0 .me == some r && s.replayDone 0 .me 0 &&
     after (exec (.suspectCleared 0 .me) s) fun t => t.rel.recoveries.isEmpty) = true := by decide +kernel

/-- What a recovery retains is held still, its engine's section does not answer, and a re-issued operation is retained no more. -/
theorem test_retained :
    (let r : Recovery := { core := 0, unit := .me, todo := [0], total := 1, meOps := [meOp 0 .running] }
     let s := recovering r
     s.meHeld 0 == [meOp 0 .running] && s.silentSections == [(3, 0)] && s.silent 2 0 && !s.silent 3 0 &&
     ((s.reissue r 0).me 0).ops == [meOp 0 .running]) = true := by decide +kernel

/-- CRC-64 of the nine digits, the check value of this polynomial in the catalogues of CRCs (R570). -/
theorem test_crc64 : crc64 [0x31, 0x32, 0x33, 0x34, 0x35, 0x36, 0x37, 0x38, 0x39] = 0x6C40DF5F0B497347 := by decide +kernel

def causeOf (q : Nat) (t : State) : Option Nat := if (t.queue q).st = .faulted then some (t.queue q).fault.cause else none

theorem test_stall :
    (let s := waiting 0
     s.powered && s.stalled 0 && decide (s.ctx 0).queues.Nodup && (s.ctx 0).queues.all (fun q => decide ((s.queue q).ctx = some 0)) &&
     after (exec (.stallDetected 0) s) fun t => (t.ctx 0).st == .faulted && causeOf 0 t == some 0x08) = true := by decide +kernel

/-- A wait that only an idle queue could end; a queue that waits for itself. -/
theorem test_deadlock :
    (let s := waiting 1
     (match (s.waits 0).findSome? s.orphan with | some f => f.1 == 0 && (s.queue f.1).ctx == some 0 | none => false) &&
     after (exec (.deadlockCheck 0 0) s) fun t => causeOf 0 t == some 0x07 && t.rel.deadlocks == 1) &&
    (let s := waiting 0
     ((s.waits 0).findSome? s.orphan).isNone &&
     (match s.waitCycle 0 with | some (g :: l) => g.1.q == 0 && l.isEmpty | _ => false) &&
     after (exec (.deadlockCheck 0 0) s) fun t => causeOf 0 t == some 0x07 && t.rel.deadlocks == 1) = true := by decide +kernel

theorem test_jayCompare :
    (let s := withOp 0 .checking {}
     s.powered && (s.me 0).ops.find? (fun o => decide (o.phase = .checking)) == some (meOp 0 .checking) &&
     after (exec (.jayCompare 0 5 5 0 0) s) (fun t => (t.me 0).ops.all (fun o => o.phase == .tokenHeld) && t.rel == s.rel) &&
     after (exec (.jayCompare 0 5 6 0 0) s) (fun t => t.rel.jayMismatch == 1)) = true := by decide +kernel

def withRel (f : RelSt → RelSt) : State := { on with rel := f on.rel }

theorem test_margins :
    after (exec (.strikeExpiry 31 8) (withRel fun r => { r with strikes := [(287, 2)] })) (fun t => t.strikesOf 31 8 == 1) &&
    after (exec (.marginReturn 31) (withRel fun r => { r with margin := [(31, 4)] })) (fun t => t.marginOf 31 == 3) = true := by decide +kernel

/-- The spare of cluster 31 is tested; an active slot is, once its core has moved. -/
theorem test_fieldTests :
    (let find (s : State) : Option Nat := ((List.range 288).map fun i => (s.rel.ftNext + i) % 288).find? s.testable
     let s := withRel fun r => { r with ftNext := 287 }
     let u := withRel fun r => { r with ftNext := 279 }
     find s == some 287 && slotCode (s.slotMap 31) 8 == 8 && s.rel.ftPeriod != 0 && s.rel.ftTest.isNone && s.rel.migrations.isEmpty &&
     after (exec .fieldTestStart s) (fun t => t.rel.ftTest == some (31, 8) && t.rel.ftNext == 0 && t.slotMap 31 == setSlot slotMapReset 8 9) &&
     find u == some 279 && slotCode (u.slotMap 31) 0 == 0 && u.spareOf 31 == some 8 &&
     after (exec .fieldTestStart u) (fun t => t.rel.migrations == [(248, 8, true)])) &&
    (let s := withRel fun r => { r with ftTest := some (31, 8), slotMap := [(31, setSlot slotMapReset 8 9)] }
     after (exec (.fieldTestEnd true) s) (fun t => t.rel.ftTest.isNone && slotCode (t.slotMap 31) 8 == 8) &&
     after (exec (.fieldTestEnd false) s) (fun t => t.rel.ftFailed == 1 && slotCode (t.slotMap 31) 8 == 0xA)) = true := by decide +kernel

theorem test_migration :
    (let s := withRel fun r => { r with migrations := [(248, 8, true)] }
     s.coreIdle 248 && s.spareOf 31 == some 8 && !s.checkerBusy 31 && s.rel.retirePend.isEmpty && s.slotOf 248 == 0 && clusterOf 248 == 31 &&
     after (exec (.migration 248) s) fun t => slotCode (t.slotMap 31) 8 == 0 && slotCode (t.slotMap 31) 0 == 9 && t.rel.ftTest == some (31, 0)) = true := by decide +kernel

/-- The last slice is followed by the first. -/
theorem test_slices :
    [(0, 1), (50, 0)].all (fun x => [1, 3].all fun r =>
      let s := { empty with bist := { empty.bist with cursor := x.1, running := some (x.1, 0, 0, none) }, power := { empty.power with toState := some 3 } }
      after (exec (.selfTestSliceEnd r 0 120 []) s) fun t => t.bist.cursor == x.2 && Tbl.get 0 t.bist.results x.1 == sliceEntry 0 120 0 r) = true := by decide +kernel

/-! ### Meter -/

def metered (m : MeterSt) (M : MirrorSt) : State := { on with meter := m, mirror := M }

theorem test_meter :
    (let m : MeterSt := { powered := true, acc := 2 ^ 20, nextSeq := 7, intervalEmpty := false, vMin := 5000, vMax := 5400 }
     let s := metered m {}
     after (exec (.meterSample 54010 1000 (2 ^ 20)) s) (fun t => t.meter.acc == 2 ^ 21 && t.meter.vMin == 5000 && t.meter.vMax == 5401) &&
     after (exec (.meterSample 54010 1000 (999 * 2 ^ 20)) s) (fun t => t.outbox == [.led]) &&
     after (exec (.meterReading 900 true true) s) (fun t => t.meter.nextSeq == 8 && t.meter.ticks == 1966080 && t.meter.records.all fun r => r.energy == 1 && r.seq == 7 && r.pMax == 900) &&
     after (exec (.meterReading 900 true false) s) (fun t => t.meter == { m with ticks := 1966080 }) &&
     after (exec .meterNvWrite s) (fun t => t.meter.nvAcc == 2 ^ 20) && after (exec .meterHoldupSave s) (fun t => t.meter.nvAcc == 2 ^ 20 && !t.meter.powered) &&
     [none, some false, some true].all (fun a => after (exec (.serialCheckRetry a) s) fun t => t.meter.serialKnown == a.isSome) &&
     after (exec .meterRecordRequest s) (fun t => t.mirror.linkUp) && s.auxOn && !m.serialKnown && !s.mirror.linkUp) &&
    (let s := metered {} { linkUp := true }
     !s.meter.powered && after (exec (.meterPowerUp (some false)) s) fun t => t.meter.powered && t.meter.boots == 1 && t.meter.serialMismatch && t.mirror.sending.length == 1) =
      true := by decide +kernel

theorem test_meterRecord :
    (let r : MeterRec := { energy := 1, seq := 61, boots := 1, ticks := 0, vMin := 0, vMax := 0, pMax := 0, selfTestFail := false, serialMismatch := false,
                           overrange := false, belowImin := false, start := false }
     let s := metered { powered := true } { linkUp := true, sending := [r] }
     after (exec .meterRecordArrive s) fun t => t.mirror.sending.isEmpty && t.mirror.latest == some r && Tbl.get none t.mirror.slots 1 == some r) = true := by decide +kernel

/-! ### The code of the module memory and what the hub reads -/

def codeword : List Nat := Ecc.encode ((List.range 32).map (7 * ·))

/-- A codeword reads back from its pins; one symbol in error is corrected, wherever it stands; two are reported (R270, R271). -/
theorem test_code :
    (codeword.length == 36 && Ecc.decode codeword == .clean (codeword.take 32) && Ecc.ofPins (Ecc.pinBit codeword) == codeword &&
    [(0, 1), (31, 255), (35, 0x80)].all (fun e => Ecc.decode (Ecc.spoil codeword [e]) == .corrected (codeword.take 32)) &&
    Ecc.decode (Ecc.spoil codeword [(0, 1), (35, 1)]) == .uncorrectable && Ecc.decode (Ecc.spoil codeword [(0, 1), (1, 2), (2, 3)]) == .uncorrectable) =
      true := by decide +kernel

/-- A read that names a corrected codeword counts it, and one in a good codeword of a line with a bad one meets nothing (R271, R285). -/
theorem test_corrections :
    (let u := on.corrected [2 ^ 57 + 32, 64]
     (u.subch 0 (on.lineAt 0).1).ce == 1 && u.mem.bad.isEmpty) &&
    (let s := on.markBad 37
     s.mem.bad == [32] && (s.meetsBad [] (span 64 8)).isNone && s.meetsBad [] (span 56 9) == some 32 &&
     !(s.meetsBad [] (span 32 1)).isNone) = true := by decide +kernel

/-- Configuration space, BAR0 and BAR2 as the hub answers reads of them (R413, R414, R416, R428, R432). -/
theorem test_hostReads :
    (on.configRead 0 1 8 == .data [0, 0, 0, 0x12] && on.configRead 0 2 8 == .unsupported &&
    ({ on with power := { on.power with ready := false } }).configRead 0 1 8 == .retry &&
    (on.modWrite 0x1000 [5, 6]).bar2Read 0 false [] 0x1000 2 == .data [5, 6] && on.bar2Read 0 false [0x1000] 0x1000 2 == .poisoned [0, 0] &&
    on.bar2Read 0 false [] (2 ^ 30) 1 == .unsupported && (on.modUnit 0 fun u => { u with st := .clearing }).bar2Read 0 false [] 0 1 == .unsupported &&
    (ring0 { enable := true, cqBase := 4096 }).bar0Read 0 1 false 0x80_0000 1 == .data [1] && on.bar0Read 0 1 false 0x90_0000 2 == .data [0, 0]) = true := by
  decide +kernel

/-- A masked vector keeps its message until it is unmasked; a write of its table entry does that (R427). -/
theorem test_masking :
    (let s := (on.maskVec 0 1 31 true).msix 0 1 31
     (Tbl.get {} (s.func 0 1).vecs 31).pending && s.outbox.isEmpty && (s.func 0 1).pba == 2 ^ 31 &&
     (let t := s.vecWrite 0 1 31 8 (leBytes 8 77)
      (Tbl.get {} (t.func 0 1).vecs 31).data == 77 && t.outbox == [.msix 0 1 31] && (t.func 0 1).pba == 0)) = true := by decide +kernel

/-- On a full ring that an overrun stopped, the slot at `EXPECTED` has its quote accepted and its command not taken (R422, R426). -/
theorem test_overrunQuote :
    (let R : Ring := { enable := true, written := ({} : Ring).capacity, overrun := true }
     let bs := leBytes 128 (pack [(0, 32, 1), (32, 16, 0x02), (48, 1, 1), (64, 32, 5)])
     !R.room && after (exec (.slotWrite 0 0 128 bs false) (ring0 R)) (rung fun R => R.consumed == 5 && R.expected == 1 && R.overrun)) = true := by
  decide +kernel

/-- A change of mode holds a slot, a copy and a write of another module back; each stays where it was, and the slot is written
once the change is over, before what came after it (R26, R429). -/
theorem test_memoryHeld :
    (let hold (s : State) : State := { s with power := { s.power with modeChange := some (1, 1) } }
     let m := fromPeer 0x01 1 (unitBytes - 2) [7, 8]
     let c := cmd 0x41 [(128, 64, 0x0201), (192, 64, 0x2000), (256, 64, 3)]
     let u := landed (exec (.ringControlWrite 0 0 0 [1] false)) (landed (exec (.slotWrite 0 0 0 [7] false)) (hold on))
     (hold on).memHeld && (rung fun R => R.window.isEmpty && !R.enable) u && (u.pciPort 0).held.length == 2 &&
     after (exec .modeChangeStep { u with power := { u.power with modeChange := some (3, 1) } }) (fun t =>
       (t.pciPort 0).held.isEmpty && (t.ring 0 0).enable) &&
     after (exec (.fill here) (ask c (hold on))) (fun t => t.cmds == [c] && t.modRead 0x2000 3 == [0, 0, 0]) &&
     !(hold linked).admits m && after (exec (.fabWrite m) (hold linked)) (fun t => t.mem.cells.isEmpty && t.outbox.isEmpty && (t.session (sessAt m)).rxSeq == 5)) =
      true := by decide +kernel

/-! ### Witnesses of further premises -/

/-- A change ends while a context suspends: the queued mode is deferred (R28). -/
theorem test_modeHeldBack :
    (let s := (changing (some (3, 1)) (some 2) none).modCtx 0 fun x => { x with st := .suspending }
     s.hubOn && s.modeHeld && after (exec .modeChangeStep s) fun t => t.power.modeChange.isNone && t.power.modeQueued.isNone && t.power.modeDeferred == some 2) =
      true := by decide +kernel

/-- A suspending context that has drained is saved; a queue of it that may still end, may not be (R191, R199). -/
theorem test_saves :
    (let c := { cmd 0x12 [] with phase := .waiting }
     let s := ask c (on.modCtx 0 fun x => { x with st := .suspending })
     let u := s.setQueue 0 { running 0 with st := .ending }
     Safety.serves s && (s.ctx 0).queues.all (fun q => decide ((s.queue q).st ≠ .ending) || !s.queueDone q) &&
     after (exec (.ctxSaveComplete here) s) (fun t => (t.ctx 0).st == .suspended && (t.ctx 0).saved.isSome && completed c 0 0 t) &&
     u.queueDone 0 && after (exec (.ctxSaveComplete here) u) (fun t => (t.ctx 0).st == .suspending)) = true := by decide +kernel

/-- A bound signal at an object of a suspended context waits; a refusal for a context that is gone is dropped, and one for a suspended context waits (R203, R225). -/
theorem test_suspendedSignals :
    (let b : BoundSig := { obj := 5, kind := 1, n := 1, qid := 0, ctx := 0, part := 0, pc := 0, seq := 0, causal := 9, origin := 0 }
     let s := (withObj counter).modCtx 0 fun x => { x with st := .suspended }
     let s := { s with sync := { s.sync with bound := [b] } }
     (s.obj 5).kind == .counter && after (exec (.boundSignal 0) s) fun t => t.sync == s.sync) &&
    (let r : State := { on with sync := { on.sync with refusals := [⟨0, 7, 0x40, 7, 5, 0x31⟩] } }
     let s := r.setQueue 0 (running 0)
     (s.ctx 7).st != .suspended && (s.queue 0).ctx != some 7 && after (exec (.remoteRefusal 0) s) fun t => t.sync.refusals.isEmpty && (t.queue 0).st == .running) &&
    (let s := (withObj counter).modCtx 0 fun x => { x with st := .suspended }
     let s := { s with sync := { s.sync with refusals := [⟨0, 0, 0x40, 7, 5, 0x31⟩] } }
     after (exec (.remoteRefusal 0) s) fun t => t.sync.refusals.length == 1) = true := by decide +kernel

/-- `ACC_FREE` waits behind an operation and then starts as one (R97); a sampled operation is checked where a core may, and posts where none can (R568). -/
theorem test_matrixOther :
    (let o : MeOp := { meOp 0 .held with ins := ins 0x44 [(216, 2, 3)], rcd := 0 }
     let s := (withOp 0 .held {}).setBank 0 3 openBank
     let s := s.modMe 0 fun e => { e with ops := [o] }
     !s.meBlocked 0 o && (s.meetsBad [] (s.meKeys 0 (s.meReads 0 o))).isNone &&
     after (exec (.meOpStart 0 []) s) fun t => (t.me 0).ops.isEmpty && (t.bank 0 3).st == .free) &&
    (let sample (s : State) := s.modMe 0 fun e => { e with ops := e.ops.map fun o => { o with sampled := true } }
     let u := sample (withOp 0 .output {})
     let s := u.setSlotMap 0 (setSlot slotMapReset 8 0xA)
     s.checkers 0 0 == [] && after (exec (.meOpComplete 0) s) (fun t => (t.me 0).tokens.length == 1) && !(u.checkers 0 0).isEmpty &&
     after (exec (.meOpComplete 0) u) (fun t => (t.me 0).ops.all (·.phase == .checking) && (t.me 0).tokens.isEmpty && t.rel.jaySampled == 1)) = true := by
  decide +kernel

/-- Of two waits for tokens in a tandem pair, the earlier one takes the token; of two of one turn, the lead core's (R148, R149). -/
theorem test_tokenTurns :
    (let o (n : Nat) : SeOp := { qid := 0, ctx := 0, pc := 0, seq := 0, ins := seWord, regs := [], rcd := seRec 0, phase := .token, turn := n }
     let s (a b : Nat) := (({ on with tandem := 1 } : State).modSe 0 fun e => { e with ops := [o a] }).modSe 1 fun e => { e with ops := [o b] }
     (s 0 0).isTandem 0 && (s 3 4).firstTurn 0 3 && !(s 3 4).firstTurn 1 4 && !(s 4 3).firstTurn 0 4 && (s 3 3).firstTurn 0 3 && !(s 3 3).firstTurn 1 3 &&
     on.firstTurn 0 9) = true := by decide +kernel

/-- A transfer that pulses an event line of the hub (R253). -/
theorem test_pulse :
    (let d := dmaDesc 3 + 2 ^ 250 + 2 ^ 242
     let s := (withDma 0).modDe 0 fun e => { e with waiting := [{ xferOf true with desc := d }] }
     DRec.compl d && after (exec (.boundCompletion 0 0) s) fun t => t.sync.pulses == [DRec.pulse d] && t.sync.bound.isEmpty) = true := by decide +kernel

/-! ### Engines and services once more -/

/-- An entry that becomes the default leaves its table. -/
theorem test_mapAll : Tbl.mapAll 0 (fun _ a => a - 1) [(1, 1), (2, 5)] = [(2, 4)] := by decide +kernel

/-- A block that the reuse buffer holds is written as it was read, and not read again; padding takes no place (R243). -/
theorem test_reuse :
    (let s := withDma 0
     let sa := spadKey 0 0x1000
     let y := ({ s := s, kept := [(7, [8, 9])] } : XRun).step 0 [] (dmaDesc 0) dmaShape []
       { src := some sa, dst := some 0x4000, kind := .plain, again := some 7 }
     y.cause == 0 && y.written == 1 && y.reads == 0 && y.s.modRead 0x4000 2 == [8, 9] &&
     reused [] 0 [(1, true), (2, false), (2, true), (1, true)] == [none, none, none, some 0]) = true := by decide +kernel

/-- A copy to a survivor goes on in the microseconds without commands, but not in a change of mode; at the end of the sub-channel
the pointer stands (R280, R281). -/
theorem test_copyMoves :
    (let e : Sparing := { f := 9, survivors := [0], base := [0], live := 100, complete := false, ptr := 0 }
     let s := (on.modSubch 0 9 fun x => { x with st := 3 }).modDie 0 fun D => { D with events := [e] }
     (s.idle.die 0).events.all (fun y => decide (0 < y.ptr) && !y.complete) &&
     ({ s with power := { s.power with modeChange := some (0, 1) } }.idle.die 0).events.all (fun y => decide (y.ptr = 0))) = true := by decide +kernel

/-- An abort of a round that has ended is acknowledged and dropped; one for a round yet to come is held (R350). -/
theorem test_lateAbort :
    (let m := xch 0x3A 77 1 (leBytes 2 0x26 ++ leBytes 2 128)
     let s := linked.modPart 0 fun P => { P with ended := [(3, 0, 77, 0)] }
     s.arrival m == .next && (s.takerOf m).isNone && s.lateAbort m && after (exec (.xchAbort m) s) (fun t => (t.part 0).xheld.isEmpty && (messages t).map (·.op) == [5]) &&
     (let u := s.modPart 0 fun P => { P with insts := [instOf 1 .trigger] }
      u.yetToCome m && !u.lateAbort m && after (exec (.xchAbort m) u) fun t => (t.part 0).xheld == [m])) = true := by decide +kernel

/-- Of two old layouts the newer has drained: it goes, and the older stays (R374). -/
theorem test_newerLayoutDrains :
    (let l (n : Nat) : Layout := { epoch := n, origin := 0, px := 2, py := 1, pz := 1 }
     let x := { instOf 5 .data with blk := pack [(159, 4, 5), (155, 4, 15)], layout := l 1 }
     let s := linked.modPart 0 fun P => { P with insts := [x], groups := [(15, some { cur := l 3, old := [l 1, l 2] })] }
     after (exec (.layoutDrained 0 15) s) fun t => t.group 0 15 == some { cur := l 3, old := [l 1] }) = true := by decide +kernel

/-- A queue waits on the done object of an instance whose trigger only it would raise (R347, R553). -/
theorem test_deadlockThroughTrigger :
    (let x := { instOf 5 .trigger with blk := (instOf 5 .trigger).blk }
     let s := [1, 2, 3].foldl (fun (s : State) q => s.setQueue q { ctx := some 0 }) ((on.modPart 0 fun P => { P with insts := [x] }))
     let s := (s.setObj 6 { kind := .counter }).setObj 5 { kind := .counter, prodDecl := true, prodQ := 0, waiters := [⟨.coll 0 4, 1, 0⟩] }
     let p : SyncOp := { anOp 0x71 1 with obj := 6 }
     let s := s.setQueue 0 { running 0 with st := .waiting, wait := some { op := p, arrived := true } }
     let s := s.setObj 6 { kind := .counter, prodDecl := true, prodQ := 0, waiters := [⟨.queue 0, 1, 0⟩] }
     after (exec (.deadlockCheck 0 0) s) fun t => causeOf 0 t == some 0x07 && t.rel.deadlocks == 1) = true := by decide +kernel

/-- A checkpoint writes its header, its only chunk and its table in turn, and is done once its last manifest is acknowledged (R399). -/
theorem test_ckptSteps :
    (let c : Ckpt := { blk := ckptBlock, seq := 9, slot := [0] }
     let next (s : State) (c : Ckpt) : Option Ckpt := ((s.ckptStep 0 c).part 0).ckpt
     let s := withCkpt c linked
     CBlk.chunks ckptBlock == 1 && (next s c).any (fun c => c.stage == .chunks) && (next s { c with stage := .chunks }).any (fun c => c.stage == .table && c.crcs.length == 1) &&
     (next s { c with stage := .table, crcs := [1] }).any (fun c => c.stage == .manifest) &&
     (next s { c with stage := .seal }).any (fun c => c.stage == .done) && !((s.ckptStep 0 c).session (State.sessKey 0 2 128)).out.isEmpty) = true := by decide +kernel

/-- The alarm of a watch sets a flag; a counter in its place refuses it with 0x32 (R228, R406). -/
theorem test_alarm :
    [(ObjKind.flag, 0), (.counter, 0x32)].all (fun x =>
      let s := (granting (.layer 0) (watchOf 0 layerBlock)).setObj 7 { kind := x.1 }
      after (exec (.layerWatch 0) s) fun t => t.sync.bound.map (fun b => (b.obj, b.kind)) == [(7, 2), (6, 1)] &&
        after (exec (.boundSignal 0) t) fun u => (u.obj 7).lastErr == x.2 && (u.obj 7).count == if x.2 = 0 then 1 else 0) = true := by decide +kernel

/-- The slot of a round that is recomputed and falls due before its stash is handled still frees its buffer (R392). -/
theorem test_lateRecompute :
    (let x : Policy := { h := 0, ctx := 0, blk := twoSlots, slots := [(0, .done)], backward := true, due := 2 }
     let s := granting (.stash 0 0) ((withTwo 1 x).setObj 5 { kind := .counter } |>.setObj 6 { kind := .counter })
     let free := PBlk.freeObj twoSlots
     x.slot 0 == .done && after (exec (.stash 0 0) (s.setObj free { kind := .counter })) fun t => t.sync.bound.any (fun b => b.obj == free)) = true := by decide +kernel

/-- A sealed datagram of 3 bytes, and a message of 1217 bytes in two plain ones (R480, R481, R483). -/
theorem test_datagrams :
    datagrams none 0x30 1 2 [7, 8, 9] == [[2, 0, 0, 0, 0, 0, 1, 0, 0, 0, 3, 0, 1, 0, 0x30, 1, 7, 8, 9]] &&
    (datagrams none 0x30 1 2 (List.replicate 1217 0)).map (·.length) == [1232, 17] &&
    (datagrams (some { key := 1, base := 2 }) 0x30 1 2 (List.replicate 1201 0)).map (·.length) == [1232, 33] &&
    datagramKnown (datagram none 0x3F 0 1 1 2 []) && !datagramKnown (datagram none 0x40 0 1 1 2 []) = true := by decide +kernel

/-- `PWR_STATE` is no way into P1, and takes no other value (R495, R602). -/
theorem test_powerWrites :
    [(1, St.badField), (9, St.badState)].all (fun x => (on.dictWrite { pr := .mgmt, index := 0x1202, sub := 0 } (leBytes 8 x.1)).1 == some x.2) = true := by
  decide +kernel

/-- The last round of a `DISPATCH` stays for its `COMBINE` when the instance is gone, and no longer than that one (R381, R464). -/
theorem test_dispatchKept :
    (let x := { instOf 6 .ending with round := 1, uid := 8 }
     let y := { instOf 7 .trigger with h := 5, uid := 9, pairUid := 8, cancel := true }
     let s := linked.modPart 0 fun P => { P with insts := [x, y] }
     after (exec (.roundEnd 0 4) s) fun t => (t.part 0).insts == [y] && (t.part 0).dispatched.map (·.round) == [1] && t.pairRoundOf y == some 1 &&
       (t.pairOf { y with pairRound := some 1 }).isSome && after (exec (.roundEnd 0 5) t) fun u => (u.part 0).dispatched.isEmpty) = true := by decide +kernel

/-- A roll call that no instance has the signature of is held; when it has waited its time, the round that it differs from ends
(R348, R384). A write behind it on its session waits (R384). -/
theorem test_rollDiffers :
    (let m := xch 0x30 78 1 []
     let s := withInst (instOf 1 .roll)
     after (exec (.xchRoll m) s) fun t => (t.part 0).xheld == [m] && (t.part 0).insts == [instOf 1 .roll] && t.rollDiffers (instOf 1 .roll) m &&
       !(t.admits { fromPeer 0x01 1 0x2000 [7] with sseq := 6 }) &&
       after (exec (.xchHoldTimeout 0 0) t) (fun u => (u.part 0).xheld.isEmpty && (u.part 0).insts.all fun y => y.phase == .ending && y.status == St.paramMismatch) &&
       after (exec (.roundTimeout 0 4) t) (fun u => (u.part 0).insts.all fun y => y.phase == .ending && y.status == St.paramMismatch)) = true := by
  decide +kernel

/-- A host link as wide as its lanes; one that asks for more stays down (R411, R591). -/
theorem test_hostWidths :
    (let s := on.modPci 0 fun q => { q with perst := false }
     pciLinkOk 6 16 true && decide (16 ≤ s.widthAllowed 0) &&
     (let t := { s with bist := { s.bist with faults := [(50, 63)] } }
      t.widthAllowed 0 == 8 && after (exec (.pciLinkUp 0 6 16 true) t) (fun u => (u.pciPort 0).width == 0) &&
        after (exec (.pciLinkUp 0 6 8 true) t) fun u => (u.pciPort 0).width == 8)) = true := by decide +kernel

/-- What a closed level shows of observation data (R581). -/
theorem test_observation : obsShown [7] true = [7] ∧ obsShown [7] false = leBytes 8 2 ∧ obsShown [] false = [] := by decide +kernel

/-- A transfer that reads the host keeps a removal waiting; a stop whose queue a suspension releases completes first; a dump shows
the fault records of now; a slice with no room for its repairs leaves a fault (R442, R456, R472, R592). -/
theorem test_released :
    (let m : HostMap := ⟨2 ^ 21, 4096, 4096, true, false⟩
     let x : DeXfer := { ctx := 0, qid := 0, pc := 0, seq := 0, ins := 0, regs := [], causal := 0, descAddr := 0, started := true
                         desc := pack [(448, 64, 3 * 2 ^ 56 + 2 ^ 21)], shape := pack ((List.range 4).map fun i => (512 + 32 * i, 32, 1)) }
     let s := (on.modPart 0 fun P => { P with maps := [m] }).modDe 0 fun E => { E with active := some x }
     let c := cmd 0x21 [(256, 48, 2 ^ 21)]
     s.hostUse 0 (3 * 2 ^ 56 + 2 ^ 21, 4096) && acts 0x21 (.hostmapRemove here) c s true fun t =>
       (t.part 0).maps.isEmpty && t.cmds.all fun y => y.phase == .waiting) &&
    (let c := { cmd 0x32 [] with phase := .waiting, result := 32 }
     let s := ask c ((on.setQueue 0 { running 0 with st := .stopped, pc := 32 }).modCtx 0 fun x => { x with st := .suspending })
     after (exec (.ctxSaveComplete here) s) fun t => (t.ctx 0).st == .suspended && completed c 0 32 t) &&
    (let s := on.setQueue 0 { running 0 with st := .faulted, fault := { State.reset.queue 0 |>.fault with cause := 7 } }
     let d := s.dumpNow 0 (leBytes 700 0)
     d.length == 700 && (d[608]?) == some 7) &&
    (let b := { empty.bist with soft := [(0, 4095)] }
     b.noRoom 37 2 == 1 && (b.record 37 3 2 150 [5, 9]).faults == [(37, 9)] && entryResult (Tbl.get 0 (b.record 37 3 2 150 [5, 9]).results 37) == 2) = true := by
  decide +kernel

/-! ### The machine -/

theorem test_legal : Safety.Legal on where
  state := by decide
  modeReg := by decide
  mode := by decide
  change := by simp [on, State.reset]
  queued := by simp [on, State.reset]
  deferred := by simp [on, State.reset]
  security := by decide
  unlock := by decide
  cursor := by decide
  records := by decide
  mirror := by decide
  saved := by decide
  kept := by decide
  recorded := by simp [on, State.reset]

/-- A step from that legal state, on an empty queue and on a command. -/
theorem test_stepsOn : on.pending = [] ∧ after (step on) (fun t => t.clockUs == 1) = true ∧
    after (step { on with pending := [.wakeN] }) (fun t => t.pending.isEmpty) = true ∧ (Instr.wakeN).wf = true := by decide +kernel

end Sys2Proof.Tests
end

section
/-! PROOFS. The core programs (ch05): what the scalar, loop, branch and end instructions do to their queue, and that they leave
all else alone. -/

namespace Sys2Proof.Machine

/-! ### Registers and the key of a queue (R170, R172) -/

@[simp] theorem qid_div_four (c : Core) (q : QIx) : qid c q / 4 = c.val := by unfold qid; omega

@[simp] theorem qid_mod_four (c : Core) (q : QIx) : qid c q % 4 = q.val := by unfold qid; omega

@[simp] theorem Queue.reg_zero (Q : Queue) : Q.reg 0 = 0 := rfl

@[simp] theorem Queue.set_zero (Q : Queue) (v : BitVec 64) : Q.set 0 v = Q := rfl

theorem Queue.reg_set_same (Q : Queue) (v : BitVec 64) {i : Nat} (hi : i ≠ 0) : (Q.set i v).reg i = v := by
  simp only [Queue.set, Queue.reg, setReg, hi, if_false, Tbl.get_set_same]

/-! ### Comparisons (R168) -/

theorem ofBool64_slt (a y : BitVec 64) : ofBool64 (a.slt y) = if a.toInt < y.toInt then 1 else 0 := by
  simp only [ofBool64, BitVec.slt_iff_toInt_lt]

theorem ofBool64_ult (a y : BitVec 64) : ofBool64 (a.ult y) = if a.toNat < y.toNat then 1 else 0 := by
  simp only [ofBool64, BitVec.ult_iff_toNat_lt]

theorem ofBool64_beq (a y : BitVec 64) : ofBool64 (a == y) = if a = y then 1 else 0 := by
  simp only [ofBool64, beq_iff_eq]

/-- A minimum or maximum may choose by `<` or by `≤` on the signed values: the choice differs only where the operands are equal. -/
theorem ite_slt_eq_ite_toInt_le {a y u v : BitVec 64} (h : a = y → u = v) :
    (if a.slt y then u else v) = if a.toInt ≤ y.toInt then u else v := by
  simp only [BitVec.slt_iff_toInt_lt]
  rcases Int.lt_trichotomy a.toInt y.toInt with hlt | heq | hgt
  · rw [if_pos hlt, if_pos (Int.le_of_lt hlt)]
  · rw [if_neg (Int.not_lt.mpr (Int.le_of_eq heq.symm)), if_pos (Int.le_of_eq heq), h (BitVec.eq_of_toInt_eq heq)]
  · rw [if_neg (Int.not_lt.mpr (Int.le_of_lt hgt)), if_neg (Int.not_le.mpr hgt)]

/-! ### The next address (R180) -/

/-- Where no innermost body ends at `x`, the queue goes on behind it. -/
theorem closeLoops_of_ne {x : Nat} (next : Nat) {l : LoopLevel} (ls : List LoopLevel) (r : Table (BitVec 64)) (h : x ≠ l.stop) :
    closeLoops x next (l :: ls) r = (next, l :: ls, r) := if_neg h

/-- A body that ends with iterations left begins again. -/
theorem closeLoops_again (next : Nat) {l : LoopLevel} (ls : List LoopLevel) (r : Table (BitVec 64)) (h : 1 < l.left) :
    closeLoops l.stop next (l :: ls) r =
      (l.start, { l with left := l.left - 1, index := l.index + 1 } :: ls, applyIncs r l.incs) := by
  simp only [closeLoops, if_true, h]

/-- A body that ends without iterations left is left, its increments applied. -/
theorem closeLoops_leave (next : Nat) {l : LoopLevel} (ls : List LoopLevel) (r : Table (BitVec 64)) (h : l.left ≤ 1) :
    closeLoops l.stop next (l :: ls) r = closeLoops l.stop next ls (applyIncs r l.incs) := by
  simp only [closeLoops, if_true, Nat.not_lt.mpr h, if_false]

/-! ### Commands that only put their queue -/

/-- The command answers a state in which queue `k` is `R`, and all else is as it was. -/
def PutsQueue (i : Instr) (s : State) (k : Nat) (R : Queue) : Prop :=
  ∃ t, exec i s = .next t ∧ t.queue k = R ∧ Safety.queueOnly s t k

section
variable {i : Instr} {op : Nat} {c : Core} {q : QIx} {s : State} {w : Nat}

/-- A command of the engines whose effect is to put its queue leaves everything else alone. -/
theorem putsQueue_of_engines {g : State → State} {k : Nat} {R : Queue} (hexec : exec i s = engines g s) (hp : s.powered = true)
    (hg : g s = s.setQueue k R) : PutsQueue i s k R := by
  unfold PutsQueue
  rw [hexec]
  exact engines_setQueue s k R g hp hg

/-- Where its word issues, an instruction whose effect is to put its queue leaves everything else alone. -/
theorem putsQueue_of_issues {f : State → Nat → Nat → State} {R : Queue} (hexec : exec i s = engines (issueOp op c q f) s)
    (hf : f s (qid c q) w = s.setQueue (qid c q) R) (h : Safety.issues op c q s w = true) : PutsQueue i s (qid c q) R :=
  putsQueue_of_engines hexec ((issues_iff op c q s w).mp h).1 (by rw [issueOp_issues op c q f s w h, hf])

/-- A scalar instruction puts what it makes of its queue, gone on past the instruction. -/
theorem putsQueue_scalar {g : Queue → Nat → Queue} {R : Queue} (hexec : exec i s = engines (issueOp op c q (scalar g)) s)
    (hg : g (s.queue (qid c q)) w = R) (h : Safety.issues op c q s w = true) : PutsQueue i s (qid c q) R.advance :=
  putsQueue_of_issues hexec (by rw [← hg]; rfl) h

/-- Scalar arithmetic writes its register with the value of the operation. -/
theorem putsQueue_alu {f : BitVec 64 → BitVec 64 → BitVec 64} {v : BitVec 64} (hexec : exec i s = engines (issueOp op c q (scalar (alu f))) s)
    (hv : f ((s.queue (qid c q)).reg (Ins.sa w)) (operandY (s.queue (qid c q)) w) = v) (h : Safety.issues op c q s w = true) :
    PutsQueue i s (qid c q) ((s.queue (qid c q)).set (Ins.sd w) v).advance :=
  putsQueue_scalar hexec (by rw [← hv]; rfl) h

/-- The command `NOP` takes a word of an unknown opcode too; where its own word issues, it only goes on. -/
theorem putsQueue_nop (h : Safety.issues 0x00 c q s w = true) : PutsQueue (.nop c q) s (qid c q) (s.queue (qid c q)).advance := by
  obtain ⟨hp, hw, hop, -⟩ := (issues_iff 0x00 c q s w).mp h
  have known : insFields w (s.isTandem c.val) = some [] := by simp only [insFields, hop]
  have hexec : exec (.nop c q) s = execNop c q s := rfl
  refine putsQueue_of_engines hexec hp ?_
  rw [State.issueAt, hw]
  simp only [known, Option.isNone_some, Bool.false_eq_true, if_false]
  rw [issueOp_issues 0x00 c q _ s w h]
  rfl

/-! ### Loops and branches (R179, R181, R185) -/

variable {ls : List LoopLevel} {a : Nat}

/-- A body that ends at `a` does not go beyond the enclosing body. -/
theorem not_head_any_stop_lt (h : ∀ l, ls.head? = some l → a ≤ l.stop) : ¬ ls.head?.any (fun l => decide (l.stop < a)) := by
  cases ls with
  | nil => exact Bool.false_ne_true
  | cons l ls => simpa using h l rfl

/-- A target from the start to the end of the innermost body is not outside it. -/
theorem not_head_any_outside (h : ∀ l, ls.head? = some l → l.start ≤ a ∧ a ≤ l.stop) :
    ¬ ls.head?.any (fun l => decide (a < l.start) || decide (l.stop < a)) := by
  cases ls with
  | nil => exact Bool.false_ne_true
  | cons l ls => simpa using h l rfl

end

/-! ### Obligations -/

/-- Settles O6: each instruction is an operation on its queue alone, by `putsQueue_alu` and `putsQueue_scalar`. -/
theorem scalarInstructions : Obligations.ScalarInstructions := by
  unfold Obligations.ScalarInstructions
  refine ⟨fun Q v => ⟨Q.reg_zero, Q.set_zero v, fun i hi => Q.reg_set_same v hi⟩, ?arithmetic, ?others⟩
  case arithmetic =>
    intro c q s w
    refine ⟨putsQueue_alu rfl rfl, putsQueue_alu rfl rfl, putsQueue_alu rfl rfl, putsQueue_alu rfl rfl, putsQueue_alu rfl rfl,
      putsQueue_alu rfl rfl, putsQueue_alu rfl rfl, putsQueue_alu rfl rfl, putsQueue_alu rfl rfl, ?min, ?max, ?slt, ?sltu, ?seq⟩
    case min => exact putsQueue_alu rfl (ite_slt_eq_ite_toInt_le id)
    case max => exact putsQueue_alu rfl (ite_slt_eq_ite_toInt_le Eq.symm)
    case slt => exact putsQueue_alu rfl (ofBool64_slt _ _)
    case sltu => exact putsQueue_alu rfl (ofBool64_ult _ _)
    case seq => exact putsQueue_alu rfl (ofBool64_beq _ _)
  case others =>
    intro c q s w
    refine ⟨putsQueue_nop, putsQueue_scalar rfl rfl, putsQueue_scalar rfl rfl, putsQueue_scalar rfl rfl, ?getid, ?lidx⟩
    case getid =>
      refine putsQueue_of_issues rfl ?_
      simp only [scalar, State.getId, qid_div_four, qid_mod_four]
      rfl
    case lidx =>
      intro l hl
      exact putsQueue_of_issues rfl (by simp only [hl])

/-- Settles O7: the next address is `closeLoops`, one lemma per case; each instruction puts its queue alone, where its checks pass. -/
theorem loopsAndBranches : Obligations.LoopsAndBranches := by
  unfold Obligations.LoopsAndBranches
  refine ⟨?nextAddress, ?instructions⟩
  case nextAddress =>
    intro Q l ls x
    refine ⟨rfl, fun hx => ?past, fun hl => ?again, fun hl hi => ?left⟩
    case past => simp only [Queue.goOn, closeLoops_of_ne _ _ _ hx, and_self]
    case again => simp only [Queue.goOn, closeLoops_again _ _ _ hl, and_self]
    case left => simp only [Queue.goOn, closeLoops_leave _ _ _ hl, hi, applyIncs]
  case instructions =>
    intro c q s w
    refine ⟨fun hd hb hn h0 => ⟨loopLevel w (s.queue (qid c q)).pc _, rfl, rfl, rfl, rfl, ?enter⟩,
      fun hd hb hn h0 => ?skip, fun l ls hl => ?lbrk, fun hb => ?straight, fun hb ht => ?taken, ?endQ, fun hp he hd => ?ended⟩
    case enter =>
      exact putsQueue_of_issues rfl <|
        (if_neg (Nat.ne_of_lt hd)).trans <| (if_neg hb).trans <| (if_neg (not_head_any_stop_lt hn)).trans (if_neg h0)
    case skip =>
      exact putsQueue_of_issues rfl <|
        (if_neg (Nat.ne_of_lt hd)).trans <| (if_neg hb).trans <| (if_neg (not_head_any_stop_lt hn)).trans (if_pos h0)
    case lbrk => exact putsQueue_of_issues rfl (by simp only [hl])
    case straight => exact putsQueue_of_issues rfl (if_neg (Bool.eq_false_iff.mp hb))
    case taken => exact putsQueue_of_issues rfl <| (if_pos hb).trans (if_neg (not_head_any_outside ht))
    case endQ => exact putsQueue_of_issues rfl rfl
    case ended => exact putsQueue_of_engines rfl hp (if_pos ⟨he, hd⟩)

end Sys2Proof.Machine
end

section
/-! PROOFS. Synchronisation (ch06): how a counter serves its line, and what the operations do to counters and flags. -/

namespace Sys2Proof.Machine

/-! ### The line of a counter (R210) -/

/-- The head is served while its n does not exceed the count, and takes its n. -/
theorem serveCounter_cons_of_le {n : Nat} {w : Waiter} (ws : List Waiter) (h : w.n ≤ n) :
    serveCounter n (w :: ws) =
      ((serveCounter (n - w.n) ws).1, w :: (serveCounter (n - w.n) ws).2.1, (serveCounter (n - w.n) ws).2.2) := if_pos h

/-- A head whose n exceeds the count holds up the whole line. -/
theorem serveCounter_cons_of_lt {n : Nat} {w : Waiter} (ws : List Waiter) (h : n < w.n) :
    serveCounter n (w :: ws) = (n, [], w :: ws) := if_neg (Nat.not_le.mpr h)

/-- Those served are a front of the line, and those left are the rest of it, in their order. -/
theorem serveCounter_append (n : Nat) (l : List Waiter) : (serveCounter n l).2.1 ++ (serveCounter n l).2.2 = l := by
  induction l generalizing n with
  | nil => rfl
  | cons w ws ih =>
    rcases Nat.lt_or_ge n w.n with hlt | hle
    · rw [serveCounter_cons_of_lt ws hlt, List.nil_append]
    · rw [serveCounter_cons_of_le ws hle, List.cons_append, ih]

/-- What is left and what the served take make up the count. -/
theorem serveCounter_add_sum (n : Nat) (l : List Waiter) :
    (serveCounter n l).1 + ((serveCounter n l).2.1.map (·.n)).sum = n := by
  induction l generalizing n with
  | nil => rfl
  | cons w ws ih =>
    rcases Nat.lt_or_ge n w.n with hlt | hle
    · rw [serveCounter_cons_of_lt ws hlt, List.map_nil, List.sum_nil, Nat.add_zero]
    · have rest := ih (n - w.n)
      rw [serveCounter_cons_of_le ws hle, List.map_cons, List.sum_cons]
      omega

/-- Serving stops only at a wait whose n exceeds what is left. -/
theorem serveCounter_lt_head (n : Nat) (l : List Waiter) {x : Waiter} (hx : (serveCounter n l).2.2.head? = some x) :
    (serveCounter n l).1 < x.n := by
  induction l generalizing n with
  | nil => nomatch hx
  | cons w ws ih =>
    rcases Nat.lt_or_ge n w.n with hlt | hle
    · rw [serveCounter_cons_of_lt ws hlt] at hx ⊢
      cases hx
      exact hlt
    · rw [serveCounter_cons_of_le ws hle] at hx ⊢
      exact ih (n - w.n) hx

/-! ### Effects on counters and flags (R209, R212) -/

section
variable {o : SyncObj} {n : Nat} {w : Waiter}

theorem SyncObj.addCount_of_le (h : o.count + n ≤ 65535) :
    o.addCount n = .inr ({ o with count := (serveCounter (o.count + n) o.waiters).1, waiters := (serveCounter (o.count + n) o.waiters).2.2 },
      (serveCounter (o.count + n) o.waiters).2.1) := if_pos h

theorem SyncObj.addCount_of_lt (h : 65535 < o.count + n) : o.addCount n = .inl (0x31, o.count) := if_neg (Nat.not_le.mpr h)

theorem SyncObj.decCount_of_le (h : n ≤ o.count) : o.decCount n = .inr ({ o with count := o.count - n }, []) := if_pos h

theorem SyncObj.decCount_of_lt (h : o.count < n) : o.decCount n = .inl (0x30, o.count) := if_neg (Nat.not_le.mpr h)

/-- A wait that finds no line and enough of a count acquires at once. -/
theorem SyncObj.acquire_of_le (hw : o.waiters = []) (h : w.n ≤ o.count) : o.acquire w = .inr ({ o with count := o.count - w.n }, [w]) := by
  simp only [SyncObj.acquire, hw, List.nil_append, serveCounter_cons_of_le [] h, serveCounter]

/-- A wait that finds no line but too little of a count becomes its head. -/
theorem SyncObj.acquire_of_lt (hw : o.waiters = []) (h : o.count < w.n) : o.acquire w = .inr ({ o with waiters := [w] }, []) := by
  simp only [SyncObj.acquire, hw, List.nil_append, serveCounter_cons_of_lt [] h]

/-- Behind a head that the count does not satisfy, a wait joins the tail, however small it is. -/
theorem SyncObj.acquire_behind {x : Waiter} (hx : o.waiters.head? = some x) (h : o.count < x.n) :
    o.acquire w = .inr ({ o with waiters := o.waiters ++ [w] }, []) := by
  obtain ⟨ws, hws⟩ := List.head?_eq_some_iff.mp hx
  simp only [SyncObj.acquire, hws, List.cons_append, serveCounter_cons_of_lt (ws ++ [w]) h]

theorem SyncObj.awaitFlag_set (h : o.count = 1) : o.awaitFlag w = .inr (o, [w]) := if_pos h

theorem SyncObj.awaitFlag_clear (h : o.count ≠ 1) : o.awaitFlag w = .inr ({ o with waiters := o.waiters ++ [w] }, []) := if_neg h

end

/-! ### Checks (R201, R223) -/

/-- The owning context has access to its objects. -/
theorem accessErr_own {o : SyncObj} {ctx part : Nat} (remote : Bool) (hkind : o.kind ≠ .free) (hpart : o.part = part) (hctx : o.ctx = ctx) :
    accessErr o ctx part remote = none := by
  simp [accessErr, hkind, hpart, hctx]

theorem kindErr_of_eq {o : SyncObj} {k : ObjKind} (h : o.kind = k) : kindErr o k = none := if_pos h

theorem kindErr_of_ne {o : SyncObj} {k : ObjKind} (h : o.kind ≠ k) : kindErr o k = some (0x32, o.kind.code) := if_neg h

/-- Without a declared producer, any queue may produce. -/
theorem declaredErr_undeclared {o : SyncObj} (q : Nat) (remote : Bool) (h : o.prodDecl = false) : declaredErr o q remote = none := by
  simp only [declaredErr, h, Bool.not_false, if_true]

/-! ### Operations at their object -/

/-- The wait that an operation leaves at its object. -/
def SyncOp.waiter (p : SyncOp) : Waiter := { who := .queue p.qid, n := p.n, gen := p.gen }

section
variable {o : SyncObj} {p : SyncOp} (ha : accessErr o p.ctx p.part p.remote.isSome = none)
  (hd : declaredErr o p.qid p.remote.isSome = none)

include ha

theorem SyncObj.take_sig_otherKind (hk : o.kind ≠ .counter) (hop : p.opc = 0x70) : o.take p = .inl (0x32, o.kind.code) := by
  simp only [SyncObj.take, hop, ha, kindErr_of_ne hk, firstErr]

theorem SyncObj.take_waitacq (hk : o.kind = .counter) (hop : p.opc = 0x71) : o.take p = o.acquire p.waiter := by
  simp only [SyncObj.take, hop, ha, kindErr_of_eq hk, firstErr, SyncOp.waiter]

theorem SyncObj.take_dec (hk : o.kind = .counter) (hop : p.opc = 0x72) : o.take p = o.decCount p.n := by
  simp only [SyncObj.take, hop, ha, kindErr_of_eq hk, firstErr]

theorem SyncObj.take_fclr (hk : o.kind = .flag) (hop : p.opc = 0x74) : o.take p = o.clearFlag := by
  simp only [SyncObj.take, hop, ha, kindErr_of_eq hk, firstErr]

theorem SyncObj.take_fwait (hk : o.kind = .flag) (hop : p.opc = 0x75) : o.take p = o.awaitFlag p.waiter := by
  simp only [SyncObj.take, hop, ha, kindErr_of_eq hk, firstErr, SyncOp.waiter]

include hd

theorem SyncObj.take_sig (hk : o.kind = .counter) (hop : p.opc = 0x70) : o.take p = o.addCount p.n := by
  simp only [SyncObj.take, hop, ha, kindErr_of_eq hk, hd, firstErr]

theorem SyncObj.take_fset (hk : o.kind = .flag) (hop : p.opc = 0x73) : o.take p = o.setFlag := by
  simp only [SyncObj.take, hop, ha, kindErr_of_eq hk, hd, firstErr]

end

/-! ### Obligations -/

/-- Settles O14: three inductions over the line, one per conjunct; a `SIG` that passes its checks is an add. -/
theorem counterServesInOrder : Obligations.CounterServesInOrder := by
  unfold Obligations.CounterServesInOrder
  refine ⟨fun n l => ⟨(serveCounter_append n l).symm, serveCounter_add_sum n l, fun x hx => serveCounter_lt_head n l hx⟩,
    fun o p n => ⟨SyncObj.addCount_of_le, fun hk hop ha hd hn => ?sig⟩⟩
  case sig => exact (SyncObj.take_sig ha hd hk hop).trans (SyncObj.addCount_of_le hn)

/-- Settles O13: an operation that passes its checks is its effect, and each effect has one lemma per row of the tables of R209 and R212. -/
theorem counterAndFlagRules : Obligations.CounterAndFlagRules := by
  unfold Obligations.CounterAndFlagRules
  intro o p hpart hctx _ hdecl
  have access (hfree : o.kind ≠ .free) : accessErr o p.ctx p.part p.remote.isSome = none := accessErr_own _ hfree hpart hctx
  have counter (hk : o.kind = .counter) := access (by rw [hk]; decide)
  have flag (hk : o.kind = .flag) := access (by rw [hk]; decide)
  have produces : declaredErr o p.qid p.remote.isSome = none := declaredErr_undeclared _ _ hdecl
  refine ⟨fun h => ⟨fun hk hop => ?sig, SyncObj.addCount_of_le h⟩, fun h => ⟨fun hk hop => ?overflow, SyncObj.addCount_of_lt h⟩,
    fun h hk hop => ?dec, fun h hk hop => ?underflow, fun hw h hk hop => ?acquired, fun hw h hk hop => ?first, fun x hx h hk hop => ?behind,
    fun hk hop => ?fset, rfl, fun hk hop => ?fclr, fun h hk hop => ?fwaitSet, fun h hk hop => ?fwaitClear, fun hk hfree hop => ?otherKind⟩
  case sig => exact (SyncObj.take_sig (counter hk) produces hk hop).trans (SyncObj.addCount_of_le h)
  case overflow => exact (SyncObj.take_sig (counter hk) produces hk hop).trans (SyncObj.addCount_of_lt h)
  case dec => exact (SyncObj.take_dec (counter hk) hk hop).trans (SyncObj.decCount_of_le h)
  case underflow => exact (SyncObj.take_dec (counter hk) hk hop).trans (SyncObj.decCount_of_lt h)
  case acquired => exact (SyncObj.take_waitacq (counter hk) hk hop).trans (SyncObj.acquire_of_le hw h)
  case first => exact (SyncObj.take_waitacq (counter hk) hk hop).trans (SyncObj.acquire_of_lt hw h)
  case behind => exact (SyncObj.take_waitacq (counter hk) hk hop).trans (SyncObj.acquire_behind hx h)
  case fset => exact SyncObj.take_fset (flag hk) produces hk hop
  case fclr => exact SyncObj.take_fclr (flag hk) hk hop
  case fwaitSet => exact (SyncObj.take_fwait (flag hk) hk hop).trans (SyncObj.awaitFlag_set h)
  case fwaitClear => exact (SyncObj.take_fwait (flag hk) hk hop).trans (SyncObj.awaitFlag_clear h)
  case otherKind => exact SyncObj.take_sig_otherKind (access hfree) hk hop

end Sys2Proof.Machine
end
